-- ==== Sys2Proof/Word.lean ====
section
/-! DEFINITION. The word types of the Sorrek 6 (spec 00 R3, R4; 07 R135). -/

namespace Sys2Proof

/-- One byte of memory (00 R4). -/
abbrev Byte := BitVec 8

/-- A 32-bit lane value (07 R135). -/
abbrev Word := BitVec 32

/-- A 64-bit scalar value (05 R105). -/
abbrev DWord := BitVec 64

/-- A lane mask: bit `l` stands for lane `l` (00 R3). -/
abbrev Mask := BitVec 64

/-- A 128-byte line; byte `i` of the line is bits `[8i+7:8i]` (00 Table 0.1). -/
abbrev Line := BitVec 1024

/-- One 32-bit register across the 64 lanes of a warp (01 R16). -/
abbrev Vec := Vector Word 64

/-- A sparse table: entries sorted by key, no key twice; an absent key is in its initial state. -/
abbrev Tab (α : Type) := List (Nat × α)

/-- The lane numbers 0 to 63 in ascending order (02 Table 2.1). -/
def lanes : List Nat := List.range 64

/-- The register whose lane `l` holds `f l`. -/
def Vec.of (f : Nat → Word) : Vec :=
  ⟨((List.range 64).map f).toArray, by simp⟩

/-- The value of lane `l` (zero for a lane number that does not exist). -/
def Vec.lane (v : Vec) (l : Nat) : Word := v.toArray.toList.getD l 0

/-- The register with every lane equal to `w`. -/
def Vec.splat (w : Word) : Vec := Vec.of (fun _ => w)

/-- Replaces lane `l`. -/
def Vec.set (v : Vec) (l : Nat) (w : Word) : Vec := Vec.of (fun i => if i = l then w else v.lane i)

namespace Tab

/-- The entry at a key, if any. -/
def get? {α : Type} (t : Tab α) (k : Nat) : Option α :=
  match t with
  | [] => none
  | (j, a) :: r => if j = k then some a else get? r k

/-- Whether the key has an entry. -/
def has {α : Type} (t : Tab α) (k : Nat) : Bool := (t.get? k).isSome

/-- The entry at a key, or the given initial value. -/
def getD {α : Type} (t : Tab α) (k : Nat) (d : α) : α := (t.get? k).getD d

/-- Writes the entry at a key, keeping the keys sorted. -/
def put {α : Type} (t : Tab α) (k : Nat) (a : α) : Tab α :=
  match t with
  | [] => [(k, a)]
  | (j, b) :: r =>
    if j = k then (k, a) :: r
    else if k < j then (k, a) :: (j, b) :: r
    else (j, b) :: put r k a

/-- Removes the entry at a key. -/
def del {α : Type} (t : Tab α) (k : Nat) : Tab α := t.filter (fun p => p.1 != k)

/-- The least key at or above `n` that has no entry, searching at most `fuel` keys. -/
def firstFree {α : Type} (t : Tab α) (fuel n : Nat) : Option Nat :=
  match fuel with
  | 0 => none
  | f + 1 => if t.has n then firstFree t f (n + 1) else some n

end Tab

end Sys2Proof
end

