-- ==== Sys2Proof/Syntax.lean ====
section
/-! DEFINITION. The instructions of Calgor and the hardware events, one constructor per row of the opcode table.
An instruction word's fields are the raw bit fields of its format (17 Table 17.1); an event has no word, and its
operands are what the agent that brings it about supplies (95). -/

namespace Sys2Proof

/-- The instruction words (first part) and the events (second part) of the opcode table. -/
inductive Instr where
  /-- `IADD_32` (R371): Adds two 32-bit integer vectors lane by lane, wrapping. -/
  | iadd32 (c : BitVec 2) (w : BitVec 2) (d : BitVec 6) (a : BitVec 6) (b : BitVec 6)
  /-- `ISUB_32` (R371): Subtracts two 32-bit integer vectors lane by lane, wrapping. -/
  | isub32 (c : BitVec 2) (w : BitVec 2) (d : BitVec 6) (a : BitVec 6) (b : BitVec 6)
  /-- `IMUL_32` (R371): Multiplies 32-bit integers and keeps the low half. -/
  | imul32 (c : BitVec 2) (w : BitVec 2) (d : BitVec 6) (a : BitVec 6) (b : BitVec 6)
  /-- `IMULH_I_32` (R371): Returns the high half of the signed 32-bit product. -/
  | imulhI32 (c : BitVec 2) (w : BitVec 2) (d : BitVec 6) (a : BitVec 6) (b : BitVec 6)
  /-- `IMULH_N_32` (R371): Returns the high half of the unsigned 32-bit product. -/
  | imulhN32 (c : BitVec 2) (w : BitVec 2) (d : BitVec 6) (a : BitVec 6) (b : BitVec 6)
  /-- `IMAD_32` (R371): Multiplies two 32-bit integers and adds the old destination. -/
  | imad32 (c : BitVec 2) (w : BitVec 2) (d : BitVec 6) (a : BitVec 6) (b : BitVec 6)
  /-- `IMIN_I_32` (R371): Signed 32-bit minimum per lane. -/
  | iminI32 (c : BitVec 2) (w : BitVec 2) (d : BitVec 6) (a : BitVec 6) (b : BitVec 6)
  /-- `IMIN_N_32` (R371): Unsigned 32-bit minimum per lane. -/
  | iminN32 (c : BitVec 2) (w : BitVec 2) (d : BitVec 6) (a : BitVec 6) (b : BitVec 6)
  /-- `IMAX_I_32` (R371): Signed 32-bit maximum per lane. -/
  | imaxI32 (c : BitVec 2) (w : BitVec 2) (d : BitVec 6) (a : BitVec 6) (b : BitVec 6)
  /-- `IMAX_N_32` (R371): Unsigned 32-bit maximum per lane. -/
  | imaxN32 (c : BitVec 2) (w : BitVec 2) (d : BitVec 6) (a : BitVec 6) (b : BitVec 6)
  /-- `IABS_32` (R371): Absolute value of a signed 32-bit integer per lane. -/
  | iabs32 (c : BitVec 2) (w : BitVec 2) (d : BitVec 6) (a : BitVec 6)
  /-- `IADDS_I_32` (R371): Signed saturating 32-bit add. -/
  | iaddsI32 (c : BitVec 2) (w : BitVec 2) (d : BitVec 6) (a : BitVec 6) (b : BitVec 6)
  /-- `IADDS_N_32` (R371): Unsigned saturating 32-bit add. -/
  | iaddsN32 (c : BitVec 2) (w : BitVec 2) (d : BitVec 6) (a : BitVec 6) (b : BitVec 6)
  /-- `ISUBS_I_32` (R371): Signed saturating 32-bit subtract. -/
  | isubsI32 (c : BitVec 2) (w : BitVec 2) (d : BitVec 6) (a : BitVec 6) (b : BitVec 6)
  /-- `ISUBS_N_32` (R371): Unsigned saturating 32-bit subtract. -/
  | isubsN32 (c : BitVec 2) (w : BitVec 2) (d : BitVec 6) (a : BitVec 6) (b : BitVec 6)
  /-- `IADD_64` (R371): Adds 64-bit integer pairs lane by lane, wrapping. -/
  | iadd64 (c : BitVec 2) (d : BitVec 6) (a : BitVec 6) (b : BitVec 6)
  /-- `ISUB_64` (R371): Subtracts 64-bit integer pairs, wrapping. -/
  | isub64 (c : BitVec 2) (d : BitVec 6) (a : BitVec 6) (b : BitVec 6)
  /-- `IMUL_64` (R371): Multiplies 64-bit integers and keeps the low half. -/
  | imul64 (c : BitVec 2) (d : BitVec 6) (a : BitVec 6) (b : BitVec 6)
  /-- `IMULH_I_64` (R371): High half of the signed 64-bit product. -/
  | imulhI64 (c : BitVec 2) (d : BitVec 6) (a : BitVec 6) (b : BitVec 6)
  /-- `IMULH_N_64` (R371): High half of the unsigned 64-bit product. -/
  | imulhN64 (c : BitVec 2) (d : BitVec 6) (a : BitVec 6) (b : BitVec 6)
  /-- `IMAD_64` (R371): 64-bit multiply-add into the old destination pair. -/
  | imad64 (c : BitVec 2) (d : BitVec 6) (a : BitVec 6) (b : BitVec 6)
  /-- `IMIN_I_64` (R371): Signed 64-bit minimum. -/
  | iminI64 (c : BitVec 2) (d : BitVec 6) (a : BitVec 6) (b : BitVec 6)
  /-- `IMIN_N_64` (R371): Unsigned 64-bit minimum. -/
  | iminN64 (c : BitVec 2) (d : BitVec 6) (a : BitVec 6) (b : BitVec 6)
  /-- `IMAX_I_64` (R371): Signed 64-bit maximum. -/
  | imaxI64 (c : BitVec 2) (d : BitVec 6) (a : BitVec 6) (b : BitVec 6)
  /-- `IMAX_N_64` (R371): Unsigned 64-bit maximum. -/
  | imaxN64 (c : BitVec 2) (d : BitVec 6) (a : BitVec 6) (b : BitVec 6)
  /-- `IABS_64` (R371): Absolute value of a signed 64-bit integer. -/
  | iabs64 (c : BitVec 2) (d : BitVec 6) (a : BitVec 6)
  /-- `IADDS_I_64` (R371): Signed saturating 64-bit add. -/
  | iaddsI64 (c : BitVec 2) (d : BitVec 6) (a : BitVec 6) (b : BitVec 6)
  /-- `IADDS_N_64` (R371): Unsigned saturating 64-bit add. -/
  | iaddsN64 (c : BitVec 2) (d : BitVec 6) (a : BitVec 6) (b : BitVec 6)
  /-- `ISUBS_I_64` (R371): Signed saturating 64-bit subtract. -/
  | isubsI64 (c : BitVec 2) (d : BitVec 6) (a : BitVec 6) (b : BitVec 6)
  /-- `ISUBS_N_64` (R371): Unsigned saturating 64-bit subtract. -/
  | isubsN64 (c : BitVec 2) (d : BitVec 6) (a : BitVec 6) (b : BitVec 6)
  /-- `AND` (R323): Bitwise and of two vectors. -/
  | and (c : BitVec 2) (w : BitVec 2) (d : BitVec 6) (a : BitVec 6) (b : BitVec 6)
  /-- `OR` (R384): Bitwise or of two vectors. -/
  | or (c : BitVec 2) (w : BitVec 2) (d : BitVec 6) (a : BitVec 6) (b : BitVec 6)
  /-- `XOR` (R440): Bitwise xor of two vectors. -/
  | xor (c : BitVec 2) (w : BitVec 2) (d : BitVec 6) (a : BitVec 6) (b : BitVec 6)
  /-- `ANDN` (R323): Bitwise a and not b. -/
  | andn (c : BitVec 2) (w : BitVec 2) (d : BitVec 6) (a : BitVec 6) (b : BitVec 6)
  /-- `SHL` (R411): Shifts each lane left by a per-lane amount. -/
  | shl (c : BitVec 2) (d : BitVec 6) (a : BitVec 6) (b : BitVec 6)
  /-- `SHR_N` (R411): Logical right shift by a per-lane amount. -/
  | shrN (c : BitVec 2) (d : BitVec 6) (a : BitVec 6) (b : BitVec 6)
  /-- `SHR_I` (R411): Arithmetic right shift by a per-lane amount. -/
  | shrI (c : BitVec 2) (d : BitVec 6) (a : BitVec 6) (b : BitVec 6)
  /-- `ROT` (R384): Rotates each lane left by an amount modulo 32. -/
  | rot (c : BitVec 2) (d : BitVec 6) (a : BitVec 6) (b : BitVec 6)
  /-- `POPC` (R384): Counts set bits per lane. -/
  | popc (c : BitVec 2) (d : BitVec 6) (a : BitVec 6)
  /-- `CLZ` (R323): Counts leading zero bits per lane. -/
  | clz (c : BitVec 2) (d : BitVec 6) (a : BitVec 6)
  /-- `BREV` (R323): Reverses the bit order of each lane. -/
  | brev (c : BitVec 2) (d : BitVec 6) (a : BitVec 6)
  /-- `BFX_N` (R323): Extracts an unsigned bit field. -/
  | bfxN (c : BitVec 2) (d : BitVec 6) (a : BitVec 6) (b : BitVec 6)
  /-- `BFX_I` (R323): Extracts a sign-extended bit field. -/
  | bfxI (c : BitVec 2) (d : BitVec 6) (a : BitVec 6) (b : BitVec 6)
  /-- `BFI` (R323): Inserts a bit field into the destination. -/
  | bfi (c : BitVec 2) (d : BitVec 6) (a : BitVec 6) (b : BitVec 6)
  /-- `VSEL` (R434): Selects bits of A or B under the mask held in D. -/
  | vsel (c : BitVec 2) (w : BitVec 2) (d : BitVec 6) (a : BitVec 6) (b : BitVec 6)
  /-- `IADDI` (R373): Adds an immediate to each lane. -/
  | iaddi (c : BitVec 2) (w : BitVec 2) (d : BitVec 6) (i : BitVec 12)
  /-- `ANDI` (R324): Ands an immediate into each lane. -/
  | andi (c : BitVec 2) (w : BitVec 2) (d : BitVec 6) (i : BitVec 12)
  /-- `ORI` (R385): Ors an immediate into each lane. -/
  | ori (c : BitVec 2) (w : BitVec 2) (d : BitVec 6) (i : BitVec 12)
  /-- `XORI` (R440): Xors an immediate into each lane. -/
  | xori (c : BitVec 2) (w : BitVec 2) (d : BitVec 6) (i : BitVec 12)
  /-- `SHLI` (R411): Shifts each lane left by an immediate. -/
  | shli (c : BitVec 2) (w : BitVec 2) (d : BitVec 6) (i : BitVec 12)
  /-- `SHRI_N` (R411): Logical right shift by an immediate. -/
  | shriN (c : BitVec 2) (w : BitVec 2) (d : BitVec 6) (i : BitVec 12)
  /-- `SHRI_I` (R411): Arithmetic right shift by an immediate. -/
  | shriI (c : BitVec 2) (w : BitVec 2) (d : BitVec 6) (i : BitVec 12)
  /-- `VMOVI` (R431): Writes an immediate into each active lane. -/
  | vmovi (c : BitVec 2) (w : BitVec 2) (d : BitVec 6) (i : BitVec 12)
  /-- `IMULI` (R373): Multiplies each lane by an immediate. -/
  | imuli (c : BitVec 2) (w : BitVec 2) (d : BitVec 6) (i : BitVec 12)
  /-- `FADD_F32` (R355): Correctly rounded f32 addition. -/
  | faddF32 (c : BitVec 2) (w : BitVec 2) (d : BitVec 6) (a : BitVec 6) (b : BitVec 6)
  /-- `FSUB_F32` (R355): Correctly rounded f32 subtraction. -/
  | fsubF32 (c : BitVec 2) (w : BitVec 2) (d : BitVec 6) (a : BitVec 6) (b : BitVec 6)
  /-- `FMUL_F32` (R355): Correctly rounded f32 multiplication. -/
  | fmulF32 (c : BitVec 2) (w : BitVec 2) (d : BitVec 6) (a : BitVec 6) (b : BitVec 6)
  /-- `FFMA_F32` (R355): f32 fused multiply-add with one rounding. -/
  | ffmaF32 (c : BitVec 2) (w : BitVec 2) (d : BitVec 6) (a : BitVec 6) (b : BitVec 6)
  /-- `FMIN_F32` (R356): f32 minimum with NaN and signed-zero rules. -/
  | fminF32 (c : BitVec 2) (w : BitVec 2) (d : BitVec 6) (a : BitVec 6) (b : BitVec 6)
  /-- `FMAX_F32` (R356): f32 maximum with NaN and signed-zero rules. -/
  | fmaxF32 (c : BitVec 2) (w : BitVec 2) (d : BitVec 6) (a : BitVec 6) (b : BitVec 6)
  /-- `FABS_F32` (R356): Clears the f32 sign bit. -/
  | fabsF32 (c : BitVec 2) (w : BitVec 2) (d : BitVec 6) (a : BitVec 6)
  /-- `FNEG_F32` (R356): Inverts the f32 sign bit. -/
  | fnegF32 (c : BitVec 2) (w : BitVec 2) (d : BitVec 6) (a : BitVec 6)
  /-- `FSCALE_F32` (R357): Multiplies an f32 by a power of two. -/
  | fscaleF32 (c : BitVec 2) (w : BitVec 2) (d : BitVec 6) (a : BitVec 6) (b : BitVec 6)
  /-- `FDIV_F32` (R355): Correctly rounded f32 division. -/
  | fdivF32 (c : BitVec 2) (w : BitVec 2) (d : BitVec 6) (a : BitVec 6) (b : BitVec 6)
  /-- `FCLASS_F32` (R357): Writes the class mask of an f32. -/
  | fclassF32 (c : BitVec 2) (w : BitVec 2) (d : BitVec 6) (a : BitVec 6)
  /-- `FRND_F32` (R357): Rounds an f32 to an integral value. -/
  | frndF32 (c : BitVec 2) (w : BitVec 2) (d : BitVec 6) (a : BitVec 6)
  /-- `FADD_F64` (R355): Correctly rounded f64 addition on pairs. -/
  | faddF64 (c : BitVec 2) (d : BitVec 6) (a : BitVec 6) (b : BitVec 6)
  /-- `FSUB_F64` (R355): Correctly rounded f64 subtraction. -/
  | fsubF64 (c : BitVec 2) (d : BitVec 6) (a : BitVec 6) (b : BitVec 6)
  /-- `FMUL_F64` (R355): Correctly rounded f64 multiplication. -/
  | fmulF64 (c : BitVec 2) (d : BitVec 6) (a : BitVec 6) (b : BitVec 6)
  /-- `FFMA_F64` (R355): f64 fused multiply-add. -/
  | ffmaF64 (c : BitVec 2) (d : BitVec 6) (a : BitVec 6) (b : BitVec 6)
  /-- `FMIN_F64` (R356): f64 minimum. -/
  | fminF64 (c : BitVec 2) (d : BitVec 6) (a : BitVec 6) (b : BitVec 6)
  /-- `FMAX_F64` (R356): f64 maximum. -/
  | fmaxF64 (c : BitVec 2) (d : BitVec 6) (a : BitVec 6) (b : BitVec 6)
  /-- `FABS_F64` (R356): Clears the f64 sign bit. -/
  | fabsF64 (c : BitVec 2) (d : BitVec 6) (a : BitVec 6)
  /-- `FNEG_F64` (R356): Inverts the f64 sign bit. -/
  | fnegF64 (c : BitVec 2) (d : BitVec 6) (a : BitVec 6)
  /-- `FSCALE_F64` (R357): Multiplies an f64 by a power of two. -/
  | fscaleF64 (c : BitVec 2) (d : BitVec 6) (a : BitVec 6) (b : BitVec 6)
  /-- `FDIV_F64` (R355): Correctly rounded f64 division. -/
  | fdivF64 (c : BitVec 2) (d : BitVec 6) (a : BitVec 6) (b : BitVec 6)
  /-- `FCLASS_F64` (R357): Writes the class mask of an f64. -/
  | fclassF64 (c : BitVec 2) (d : BitVec 6) (a : BitVec 6)
  /-- `FRND_F64` (R357): Rounds an f64 to an integral value. -/
  | frndF64 (c : BitVec 2) (d : BitVec 6) (a : BitVec 6)
  /-- `FADD_F16X2` (R355): Packed f16 addition. -/
  | faddF16x2 (c : BitVec 2) (w : BitVec 2) (d : BitVec 6) (a : BitVec 6) (b : BitVec 6)
  /-- `FSUB_F16X2` (R355): Packed f16 subtraction. -/
  | fsubF16x2 (c : BitVec 2) (w : BitVec 2) (d : BitVec 6) (a : BitVec 6) (b : BitVec 6)
  /-- `FMUL_F16X2` (R355): Packed f16 multiplication. -/
  | fmulF16x2 (c : BitVec 2) (w : BitVec 2) (d : BitVec 6) (a : BitVec 6) (b : BitVec 6)
  /-- `FFMA_F16X2` (R355): Packed f16 fused multiply-add. -/
  | ffmaF16x2 (c : BitVec 2) (w : BitVec 2) (d : BitVec 6) (a : BitVec 6) (b : BitVec 6)
  /-- `FMIN_F16X2` (R356): Packed f16 minimum. -/
  | fminF16x2 (c : BitVec 2) (w : BitVec 2) (d : BitVec 6) (a : BitVec 6) (b : BitVec 6)
  /-- `FMAX_F16X2` (R356): Packed f16 maximum. -/
  | fmaxF16x2 (c : BitVec 2) (w : BitVec 2) (d : BitVec 6) (a : BitVec 6) (b : BitVec 6)
  /-- `FABS_F16X2` (R356): Clears the signs of packed f16 elements. -/
  | fabsF16x2 (c : BitVec 2) (w : BitVec 2) (d : BitVec 6) (a : BitVec 6)
  /-- `FNEG_F16X2` (R356): Inverts the signs of packed f16 elements. -/
  | fnegF16x2 (c : BitVec 2) (w : BitVec 2) (d : BitVec 6) (a : BitVec 6)
  /-- `FADD_BF16X2` (R355): Packed bf16 addition. -/
  | faddBf16x2 (c : BitVec 2) (w : BitVec 2) (d : BitVec 6) (a : BitVec 6) (b : BitVec 6)
  /-- `FSUB_BF16X2` (R355): Packed bf16 subtraction. -/
  | fsubBf16x2 (c : BitVec 2) (w : BitVec 2) (d : BitVec 6) (a : BitVec 6) (b : BitVec 6)
  /-- `FMUL_BF16X2` (R355): Packed bf16 multiplication. -/
  | fmulBf16x2 (c : BitVec 2) (w : BitVec 2) (d : BitVec 6) (a : BitVec 6) (b : BitVec 6)
  /-- `FFMA_BF16X2` (R355): Packed bf16 fused multiply-add. -/
  | ffmaBf16x2 (c : BitVec 2) (w : BitVec 2) (d : BitVec 6) (a : BitVec 6) (b : BitVec 6)
  /-- `FMIN_BF16X2` (R356): Packed bf16 minimum. -/
  | fminBf16x2 (c : BitVec 2) (w : BitVec 2) (d : BitVec 6) (a : BitVec 6) (b : BitVec 6)
  /-- `FMAX_BF16X2` (R356): Packed bf16 maximum. -/
  | fmaxBf16x2 (c : BitVec 2) (w : BitVec 2) (d : BitVec 6) (a : BitVec 6) (b : BitVec 6)
  /-- `FABS_BF16X2` (R356): Clears the signs of packed bf16 elements. -/
  | fabsBf16x2 (c : BitVec 2) (w : BitVec 2) (d : BitVec 6) (a : BitVec 6)
  /-- `FNEG_BF16X2` (R356): Inverts the signs of packed bf16 elements. -/
  | fnegBf16x2 (c : BitVec 2) (w : BitVec 2) (d : BitVec 6) (a : BitVec 6)
  /-- `FRCP` (R361): f32 reciprocal within 1 ULP. -/
  | frcp (c : BitVec 2) (w : BitVec 2) (d : BitVec 6) (a : BitVec 6)
  /-- `FRSQ` (R361): f32 reciprocal square root within 1 ULP. -/
  | frsq (c : BitVec 2) (w : BitVec 2) (d : BitVec 6) (a : BitVec 6)
  /-- `FSQRT` (R361): Correctly rounded f32 square root. -/
  | fsqrt (c : BitVec 2) (w : BitVec 2) (d : BitVec 6) (a : BitVec 6)
  /-- `FEXP2` (R361): f32 base-2 exponential. -/
  | fexp2 (c : BitVec 2) (w : BitVec 2) (d : BitVec 6) (a : BitVec 6)
  /-- `FLOG2` (R361): f32 base-2 logarithm. -/
  | flog2 (c : BitVec 2) (w : BitVec 2) (d : BitVec 6) (a : BitVec 6)
  /-- `FSIN` (R361): f32 sine. -/
  | fsin (c : BitVec 2) (w : BitVec 2) (d : BitVec 6) (a : BitVec 6)
  /-- `FCOS` (R361): f32 cosine. -/
  | fcos (c : BitVec 2) (w : BitVec 2) (d : BitVec 6) (a : BitVec 6)
  /-- `FTANH` (R361): f32 hyperbolic tangent. -/
  | ftanh (c : BitVec 2) (w : BitVec 2) (d : BitVec 6) (a : BitVec 6)
  /-- `FSIGM` (R361): f32 logistic sigmoid. -/
  | fsigm (c : BitVec 2) (w : BitVec 2) (d : BitVec 6) (a : BitVec 6)
  /-- `ICMP` (R360): Compares integer vectors and writes a lane mask to a scalar. -/
  | icmp (c : BitVec 2) (w : BitVec 2) (k : BitVec 4) (s : BitVec 6) (a : BitVec 6) (b : BitVec 6)
  /-- `FCMP_F32` (R360): Compares f32 vectors and writes a lane mask to a scalar. -/
  | fcmpF32 (c : BitVec 2) (k : BitVec 4) (s : BitVec 6) (a : BitVec 6) (b : BitVec 6)
  /-- `FCMP_F64` (R360): Compares f64 pairs and writes a lane mask to a scalar. -/
  | fcmpF64 (c : BitVec 2) (k : BitVec 4) (s : BitVec 6) (a : BitVec 6) (b : BitVec 6)
  /-- `FCVT` (R147): Converts one value per lane between numeric formats. -/
  | fcvt (c : BitVec 2) (n : BitVec 2) (m : BitVec 2) (g : BitVec 1) (e : BitVec 1) (d : BitVec 6) (a : BitVec 6) (x : BitVec 3) (y : BitVec 3)
  /-- `VPACK_B` (R433): Packs four registers into bytes of one register. -/
  | vpackB (c : BitVec 2) (d : BitVec 6) (a : BitVec 6) (b : BitVec 6)
  /-- `VPACK_H` (R433): Packs two registers into halves of one register. -/
  | vpackH (c : BitVec 2) (d : BitVec 6) (a : BitVec 6) (b : BitVec 6)
  /-- `VUNPK_B` (R433): Unpacks bytes of one register into four registers. -/
  | vunpkB (c : BitVec 2) (d : BitVec 6) (a : BitVec 6) (b : BitVec 6)
  /-- `VUNPK_H` (R433): Unpacks halves of one register into two registers. -/
  | vunpkH (c : BitVec 2) (d : BitVec 6) (a : BitVec 6) (b : BitVec 6)
  /-- `VMOV` (R430): Copies vector registers bit for bit. -/
  | vmov (c : BitVec 2) (w : BitVec 2) (d : BitVec 6) (a : BitVec 6)
  /-- `VMOVS` (R430): Broadcasts a scalar into every active lane. -/
  | vmovs (c : BitVec 2) (d : BitVec 6) (a : BitVec 6)
  /-- `VGET` (R430): Reads one lane of a vector into a scalar. -/
  | vget (c : BitVec 2) (d : BitVec 6) (a : BitVec 6) (b : BitVec 6)
  /-- `VSETL` (R430): Writes a scalar into one lane of a vector. -/
  | vsetl (c : BitVec 2) (d : BitVec 6) (a : BitVec 6) (b : BitVec 6)
  /-- `MFS_VECTOR` (R378): Reads a special register into each active lane. -/
  | mfsVector (c : BitVec 2) (d : BitVec 6) (a : BitVec 6)
  /-- `XSET` (R438): Sets an index register's base, limit and index per lane. -/
  | xset (c : BitVec 2) (d : BitVec 6) (a : BitVec 6)
  /-- `XIDX` (R437): Sets the index field of an index register. -/
  | xidx (c : BitVec 2) (d : BitVec 6) (a : BitVec 6)
  /-- `XADD` (R437): Adds to the index field of an index register. -/
  | xadd (c : BitVec 2) (d : BitVec 6) (a : BitVec 6)
  /-- `XGET` (R437): Reads an index register into a vector. -/
  | xget (c : BitVec 2) (d : BitVec 6) (a : BitVec 6)
  /-- `TRD` (R419): Reads a tile row or column slice into a register pair. -/
  | trd (c : BitVec 2) (r : BitVec 1) (t : BitVec 3) (v : BitVec 6) (s : BitVec 6) (i : BitVec 4)
  /-- `TWR` (R419): Writes a register pair into a tile slice. -/
  | twr (c : BitVec 2) (r : BitVec 1) (t : BitVec 3) (v : BitVec 6) (s : BitVec 6) (i : BitVec 4)
  /-- `TACC` (R419): Adds a register pair into a tile slice in f32. -/
  | tacc (c : BitVec 2) (r : BitVec 1) (t : BitVec 3) (v : BitVec 6) (s : BitVec 6) (i : BitVec 4)
  /-- `TZERO` (R419): Zeroes a tile slice. -/
  | tzero (c : BitVec 2) (r : BitVec 1) (t : BitVec 3) (s : BitVec 6) (i : BitVec 4)
  /-- `SHFL` (R409): Gathers each lane's value from a per-lane source position. -/
  | shfl (c : BitVec 2) (w : BitVec 2) (d : BitVec 6) (a : BitVec 6) (b : BitVec 6)
  /-- `SHFLX` (R409): Exchanges values between lanes by an xor mask. -/
  | shflx (c : BitVec 2) (w : BitVec 2) (d : BitVec 6) (a : BitVec 6) (b : BitVec 6)
  /-- `BCAST` (R337): Broadcasts one lane's value to every active lane. -/
  | bcast (c : BitVec 2) (w : BitVec 2) (d : BitVec 6) (a : BitVec 6) (b : BitVec 6)
  /-- `QXCH` (R392): Exchanges values within each quad by a pattern. -/
  | qxch (c : BitVec 2) (w : BitVec 2) (d : BitVec 6) (a : BitVec 6) (b : BitVec 6)
  /-- `SCAN` (R403): Computes an inclusive prefix over active lanes. -/
  | scan (c : BitVec 2) (w : BitVec 2) (d : BitVec 6) (a : BitVec 6) (b : BitVec 6)
  /-- `REDUCE` (R394): Reduces active lanes in a fixed tree and broadcasts the result. -/
  | reduce (c : BitVec 2) (w : BitVec 2) (d : BitVec 6) (a : BitVec 6) (b : BitVec 6)
  /-- `VOTE` (R432): Computes ballot, all, any or uniform over active lanes. -/
  | vote (c : BitVec 2) (d : BitVec 6) (a : BitVec 6) (b : BitVec 6)
  /-- `XSHUF` (R257): Exchanges registers with a partner warp of the gang. -/
  | xshuf (l : BitVec 4) (w : BitVec 2) (d : BitVec 6) (a : BitVec 6) (s : BitVec 6)
  /-- `SADD` (R399): 64-bit scalar add. -/
  | sadd (c : BitVec 2) (d : BitVec 6) (a : BitVec 6) (b : BitVec 6)
  /-- `SSUB` (R399): 64-bit scalar subtract. -/
  | ssub (c : BitVec 2) (d : BitVec 6) (a : BitVec 6) (b : BitVec 6)
  /-- `SMUL` (R399): 64-bit scalar multiply. -/
  | smul (c : BitVec 2) (d : BitVec 6) (a : BitVec 6) (b : BitVec 6)
  /-- `SAND` (R399): Scalar bitwise and. -/
  | sand (c : BitVec 2) (d : BitVec 6) (a : BitVec 6) (b : BitVec 6)
  /-- `SOR` (R399): Scalar bitwise or. -/
  | sor (c : BitVec 2) (d : BitVec 6) (a : BitVec 6) (b : BitVec 6)
  /-- `SXOR` (R399): Scalar bitwise xor. -/
  | sxor (c : BitVec 2) (d : BitVec 6) (a : BitVec 6) (b : BitVec 6)
  /-- `SANDN` (R399): Scalar a and not b. -/
  | sandn (c : BitVec 2) (d : BitVec 6) (a : BitVec 6) (b : BitVec 6)
  /-- `SSHL` (R399): Scalar left shift. -/
  | sshl (c : BitVec 2) (d : BitVec 6) (a : BitVec 6) (b : BitVec 6)
  /-- `SSHR_N` (R399): Scalar logical right shift. -/
  | sshrN (c : BitVec 2) (d : BitVec 6) (a : BitVec 6) (b : BitVec 6)
  /-- `SSHR_I` (R399): Scalar arithmetic right shift. -/
  | sshrI (c : BitVec 2) (d : BitVec 6) (a : BitVec 6) (b : BitVec 6)
  /-- `SMIN_I` (R399): Signed 64-bit scalar minimum. -/
  | sminI (c : BitVec 2) (d : BitVec 6) (a : BitVec 6) (b : BitVec 6)
  /-- `SMIN_N` (R399): Unsigned 64-bit scalar minimum. -/
  | sminN (c : BitVec 2) (d : BitVec 6) (a : BitVec 6) (b : BitVec 6)
  /-- `SMAX_I` (R399): Signed 64-bit scalar maximum. -/
  | smaxI (c : BitVec 2) (d : BitVec 6) (a : BitVec 6) (b : BitVec 6)
  /-- `SMAX_N` (R399): Unsigned 64-bit scalar maximum. -/
  | smaxN (c : BitVec 2) (d : BitVec 6) (a : BitVec 6) (b : BitVec 6)
  /-- `SPOPC` (R399): Counts set bits of a scalar. -/
  | spopc (c : BitVec 2) (d : BitVec 6) (a : BitVec 6)
  /-- `SFFS` (R399): Finds the lowest set bit of a scalar. -/
  | sffs (c : BitVec 2) (d : BitVec 6) (a : BitVec 6)
  /-- `SADDI` (R401): Adds an immediate to a scalar. -/
  | saddi (c : BitVec 2) (d : BitVec 6) (i : BitVec 12)
  /-- `SANDI` (R401): Ands an immediate into a scalar. -/
  | sandi (c : BitVec 2) (d : BitVec 6) (i : BitVec 12)
  /-- `SORI` (R401): Ors an immediate into a scalar. -/
  | sori (c : BitVec 2) (d : BitVec 6) (i : BitVec 12)
  /-- `SXORI` (R401): Xors an immediate into a scalar. -/
  | sxori (c : BitVec 2) (d : BitVec 6) (i : BitVec 12)
  /-- `SSHLI` (R401): Shifts a scalar left by an immediate. -/
  | sshli (c : BitVec 2) (d : BitVec 6) (i : BitVec 12)
  /-- `SSHRI_N` (R401): Logical right shift of a scalar by an immediate. -/
  | sshriN (c : BitVec 2) (d : BitVec 6) (i : BitVec 12)
  /-- `SSHRI_I` (R401): Arithmetic right shift of a scalar by an immediate. -/
  | sshriI (c : BitVec 2) (d : BitVec 6) (i : BitVec 12)
  /-- `SMOVI` (R401): Writes a sign-extended immediate to a scalar. -/
  | smovi (c : BitVec 2) (d : BitVec 6) (i : BitVec 12)
  /-- `SMULI` (R401): Multiplies a scalar by an immediate. -/
  | smuli (c : BitVec 2) (d : BitVec 6) (i : BitVec 12)
  /-- `SCMP` (R404): Compares two scalars and writes 1 or 0. -/
  | scmp (c : BitVec 2) (k : BitVec 4) (s : BitVec 6) (a : BitVec 6) (b : BitVec 6)
  /-- `SMOV` (R412): Copies a scalar. -/
  | smov (c : BitVec 2) (d : BitVec 6) (a : BitVec 6)
  /-- `SSEL` (R412): Conditionally moves a scalar when the condition scalar is non-zero. -/
  | ssel (c : BitVec 2) (d : BitVec 6) (a : BitVec 6) (b : BitVec 6)
  /-- `MFS_SCALAR` (R378): Reads a scalar special register into a scalar. -/
  | mfsScalar (c : BitVec 2) (d : BitVec 6) (a : BitVec 6)
  /-- `MTS` (R379): Writes a scalar into a writable special register, interlocked. -/
  | mts (c : BitVec 2) (d : BitVec 6) (a : BitVec 6)
  /-- `BRA` (R340): Unconditional branch of the issuing split. -/
  | bra (c : BitVec 2) (o : BitVec 14)
  /-- `BRZ` (R340): Branches when a scalar is zero. -/
  | brz (c : BitVec 2) (s : BitVec 6) (o : BitVec 14)
  /-- `BRNZ` (R340): Branches when a scalar is non-zero. -/
  | brnz (c : BitVec 2) (s : BitVec 6) (o : BitVec 14)
  /-- `BRX` (R119): Splits the issuing split by a lane mask. -/
  | brx (s : BitVec 6) (o : BitVec 14)
  /-- `CALL` (R340): Writes the return address to a scalar and branches. -/
  | call (c : BitVec 2) (s : BitVec 6) (o : BitVec 14)
  /-- `RET` (R396): Branches to the address held in a scalar. -/
  | ret (c : BitVec 2) (s : BitVec 6)
  /-- `JOIN` (R121): Marks a reconvergence point where splits wait to merge. -/
  | join (s : BitVec 6)
  /-- `EXIT` (R352): Retires the issuing warp. -/
  | exit (c : BitVec 2)
  /-- `EXITL` (R29): Ends the items of the named lanes, vacating them. -/
  | exitl (s : BitVec 6)
  /-- `REFILL` (R32): Reconverges and assigns lane items to vacant eligible lanes. -/
  | refill (s : BitVec 6)
  /-- `REFILL_WARP` (R32): Reconverges and assigns one warp item when the warp is vacant. -/
  | refillWarp (s : BitVec 6)
  /-- `REFILL_BLOCK` (R32): Rendezvouses the block and assigns one block item. -/
  | refillBlock (s : BitVec 6)
  /-- `YIELD` (R441): Makes the warp the first swap candidate. -/
  | yield (c : BitVec 2)
  /-- `BAR` (R331): Arrives at a block or gang barrier and waits for completion. -/
  | bar (v : BitVec 1)
  /-- `BARA` (R331): Arrives at a barrier instance without waiting. -/
  | bara (v : BitVec 1)
  /-- `BARW` (R331): Waits for a barrier instance already arrived at. -/
  | barw (v : BitVec 1)
  /-- `SETDEF` (R406): Defines or redefines a set of warps after a block rendezvous. -/
  | setdef (s : BitVec 6) (n : BitVec 3)
  /-- `NOP` (R381): Does nothing but advance the program counter. -/
  | nop (c : BitVec 2)
  /-- `BPT` (R338): Stops the block for a debugger or traps 0x1E1. -/
  | bpt
  /-- `TRAP` (R428): Raises software trap 0x1F0 plus n. -/
  | trap (c : BitVec 2) (n : BitVec 4)
  /-- `GROW` (R37): Extends the grid's own index range. -/
  | grow (c : BitVec 2) (s : BitVec 6)
  /-- `REGION` (R102): Names the register groups to stage in the operand buffer. -/
  | region (g : BitVec 14)
  /-- `LD` (R376): Loads 4 to 32 bytes per lane into vector registers. -/
  | ld (c : BitVec 2) (l : BitVec 4) (w : BitVec 2) (p : BitVec 2) (d : BitVec 6) (a : BitVec 6) (s : BitVec 4)
  /-- `ST` (R416): Stores 4 to 32 bytes per lane. -/
  | st (c : BitVec 2) (w : BitVec 2) (p : BitVec 2) (d : BitVec 6) (a : BitVec 6) (s : BitVec 4)
  /-- `LDS` (R376): Loads an 8- or 16-bit value per lane and extends it. -/
  | lds (c : BitVec 2) (l : BitVec 4) (w : BitVec 2) (p : BitVec 2) (d : BitVec 6) (a : BitVec 6) (s : BitVec 4)
  /-- `STS` (R416): Stores an 8- or 16-bit value per lane. -/
  | sts (c : BitVec 2) (w : BitVec 2) (p : BitVec 2) (d : BitVec 6) (a : BitVec 6) (s : BitVec 4)
  /-- `ATOM` (R327): Performs an atomic per lane in global space. -/
  | atom (c : BitVec 2) (l : BitVec 4) (u : BitVec 4) (d : BitVec 6) (a : BitVec 6) (s : BitVec 4)
  /-- `ATOML` (R327): Performs an atomic per lane in cluster scratch. -/
  | atoml (c : BitVec 2) (l : BitVec 4) (u : BitVec 4) (d : BitVec 6) (a : BitVec 6) (s : BitVec 4)
  /-- `FENCE` (R363): Orders the split's accesses at a scope and takes cache actions. -/
  | fence (c : BitVec 2)
  /-- `PREF` (R387): Prefetches the line of a global address; never faults. -/
  | pref (c : BitVec 2) (a : BitVec 6)
  /-- `DISC` (R345): Marks wholly covered pages dead and discards their data. -/
  | disc (c : BitVec 2) (a : BitVec 6) (b : BitVec 6)
  /-- `CFLUSH` (R344): Merges and writes back a range to HBM. -/
  | cflush (c : BitVec 2) (a : BitVec 6) (b : BitVec 6)
  /-- `QOPEN` (R60): Binds a stream register to a pipe side. -/
  | qopen (c : BitVec 2) (q : BitVec 3) (a : BitVec 6)
  /-- `QRSV` (R60): Reserves a granted slot and returns its address. -/
  | qrsv (c : BitVec 2) (l : BitVec 4) (q : BitVec 3) (d : BitVec 6)
  /-- `QCMT` (R60): Commits a reserved slot with a release. -/
  | qcmt (c : BitVec 2) (q : BitVec 3) (d : BitVec 6) (a : BitVec 6)
  /-- `QPOP` (R60): Takes the next deliverable slot with an acquire. -/
  | qpop (c : BitVec 2) (l : BitVec 4) (q : BitVec 3) (d : BitVec 6)
  /-- `QREL` (R60): Frees a held slot with a release. -/
  | qrel (c : BitVec 2) (q : BitVec 3) (a : BitVec 6)
  /-- `QSTAT` (R60): Reads the pipe's counts from its home. -/
  | qstat (c : BitVec 2) (l : BitVec 4) (q : BitVec 3) (d : BitVec 6)
  /-- `QSTAMP` (R60): Reads the stamp of a slot. -/
  | qstamp (c : BitVec 2) (l : BitVec 4) (q : BitVec 3) (d : BitVec 6) (a : BitVec 6)
  /-- `QCLOSE` (R64): Closes a pipe at its home. -/
  | qclose (c : BitVec 2) (q : BitVec 3)
  /-- `CPY` (R230): Starts a copy-engine operation from a shape record. -/
  | cpy (c : BitVec 2) (h : BitVec 4) (a : BitVec 6)
  /-- `XFER` (R255): Starts a chunked transfer to devices of the pod. -/
  | xfer (c : BitVec 2) (h : BitVec 4) (a : BitVec 6)
  /-- `GATH` (R232): Starts a gather of table rows by index. -/
  | gath (c : BitVec 2) (h : BitVec 4) (a : BitVec 6)
  /-- `MMK` (R212): Starts a single matrix K-loop described by scalars. -/
  | mmk (c : BitVec 2) (h : BitVec 4) (a : BitVec 6) (b : BitVec 6)
  /-- `MMJ` (R216): Starts a matrix loop nest described by a job card. -/
  | mmj (c : BitVec 2) (h : BitVec 4) (a : BitVec 6)
  /-- `HTEST` (R368): Reads an operation's state word, partial mask or stamp without blocking. -/
  | htest (c : BitVec 2) (l : BitVec 4) (h : BitVec 4) (a : BitVec 6) (b : BitVec 6)
  /-- `HCANCEL` (R237): Cancels the named engine operation. -/
  | hcancel (c : BitVec 2) (h : BitVec 4)
  /-- `HMOVS` (R236): Writes a handle's token to a scalar. -/
  | hmovs (c : BitVec 2) (l : BitVec 4) (h : BitVec 4) (a : BitVec 6)
  /-- `SMOVH` (R413): Makes a handle from a token. -/
  | smovh (c : BitVec 2) (h : BitVec 4) (a : BitVec 6)
  /-- `BATCH` (R238): Closes open operations into a new batch number. -/
  | batch (c : BitVec 2) (l : BitVec 4) (a : BitVec 6)
  /-- `WAITB_BATCH` (R436): Waits until every operation of closed batches completes. -/
  | waitbBatch (c : BitVec 2) (a : BitVec 6)
  /-- `WAITB_HANDLE` (R436): Waits until a handle reaches complete or operands-consumed. -/
  | waitbHandle (c : BitVec 2) (h : BitVec 4) (b : BitVec 6)
  /-- `NPOST` (R250): Posts or cancels a vigil in a slot. -/
  | npost (c : BitVec 2) (a : BitVec 6) (b : BitVec 6)
  /-- `NSEND` (R248): Sends an NSEND descriptor to a rank. -/
  | nsend (c : BitVec 2) (a : BitVec 6)
  /-- `TCADD` (R423): Adds a value to a trigger counter. -/
  | tcadd (c : BitVec 2) (a : BitVec 6) (b : BitVec 6)
  /-- `TCRD` (R424): Reads a trigger counter, optionally with acquire. -/
  | tcrd (c : BitVec 2) (l : BitVec 4) (a : BitVec 6) (b : BitVec 6)
  /-- `TCARM` (R425): Arms or disarms a memory range that counts writes. -/
  | tcarm (c : BitVec 2) (a : BitVec 6) (b : BitVec 6)
  /-- `TCSET` (R423): Sets a trigger counter to a value. -/
  | tcset (c : BitVec 2) (a : BitVec 6) (b : BitVec 6)
  /-- `RFT` (R269): Returns from a trap handler and restores the split table. -/
  | rft
  /-- `CSAVE` (R348): Stops and saves a block to a save area. -/
  | csave (h : BitVec 4) (a : BitVec 6) (b : BitVec 6)
  /-- `CREST` (R349): Restores a saved block onto a core. -/
  | crest (h : BitVec 4) (a : BitVec 6) (b : BitVec 6)
  /-- `TLBI` (R427): Invalidates TLB entries device-wide and gathers their flags. -/
  | tlbi (a : BitVec 6) (b : BitVec 6)
  /-- `HARV` (R367): Writes gathered dirty flags from every TLB. -/
  | harv (a : BitVec 6)
  /-- `HALTC` (R366): Takes a core out of service or returns it. -/
  | haltc (h : BitVec 4) (a : BitVec 6)
  /-- `HINT_IMM` (R314): Supplies high immediate or offset bits to the next instruction. -/
  | hintImm (p : BitVec 22)
  /-- `HINT_SCHED` (R313): Gives swap and co-issue advice for the next instruction. -/
  | hintSched (n : BitVec 1) (m : BitVec 2)
  /-- `HINT_MEMORD` (R179): Gives order, scope, cache policy and cu to a memory instruction. -/
  | hintMemord (e : BitVec 2) (u : BitVec 1) (s : BitVec 3) (o : BitVec 2)
  /-- `HINT_ARITH` (R313): Gives rounding, saturate, flush and stochastic settings. -/
  | hintArith (g : BitVec 1) (f : BitVec 1) (u : BitVec 1) (t : BitVec 1) (e : BitVec 1) (m : BitVec 2)
  /-- `HINT_STAMP` (R313): Names a scalar supplying the stamp of the next instruction. -/
  | hintStamp (s : BitVec 6)
  /-- `HINT_TRACE` (R313): Writes a marker record when the bound instruction issues. -/
  | hintTrace (p : BitVec 22)
  /-- `HINT_REMOTE` (R313): Redirects a window access to another core's window. -/
  | hintRemote (c : BitVec 10)
  /-- `POWER_ON` (R292): Boot code verifies and measures firmware and brings the device up. -/
  | powerOn (key : List (BitVec 8)) (images : List (List (BitVec 8))) (sigs : List (List (BitVec 8)))
  /-- `ATTESTATION_REQUEST` (R293): Firmware answers a host nonce with a signed attestation report. -/
  | attestationRequest (nonce : List (BitVec 8))
  /-- `SESSION_ENCAPSULATION` (R293): The host's ciphertext derives new session keys. -/
  | sessionEncapsulation (ciphertext : List (BitVec 8))
  /-- `SESSION_IDLE_TIMEOUT` (R293): The session ends after 60 s without an authenticated datagram. -/
  | sessionIdleTimeout
  /-- `COMMAND_DATAGRAM` (R80): An accepted kind-1 datagram is delimited and its packets written to rings. -/
  | commandDatagram (port : Nat) (bytes : List (BitVec 8))
  /-- `POWER_CONTROL` (R295): A kind-4 datagram sets the host's latency tolerance. -/
  | powerControl (port : Nat) (bytes : List (BitVec 8))
  /-- `PACKET_FETCH` (R81): The front end takes a fetchable packet from the highest-priority ring. -/
  | packetFetch
  /-- `PACKET_START` (R88): A packet whose handle dependencies are met starts and updates the handle table. -/
  | packetStart (pkt : Nat)
  /-- `LAUNCH_GRID` (R40): Launches a lone grid on a core share. -/
  | launchGrid (pkt : Nat)
  /-- `LAUNCH_ALMANAC` (R49): Checks and starts an almanac of stages and pipes. -/
  | launchAlmanac (pkt : Nat)
  /-- `WRITE_MEMORY` (R77): Writes the packet's bytes to memory. -/
  | writeMemory (pkt : Nat)
  /-- `READ_MEMORY` (R77): Reads memory and sends it in reply datagrams. -/
  | readMemory (pkt : Nat)
  /-- `FENCE_PACKET` (R86): Waits for earlier packets or a memory word before later packets run. -/
  | fencePacket (pkt : Nat)
  /-- `SIGNAL` (R86): Writes memory or adds to a trigger counter as a system release. -/
  | signal (pkt : Nat)
  /-- `DRAIN` (R74): Exhausts an almanac's index queues and lets its pipes run to end-of-stream. -/
  | drain (pkt : Nat)
  /-- `RESIZE` (R72): Hands named cores from a donor stage to a receiver stage. -/
  | resize (pkt : Nat)
  /-- `CREATE_RING` (R83): Creates a command ring from a descriptor image. -/
  | createRing (pkt : Nat)
  /-- `DESTROY_RING` (R83): Destroys a stopped or empty ring. -/
  | destroyRing (pkt : Nat)
  /-- `RESTART_RING` (R83): Sets a new rptr and resumes a stopped ring. -/
  | restartRing (pkt : Nat)
  /-- `QUERY_RING` (R83): Writes a ring descriptor to memory. -/
  | queryRing (pkt : Nat)
  /-- `REGISTER_HANDLE` (R84): Registers a buffer handle range. -/
  | registerHandle (pkt : Nat)
  /-- `UNREGISTER_HANDLE` (R83): Unregisters an idle buffer handle. -/
  | unregisterHandle (pkt : Nat)
  /-- `SUSPEND_CONTEXT` (R95): Pre-empts all blocks of a context, via holiday for collectives. -/
  | suspendContext (pkt : Nat)
  /-- `RESUME_CONTEXT` (R95): Restores a suspended context's blocks. -/
  | resumeContext (pkt : Nat)
  /-- `SET_RENDEZVOUS_TIMEOUT` (R84): Sets a context's rendezvous timeout and lease length. -/
  | setRendezvousTimeout (pkt : Nat)
  /-- `CANCEL` (R85): Cancels an almanac or lone grid of a context. -/
  | cancel (pkt : Nat)
  /-- `PACKET_COMPLETE` (R78): A packet completes and its completion record is written as a system release. -/
  | packetComplete (pkt : Nat)
  /-- `FENCE_TIMEOUT` (R86): A mode-2 fence's timeout expires and its ring stops with 0x1E8. -/
  | fenceTimeout (pkt : Nat)
  /-- `BLOCK_PLACEMENT` (R40): The distributor places a block where a core of the share has room. -/
  | blockPlacement (grid : Nat)
  /-- `GANG_PLACEMENT` (R41): A waiting gang is placed whole once room exists. -/
  | gangPlacement (grid : Nat)
  /-- `PROLOGUE_COPY_COMPLETE` (R43): A block's prologue copies complete, releasing its warps to start. -/
  | prologueCopyComplete (core : Nat) (slot : Nat)
  /-- `WARP_START` (R26): A warp receives its initial items and begins issuing. -/
  | warpStart (core : Nat) (slot : Nat) (warp : Nat)
  /-- `BLOCK_RETIRE` (R44): A block retires when its warps have retired and its operations completed. -/
  | blockRetire (core : Nat) (slot : Nat)
  /-- `STAGE_RECORD_WRITE` (R75): A stage's completion record is written in almanac order. -/
  | stageRecordWrite (alm : Nat)
  /-- `REFILL_WAKE` (R33): A blocked REFILL resumes on commit, end-of-stream, handoff or pre-emption. -/
  | refillWake (core : Nat) (slot : Nat) (warp : Nat)
  /-- `REFILL_RECONVERGE` (R31): The last split with a live lane reaches the refill point and the warp merges. -/
  | refillReconverge (core : Nat) (slot : Nat) (warp : Nat)
  /-- `WARP_SWAP` (R92): A long-waiting hot warp is swapped for a ready cold warp. -/
  | warpSwap (core : Nat) (quarter : Nat)
  /-- `RESTAGE_DONE` (R92): A warp entering the hot set finishes restaging its region. -/
  | restageDone (core : Nat) (slot : Nat) (warp : Nat)
  /-- `LEAVE_GRANT` (R94): The leave controller grants power units to the next waiting request. -/
  | leaveGrant (die : Nat)
  /-- `LEAVE_AGEING` (R94): A waiting leave request's effective priority rises every 4 µs. -/
  | leaveAgeing (die : Nat)
  /-- `RENDEZVOUS_COMPLETE` (R39): A set or block rendezvous completes when all awaited members arrive. -/
  | rendezvousComplete (core : Nat) (slot : Nat) (inst : Nat)
  /-- `RENDEZVOUS_TIMEOUT` (R125): An open rendezvous times out and traps its waiting members. -/
  | rendezvousTimeout (core : Nat) (slot : Nat) (inst : Nat)
  /-- `JOIN_COMPLETE` (R121): A JOIN group completes and merges into its lowest slot. -/
  | joinComplete (core : Nat) (slot : Nat) (warp : Nat)
  /-- `JOIN_TIMEOUT` (R121): A JOIN timer expires and the waiting splits merge. -/
  | joinTimeout (core : Nat) (slot : Nat) (warp : Nat) (split : Nat)
  /-- `GANG_PHASE_COMPLETE` (R332): Every awaited block of a gang is block-arrived and the gang phase completes. -/
  | gangPhaseComplete (grid : Nat) (gang : Nat)
  /-- `GRANT_REQUEST` (R56): A core asks the pipe home for the next grant block. -/
  | grantRequest (core : Nat) (pipe : Nat)
  /-- `GRANT_BLOCK_ARRIVAL` (R56): A grant block of sequence numbers reaches a producer core. -/
  | grantBlockArrival (core : Nat) (pipe : Nat)
  /-- `GRANT_RETURN_TIMEOUT` (R56): Unused granted numbers are returned and voided after 2 µs. -/
  | grantReturnTimeout (core : Nat) (pipe : Nat)
  /-- `FREE_REPORT` (R57): A Return flit reports freed slots to the pipe home. -/
  | freeReport (pipe : Nat)
  /-- `FREE_REPORT_FLUSH` (R57): A consumer core sends its merged free report after 64 network cycles or 16 slots. -/
  | freeReportFlush (core : Nat) (pipe : Nat)
  /-- `COMMIT_AT_HOME` (R70): A commit reaches the pipe home and the slot becomes deliverable. -/
  | commitAtHome (pipe : Nat)
  /-- `EOS_HEADER` (R64): A closed pipe takes its end-of-stream number once earlier numbers settle. -/
  | eosHeader (pipe : Nat)
  /-- `RETAINED_SLOT_REWRITE` (R50): Firmware rewrites a retained slot's header so it is delivered. -/
  | retainedSlotRewrite (pipe : Nat) (seq : Nat) (header : List (BitVec 8))
  /-- `RETAINED_SLOT_DISCARD` (R50): Firmware discards a retained slot, which becomes void. -/
  | retainedSlotDiscard (pipe : Nat) (seq : Nat)
  /-- `SPILL_WRITE` (R67): A slot beyond the reservation is written back to HBM. -/
  | spillWrite (pipe : Nat) (seq : Nat)
  /-- `SPILL_FETCH` (R67): A spilled slot is fetched again on its consumer's access. -/
  | spillFetch (pipe : Nat) (seq : Nat)
  /-- `MIRROR_TRANSFER` (R69): A pod-scope slot and header arrive at the mirror home. -/
  | mirrorTransfer (pipe : Nat) (header : List (BitVec 8)) (data : List (BitVec 8))
  /-- `MIRROR_FREE` (R69): A free message from the mirror frees numbers at the home. -/
  | mirrorFree (pipe : Nat) (count : Nat)
  /-- `PEER_MATCH_TIMEOUT` (R69): An unmatched pod-scope pipe is rejected after 100 ms. -/
  | peerMatchTimeout (pipe : Nat)
  /-- `PIPE_PEER_LOST` (R69): An unreachable pipe peer stalls the pipe and raises 0x146. -/
  | pipePeerLost (pipe : Nat)
  /-- `BALANCER_SAMPLE` (R71): Every 50 µs the balancer samples pipes and decides core moves. -/
  | balancerSample
  /-- `HANDOFF_COMPLETE` (R72): The last block of a handed-off core retires and the core joins the receiver. -/
  | handoffComplete (core : Nat)
  /-- `HANDOFF_TIMEOUT` (R72): Remaining blocks are pre-empted when handoff_to expires. -/
  | handoffTimeout (core : Nat)
  /-- `DEADLOCK_DETECTED` (R73): A blocked cycle of stages persists dl_thresh periods and an event is raised. -/
  | deadlockDetected (alm : Nat)
  /-- `FILL_RESPONSE` (R160): A merging fill returns and merges into L1D with lease update. -/
  | fillResponse (core : Nat) (line : Nat)
  /-- `DIRTY_WRITE_HOME` (R184): A dirty L1D word is written home within 2^16 cycles. -/
  | dirtyWriteHome (core : Nat) (line : Nat) (words : BitVec 32)
  /-- `HOME_READ` (R162): A read reaches a home agent and extends the lease. -/
  | homeRead (src : Nat) (line : Nat)
  /-- `HOME_WRITE` (R162): A write reaches a home agent and advances wts. -/
  | homeWrite (src : Nat) (line : Nat)
  /-- `HOME_ATOMIC` (R162): An atomic is performed at a home agent. -/
  | homeAtomic (src : Nat) (line : Nat)
  /-- `PTS_SELF_EXPIRY` (R162): A core's pts advances by one every 4,096 cycles. -/
  | ptsSelfExpiry (core : Nat)
  /-- `REBASE` (R165): Timestamps reaching 0xC_0000 trigger a device-wide rebase. -/
  | rebase
  /-- `MULTICAST_FORWARD` (R172): An ordered multicast reaches its serialising slice and is forwarded. -/
  | multicastForward (slice : Nat)
  /-- `MULTICAST_DELIVERY` (R171): A multicast packet reaches a destination endpoint. -/
  | multicastDelivery (core : Nat)
  /-- `POD_REMOTE_ACCESS` (R155): A pod-remote access is performed at the target device's home. -/
  | podRemoteAccess (rank : Nat) (tag : Nat) (kind : Nat) (addr : Nat) (data : List (BitVec 8))
  /-- `LINK_RETRY` (R18): A link error is masked by link-level retry. -/
  | linkRetry (link : Nat)
  /-- `OPLOG_REPLAY` (R202): Firmware orders replay of a logged instruction's unfinished lanes. -/
  | oplogReplay (core : Nat) (quarter : Nat) (entry : Nat)
  /-- `OPLOG_DELIVER` (R202): Firmware delivers a logged fault to the warp. -/
  | oplogDeliver (core : Nat) (quarter : Nat) (entry : Nat)
  /-- `OPLOG_FAIL` (R202): Firmware fails the block of a logged fault. -/
  | oplogFail (core : Nat) (quarter : Nat) (entry : Nat)
  /-- `RECORD_REPLAY` (R202): Firmware replays an unlogged fault or trap record by rseq. -/
  | recordReplay (core : Nat) (quarter : Nat) (rseq : Nat)
  /-- `RECORD_DELIVER` (R202): Firmware delivers an unlogged fault or trap record by rseq. -/
  | recordDeliver (core : Nat) (quarter : Nat) (rseq : Nat)
  /-- `RECORD_FAIL` (R202): Firmware fails the block of an unlogged record by rseq. -/
  | recordFail (core : Nat) (quarter : Nat) (rseq : Nat)
  /-- `DIRTY_FLAG_TIMEOUT` (R199): A TLB entry's gathered dirty flag is written 1 ms after it is set. -/
  | dirtyFlagTimeout (core : Nat) (tlbent : Nat)
  /-- `MATRIX_ACCEPT` (R210): A matrix operation enters the unit's queue and its card is read. -/
  | matrixAccept (core : Nat)
  /-- `K_STEP` (R213): The matrix unit completes one K-step on an accumulator tile. -/
  | kStep (core : Nat)
  /-- `EPILOGUE` (R218): The unit converts a tile and writes or commits it. -/
  | epilogue (core : Nat)
  /-- `MATRIX_FAULT_RESUME` (R223): A served fault resumes a suspended matrix operation. -/
  | matrixFaultResume (core : Nat) (rseq : Nat)
  /-- `ENGINE_ACCEPT` (R229): An engine reads and checks its record at acceptance. -/
  | engineAccept (core : Nat) (entry : Nat)
  /-- `COPY_COMPLETE` (R230): A copy's writes, release and counter increment are done. -/
  | copyComplete (core : Nat) (entry : Nat)
  /-- `GATHER_GROUP` (R232): A gather group of 64 elements is performed. -/
  | gatherGroup (core : Nat) (entry : Nat)
  /-- `ENGINE_FAULT_RESUME` (R233): Firmware resumes a suspended copy or gather. -/
  | engineFaultResume (core : Nat) (rseq : Nat)
  /-- `ENGINE_FAULT_DELIVER` (R233): Firmware ends a suspended engine operation with the cause. -/
  | engineFaultDeliver (core : Nat) (rseq : Nat)
  /-- `TRIGGER_FLIT` (R243): A Return flit of kind 1 increments a trigger counter. -/
  | triggerFlit (idx : Nat)
  /-- `VIGIL_START` (R252): The vigil unit starts a firing vigil's operation. -/
  | vigilStart
  /-- `VIGIL_COMPLETE` (R252): A vigil's operation completes and its slot becomes free. -/
  | vigilComplete (vslot : Nat)
  /-- `CHUNK_SEND` (R255): An XFER chunk takes a transmit buffer and is sent. -/
  | chunkSend (core : Nat) (entry : Nat)
  /-- `CHUNK_ARRIVAL` (R255): A chunk is performed at its destination and counted. -/
  | chunkArrival (tag : Nat) (source : Nat) (header : List (BitVec 8)) (data : List (BitVec 8))
  /-- `CHUNK_ACK` (R255): A chunk acknowledgement frees the sender's buffer. -/
  | chunkAck (tag : Nat) (status : Nat)
  /-- `NSEND_ARRIVAL` (R248): An NSEND descriptor is acted on at its target device. -/
  | nsendArrival (source : Nat) (ptag : Nat) (descriptor : List (BitVec 8))
  /-- `XSHUF_PAIR` (R257): Two warps' XSHUFs pair and exchange data. -/
  | xshufPair (core : Nat) (slot : Nat) (warp : Nat)
  /-- `XSHUF_DATA_ARRIVAL` (R257): The partner's shuffled data arrives and vD is written. -/
  | xshufDataArrival (core : Nat) (slot : Nat) (warp : Nat)
  /-- `HOLIDAY_PAUSE` (R258): A member stops starting chunks of the collective and replies. -/
  | holidayPause (coll : Nat) (source : Nat) (hseq : Nat)
  /-- `HOLIDAY_STOP` (R258): A member completes chunks below N and replies DONE. -/
  | holidayStop (coll : Nat) (source : Nat) (hseq : Nat) (chunk : Nat)
  /-- `HOLIDAY_HOLD` (R258): A member pre-empts the context's gangs and replies HELD. -/
  | holidayHold (coll : Nat) (source : Nat) (hseq : Nat)
  /-- `HOLIDAY_RESUME` (R258): A member restores the gangs and chunks from N start. -/
  | holidayResume (coll : Nat) (source : Nat) (hseq : Nat)
  /-- `HOLIDAY_REPLY` (R258): The initiator collects member replies and advances the holiday. -/
  | holidayReply (coll : Nat) (source : Nat) (hseq : Nat) (stepno : Nat) (chunk : Option Nat)
  /-- `HOLIDAY_TIMEOUT` (R260): A member fails to answer within 100 ms and the holiday is abandoned. -/
  | holidayTimeout (coll : Nat)
  /-- `COLLECTIVE_PEER_LOST` (R261): An unreachable destination stalls chunks and raises 0x153. -/
  | collectivePeerLost (rank : Nat)
  /-- `FAULT_QUEUE_TAIL_WRITE` (R270): Firmware advances tail, freeing room for waiting writers. -/
  | faultQueueTailWrite (asid : Nat) (tail : BitVec 32)
  /-- `ERROR_DETECTED` (R275): A correctable or uncorrectable storage error is met and handled. -/
  | errorDetected (unit : Nat) (place : Nat) (correctable : Bool)
  /-- `SCRUB` (R275): Home agents and HBM controllers scrub every line each 24 hours. -/
  | scrub
  /-- `CORE_STALL_TIMEOUT` (R276): A core that issues nothing for 10 ms with ready warps is declared failed. -/
  | coreStallTimeout (core : Nat)
  /-- `CORE_SELF_TEST_FAIL` (R276): A failed self-test declares a core failed. -/
  | coreSelfTestFail (core : Nat)
  /-- `DEBUG_STOP` (R283): A debugger request stops every warp of a block. -/
  | debugStop (core : Nat) (slot : Nat)
  /-- `DEBUG_RESUME` (R283): A stopped block resumes all warps in one cycle. -/
  | debugResume (core : Nat) (slot : Nat)
  /-- `STALL_SAMPLE` (R285): A quarter takes a stall sample every 2^pexp cycles. -/
  | stallSample (core : Nat) (quarter : Nat)
  /-- `PMC_WRAP` (R286): A performance counter wraps and may write a counter record. -/
  | pmcWrap (core : Nat) (counter : Nat)
  /-- `PTP_MESSAGE` (R297): A PTP message disciplines kalends. -/
  | ptpMessage (rateppm : Int)
  /-- `UALINK_TIMING_MESSAGE` (R297): A timing message from rank 0 disciplines kalends in a pod. -/
  | ualinkTimingMessage (source : Nat) (rateppm : Int)
  /-- `POWER_STATE_DECISION` (R299): Firmware moves a die or the package to the lowest allowed power state. -/
  | powerStateDecision (die : Nat)
  /-- `POWER_SAMPLE` (R300): Every 100 µs firmware samples power and adjusts die budgets. -/
  | powerSample (watts : Nat) (limit : Nat) (celsius : List Nat)
  /-- `THERMAL_TRIP` (R300): At 110 °C the board controller removes power. -/
  | thermalTrip (celsius : Nat)
  /-- `MODULE_WAKE` (R299): The board controller wakes the module from off. -/
  | moduleWake
  /-- `REGISTER_WRITE` (R8): A write to a firmware register with no behaviour of its own stores its fields. -/
  | registerWrite (reg : Nat) (index : Nat) (value : BitVec 64)
  /-- `PIPE_PEER_MATCH` (R69): The peer device's declaration of a pod-scope pipe arrives and matches, so the pipe is set up between home and mirror home. -/
  | pipePeerMatch (pipe : Nat) (declaration : List (BitVec 8))
  /-- `UALINK_COMPLETION` (R192): The UALink completion of a pod-remote write or read returns to the issuing device and ends the waits of pod-scope releases and NSEND. -/
  | ualinkCompletion (tag : Nat) (status : Nat) (data : List (BitVec 8))
deriving DecidableEq, Repr

end Sys2Proof
end

