-- ==== Sys2Proof/WellFormed.lean ====
section
/-! DEFINITION. Which field values an instruction admits: the encoding checks of row 1 of Table 17.8 that the word
alone decides (17 R301 to R310; the SC column of Table 17.2; 05 R101; the entries of the reference). A word that
decodes to an instruction that is not well formed traps 0x001. Hint payloads are checked at the instruction they bind
to (17 R311, R313), so a hint word is well formed whatever its payload. -/

namespace Sys2Proof

/-- Number of registers that a WD field names (05 R101). -/
def wdWidth (w : BitVec 2) : Nat := 2 ^ w.toNat

/-- A direct register number is a multiple of its width; an indexed one is checked per lane (05 R101, R100). -/
def alignedField (n : BitVec 6) (w : Nat) : Bool := 56 ≤ n.toNat || n.toNat % w == 0

/-- SC 01, 10 or 11 (06 R116). -/
def scWarp (c : BitVec 2) : Bool := c != 0#2

/-- WD and identity width of a reduce operator, if the code is an operator (17 Table 17.5). -/
def reduceWidth (op : Nat) : Option Nat :=
  if op ≤ 12 then some 1 else if op ≤ 14 then some 2 else none

/-- Number of registers of the D operand of an atomic (17 Table 17.6). -/
def atomWidth (aop : Nat) : Nat := if 13 ≤ aop then 2 else 1

/-- FCVT's encoding rules (07 R146). -/
def fcvtOk (n m : BitVec 2) (sr : BitVec 1) (d a : BitVec 6) (cs cd : BitVec 3) : Bool :=
  cs != cd
  && (n == 0#2 || 6 ≤ cs.toNat || 6 ≤ cd.toNat)
  && !(n == 3#2 && (6 ≤ cs.toNat || 6 ≤ cd.toNat))
  && !(n == 2#2 && (cs.toNat == 7 || cd.toNat == 7))
  && !(sr == 1#1 && (cd.toNat == 0 || cd.toNat == 1 || cd.toNat == 4 || cd.toNat == 5))
  && !(sr == 1#1 && m != 0#2)
  && (cs.toNat != 1 || alignedField a 2)
  && (cd.toNat != 1 || alignedField d 2)

/-- The number of bits set in a group mask (05 R102). -/
def popMask (g : BitVec 14) : Nat := ((List.range 14).filter g.getLsbD).length

/-- The encoding checks of row 1 of Table 17.8 that depend on the instruction word alone. -/
def Instr.wf : Instr → Bool
  | .iadd32 _ w d a b => alignedField d (wdWidth w) && alignedField a (wdWidth w) && alignedField b (wdWidth w)
  | .isub32 _ w d a b => alignedField d (wdWidth w) && alignedField a (wdWidth w) && alignedField b (wdWidth w)
  | .imul32 _ w d a b => alignedField d (wdWidth w) && alignedField a (wdWidth w) && alignedField b (wdWidth w)
  | .imulhI32 _ w d a b => alignedField d (wdWidth w) && alignedField a (wdWidth w) && alignedField b (wdWidth w)
  | .imulhN32 _ w d a b => alignedField d (wdWidth w) && alignedField a (wdWidth w) && alignedField b (wdWidth w)
  | .imad32 _ w d a b => alignedField d (wdWidth w) && alignedField a (wdWidth w) && alignedField b (wdWidth w)
  | .iminI32 _ w d a b => alignedField d (wdWidth w) && alignedField a (wdWidth w) && alignedField b (wdWidth w)
  | .iminN32 _ w d a b => alignedField d (wdWidth w) && alignedField a (wdWidth w) && alignedField b (wdWidth w)
  | .imaxI32 _ w d a b => alignedField d (wdWidth w) && alignedField a (wdWidth w) && alignedField b (wdWidth w)
  | .imaxN32 _ w d a b => alignedField d (wdWidth w) && alignedField a (wdWidth w) && alignedField b (wdWidth w)
  | .iabs32 _ w d a => alignedField d (wdWidth w) && alignedField a (wdWidth w)
  | .iaddsI32 _ w d a b => alignedField d (wdWidth w) && alignedField a (wdWidth w) && alignedField b (wdWidth w)
  | .iaddsN32 _ w d a b => alignedField d (wdWidth w) && alignedField a (wdWidth w) && alignedField b (wdWidth w)
  | .isubsI32 _ w d a b => alignedField d (wdWidth w) && alignedField a (wdWidth w) && alignedField b (wdWidth w)
  | .isubsN32 _ w d a b => alignedField d (wdWidth w) && alignedField a (wdWidth w) && alignedField b (wdWidth w)
  | .iadd64 _ d a b => alignedField d 2 && alignedField a 2 && alignedField b 2
  | .isub64 _ d a b => alignedField d 2 && alignedField a 2 && alignedField b 2
  | .imul64 _ d a b => alignedField d 2 && alignedField a 2 && alignedField b 2
  | .imulhI64 _ d a b => alignedField d 2 && alignedField a 2 && alignedField b 2
  | .imulhN64 _ d a b => alignedField d 2 && alignedField a 2 && alignedField b 2
  | .imad64 _ d a b => alignedField d 2 && alignedField a 2 && alignedField b 2
  | .iminI64 _ d a b => alignedField d 2 && alignedField a 2 && alignedField b 2
  | .iminN64 _ d a b => alignedField d 2 && alignedField a 2 && alignedField b 2
  | .imaxI64 _ d a b => alignedField d 2 && alignedField a 2 && alignedField b 2
  | .imaxN64 _ d a b => alignedField d 2 && alignedField a 2 && alignedField b 2
  | .iabs64 _ d a => alignedField d 2 && alignedField a 2
  | .iaddsI64 _ d a b => alignedField d 2 && alignedField a 2 && alignedField b 2
  | .iaddsN64 _ d a b => alignedField d 2 && alignedField a 2 && alignedField b 2
  | .isubsI64 _ d a b => alignedField d 2 && alignedField a 2 && alignedField b 2
  | .isubsN64 _ d a b => alignedField d 2 && alignedField a 2 && alignedField b 2
  | .and _ w d a b => alignedField d (wdWidth w) && alignedField a (wdWidth w) && alignedField b (wdWidth w)
  | .or _ w d a b => alignedField d (wdWidth w) && alignedField a (wdWidth w) && alignedField b (wdWidth w)
  | .xor _ w d a b => alignedField d (wdWidth w) && alignedField a (wdWidth w) && alignedField b (wdWidth w)
  | .andn _ w d a b => alignedField d (wdWidth w) && alignedField a (wdWidth w) && alignedField b (wdWidth w)
  | .shl _ _ _ _ => true
  | .shrN _ _ _ _ => true
  | .shrI _ _ _ _ => true
  | .rot _ _ _ _ => true
  | .popc _ _ _ => true
  | .clz _ _ _ => true
  | .brev _ _ _ => true
  | .bfxN _ _ _ _ => true
  | .bfxI _ _ _ _ => true
  | .bfi _ _ _ _ => true
  | .vsel _ w d a b => alignedField d (wdWidth w) && alignedField a (wdWidth w) && alignedField b (wdWidth w)
  | .iaddi _ w d _ => alignedField d (wdWidth w)
  | .andi _ w d _ => alignedField d (wdWidth w)
  | .ori _ w d _ => alignedField d (wdWidth w)
  | .xori _ w d _ => alignedField d (wdWidth w)
  | .shli _ w d _ => alignedField d (wdWidth w)
  | .shriN _ w d _ => alignedField d (wdWidth w)
  | .shriI _ w d _ => alignedField d (wdWidth w)
  | .vmovi _ w d _ => alignedField d (wdWidth w)
  | .imuli _ w d _ => alignedField d (wdWidth w)
  | .faddF32 _ w d a b => alignedField d (wdWidth w) && alignedField a (wdWidth w) && alignedField b (wdWidth w)
  | .fsubF32 _ w d a b => alignedField d (wdWidth w) && alignedField a (wdWidth w) && alignedField b (wdWidth w)
  | .fmulF32 _ w d a b => alignedField d (wdWidth w) && alignedField a (wdWidth w) && alignedField b (wdWidth w)
  | .ffmaF32 _ w d a b => alignedField d (wdWidth w) && alignedField a (wdWidth w) && alignedField b (wdWidth w)
  | .fminF32 _ w d a b => alignedField d (wdWidth w) && alignedField a (wdWidth w) && alignedField b (wdWidth w)
  | .fmaxF32 _ w d a b => alignedField d (wdWidth w) && alignedField a (wdWidth w) && alignedField b (wdWidth w)
  | .fabsF32 _ w d a => alignedField d (wdWidth w) && alignedField a (wdWidth w)
  | .fnegF32 _ w d a => alignedField d (wdWidth w) && alignedField a (wdWidth w)
  | .fscaleF32 _ w d a b => alignedField d (wdWidth w) && alignedField a (wdWidth w) && alignedField b (wdWidth w)
  | .fdivF32 _ w d a b => alignedField d (wdWidth w) && alignedField a (wdWidth w) && alignedField b (wdWidth w)
  | .fclassF32 _ w d a => alignedField d (wdWidth w) && alignedField a (wdWidth w)
  | .frndF32 _ w d a => alignedField d (wdWidth w) && alignedField a (wdWidth w)
  | .faddF64 _ d a b => alignedField d 2 && alignedField a 2 && alignedField b 2
  | .fsubF64 _ d a b => alignedField d 2 && alignedField a 2 && alignedField b 2
  | .fmulF64 _ d a b => alignedField d 2 && alignedField a 2 && alignedField b 2
  | .ffmaF64 _ d a b => alignedField d 2 && alignedField a 2 && alignedField b 2
  | .fminF64 _ d a b => alignedField d 2 && alignedField a 2 && alignedField b 2
  | .fmaxF64 _ d a b => alignedField d 2 && alignedField a 2 && alignedField b 2
  | .fabsF64 _ d a => alignedField d 2 && alignedField a 2
  | .fnegF64 _ d a => alignedField d 2 && alignedField a 2
  | .fscaleF64 _ d a b => alignedField d 2 && alignedField a 2 && alignedField b 2
  | .fdivF64 _ d a b => alignedField d 2 && alignedField a 2 && alignedField b 2
  | .fclassF64 _ d a => alignedField a 2 && alignedField d 2
  | .frndF64 _ d a => alignedField d 2 && alignedField a 2
  | .faddF16x2 _ w d a b => alignedField d (wdWidth w) && alignedField a (wdWidth w) && alignedField b (wdWidth w)
  | .fsubF16x2 _ w d a b => alignedField d (wdWidth w) && alignedField a (wdWidth w) && alignedField b (wdWidth w)
  | .fmulF16x2 _ w d a b => alignedField d (wdWidth w) && alignedField a (wdWidth w) && alignedField b (wdWidth w)
  | .ffmaF16x2 _ w d a b => alignedField d (wdWidth w) && alignedField a (wdWidth w) && alignedField b (wdWidth w)
  | .fminF16x2 _ w d a b => alignedField d (wdWidth w) && alignedField a (wdWidth w) && alignedField b (wdWidth w)
  | .fmaxF16x2 _ w d a b => alignedField d (wdWidth w) && alignedField a (wdWidth w) && alignedField b (wdWidth w)
  | .fabsF16x2 _ w d a => alignedField d (wdWidth w) && alignedField a (wdWidth w)
  | .fnegF16x2 _ w d a => alignedField d (wdWidth w) && alignedField a (wdWidth w)
  | .faddBf16x2 _ w d a b => alignedField d (wdWidth w) && alignedField a (wdWidth w) && alignedField b (wdWidth w)
  | .fsubBf16x2 _ w d a b => alignedField d (wdWidth w) && alignedField a (wdWidth w) && alignedField b (wdWidth w)
  | .fmulBf16x2 _ w d a b => alignedField d (wdWidth w) && alignedField a (wdWidth w) && alignedField b (wdWidth w)
  | .ffmaBf16x2 _ w d a b => alignedField d (wdWidth w) && alignedField a (wdWidth w) && alignedField b (wdWidth w)
  | .fminBf16x2 _ w d a b => alignedField d (wdWidth w) && alignedField a (wdWidth w) && alignedField b (wdWidth w)
  | .fmaxBf16x2 _ w d a b => alignedField d (wdWidth w) && alignedField a (wdWidth w) && alignedField b (wdWidth w)
  | .fabsBf16x2 _ w d a => alignedField d (wdWidth w) && alignedField a (wdWidth w)
  | .fnegBf16x2 _ w d a => alignedField d (wdWidth w) && alignedField a (wdWidth w)
  | .frcp _ w d a => alignedField d (wdWidth w) && alignedField a (wdWidth w)
  | .frsq _ w d a => alignedField d (wdWidth w) && alignedField a (wdWidth w)
  | .fsqrt _ w d a => alignedField d (wdWidth w) && alignedField a (wdWidth w)
  | .fexp2 _ w d a => alignedField d (wdWidth w) && alignedField a (wdWidth w)
  | .flog2 _ w d a => alignedField d (wdWidth w) && alignedField a (wdWidth w)
  | .fsin _ w d a => alignedField d (wdWidth w) && alignedField a (wdWidth w)
  | .fcos _ w d a => alignedField d (wdWidth w) && alignedField a (wdWidth w)
  | .ftanh _ w d a => alignedField d (wdWidth w) && alignedField a (wdWidth w)
  | .fsigm _ w d a => alignedField d (wdWidth w) && alignedField a (wdWidth w)
  | .icmp c w k _ a b => scWarp c && decide (k.toNat ≤ 11) && decide (w.toNat ≤ 1) && alignedField a (wdWidth w) && alignedField b (wdWidth w)
  | .fcmpF32 c k _ _ _ => scWarp c && decide (k.toNat ≤ 13)
  | .fcmpF64 c k _ a b => scWarp c && decide (k.toNat ≤ 13) && alignedField a 2 && alignedField b 2
  | .fcvt _ n m _ e d a x y => fcvtOk n m e d a x y
  | .vpackB _ _ a b => decide (b.toNat ≤ 2) && alignedField a 4
  | .vpackH _ _ a b => decide (b.toNat ≤ 2) && alignedField a 2
  | .vunpkB _ d _ b => decide (b.toNat ≤ 1) && alignedField d 4
  | .vunpkH _ d _ b => decide (b.toNat ≤ 1) && alignedField d 2
  | .vmov _ w d a => alignedField d (wdWidth w) && alignedField a (wdWidth w)
  | .vmovs _ _ _ => true
  | .vget c _ _ _ => scWarp c
  | .vsetl _ _ _ _ => true
  | .mfsVector _ _ _ => true
  | .xset _ d _ => decide (d.toNat ≤ 7)
  | .xidx _ d _ => decide (d.toNat ≤ 7)
  | .xadd _ d _ => decide (d.toNat ≤ 7)
  | .xget _ _ a => decide (a.toNat ≤ 7)
  | .trd _ _ _ v _ _ => alignedField v 2
  | .twr _ _ _ v _ _ => alignedField v 2
  | .tacc _ _ _ v _ _ => alignedField v 2
  | .tzero _ _ _ _ _ => true
  | .shfl c w d a _ => scWarp c && alignedField d (wdWidth w) && alignedField a (wdWidth w)
  | .shflx c w d a _ => scWarp c && alignedField d (wdWidth w) && alignedField a (wdWidth w)
  | .bcast c w d a _ => scWarp c && alignedField d (wdWidth w) && alignedField a (wdWidth w)
  | .qxch c w d a b => scWarp c && alignedField d (wdWidth w) && alignedField a (wdWidth w) && decide (b.toNat ≤ 3)
  | .scan c w d a b => scWarp c && reduceWidth b.toNat == some (wdWidth w) && alignedField d (wdWidth w) && alignedField a (wdWidth w)
  | .reduce c w d a b => scWarp c && reduceWidth b.toNat == some (wdWidth w) && alignedField d (wdWidth w) && alignedField a (wdWidth w)
  | .vote c _ _ b => scWarp c && decide (b.toNat ≤ 3)
  | .xshuf _ w d a _ => alignedField d (wdWidth w) && alignedField a (wdWidth w)
  | .sadd c _ _ _ => scWarp c
  | .ssub c _ _ _ => scWarp c
  | .smul c _ _ _ => scWarp c
  | .sand c _ _ _ => scWarp c
  | .sor c _ _ _ => scWarp c
  | .sxor c _ _ _ => scWarp c
  | .sandn c _ _ _ => scWarp c
  | .sshl c _ _ _ => scWarp c
  | .sshrN c _ _ _ => scWarp c
  | .sshrI c _ _ _ => scWarp c
  | .sminI c _ _ _ => scWarp c
  | .sminN c _ _ _ => scWarp c
  | .smaxI c _ _ _ => scWarp c
  | .smaxN c _ _ _ => scWarp c
  | .spopc c _ _ => scWarp c
  | .sffs c _ _ => scWarp c
  | .saddi c _ _ => scWarp c
  | .sandi c _ _ => scWarp c
  | .sori c _ _ => scWarp c
  | .sxori c _ _ => scWarp c
  | .sshli c _ _ => scWarp c
  | .sshriN c _ _ => scWarp c
  | .sshriI c _ _ => scWarp c
  | .smovi c _ _ => scWarp c
  | .smuli c _ _ => scWarp c
  | .scmp c k _ _ _ => scWarp c && decide (k.toNat ≤ 11)
  | .smov c _ _ => scWarp c
  | .ssel c _ _ _ => scWarp c
  | .mfsScalar c _ _ => scWarp c
  | .mts c _ _ => scWarp c
  | .bra c _ => scWarp c
  | .brz c _ _ => scWarp c
  | .brnz c _ _ => scWarp c
  | .brx _ _ => true
  | .call c _ _ => scWarp c
  | .ret c _ => scWarp c
  | .join _ => true
  | .exit c => scWarp c
  | .exitl _ => true
  | .refill _ => true
  | .refillWarp _ => true
  | .refillBlock _ => true
  | .yield c => scWarp c
  | .bar _ => true
  | .bara _ => true
  | .barw _ => true
  | .setdef _ _ => true
  | .nop c => scWarp c
  | .bpt => true
  | .trap c _ => scWarp c
  | .grow c _ => scWarp c
  | .region g => decide (popMask g ≤ 8)
  | .ld _ _ w _ d _ _ => alignedField d (wdWidth w)
  | .st _ w _ d _ _ => alignedField d (wdWidth w)
  | .lds _ _ _ _ _ _ _ => true
  | .sts _ w _ _ _ _ => decide (w.toNat ≤ 1)
  | .atom _ _ u d _ _ => alignedField d (atomWidth u.toNat)
  | .atoml _ _ u d _ _ => alignedField d (atomWidth u.toNat)
  | .fence c => scWarp c
  | .pref c _ => scWarp c
  | .disc c _ _ => scWarp c
  | .cflush c _ _ => scWarp c
  | .qopen c _ _ => scWarp c
  | .qrsv c _ _ _ => scWarp c
  | .qcmt c _ _ _ => scWarp c
  | .qpop c _ _ _ => scWarp c
  | .qrel c _ _ => scWarp c
  | .qstat c _ _ _ => scWarp c
  | .qstamp c _ _ _ _ => scWarp c
  | .qclose c _ => scWarp c
  | .cpy c _ _ => scWarp c
  | .xfer c _ _ => scWarp c
  | .gath c _ _ => scWarp c
  | .mmk c _ a _ => scWarp c && a.toNat % 4 == 0 && decide (a.toNat ≤ 60)
  | .mmj c _ _ => scWarp c
  | .htest c _ _ _ b => scWarp c && decide (b.toNat ≤ 2)
  | .hcancel c _ => scWarp c
  | .hmovs c _ _ _ => scWarp c
  | .smovh c _ _ => scWarp c
  | .batch c _ _ => scWarp c
  | .waitbBatch c _ => scWarp c
  | .waitbHandle c h b => scWarp c && h != 0#4 && decide (b.toNat ≤ 1)
  | .npost c _ _ => scWarp c
  | .nsend c _ => scWarp c
  | .tcadd c _ _ => scWarp c
  | .tcrd c _ _ _ => scWarp c
  | .tcarm c _ _ => scWarp c
  | .tcset c _ _ => scWarp c
  | .rft => true
  | .csave _ _ _ => true
  | .crest _ _ _ => true
  | .tlbi _ _ => true
  | .harv _ => true
  | .haltc _ _ => true
  | .hintImm _ => true
  | .hintSched _ _ => true
  | .hintMemord _ _ _ _ => true
  | .hintArith _ _ _ _ _ _ => true
  | .hintStamp _ => true
  | .hintTrace _ => true
  | .hintRemote _ => true
  | .powerOn _ _ _ => true
  | .attestationRequest _ => true
  | .sessionEncapsulation _ => true
  | .sessionIdleTimeout => true
  | .commandDatagram _ _ => true
  | .powerControl _ _ => true
  | .packetFetch => true
  | .packetStart _ => true
  | .launchGrid _ => true
  | .launchAlmanac _ => true
  | .writeMemory _ => true
  | .readMemory _ => true
  | .fencePacket _ => true
  | .signal _ => true
  | .drain _ => true
  | .resize _ => true
  | .createRing _ => true
  | .destroyRing _ => true
  | .restartRing _ => true
  | .queryRing _ => true
  | .registerHandle _ => true
  | .unregisterHandle _ => true
  | .suspendContext _ => true
  | .resumeContext _ => true
  | .setRendezvousTimeout _ => true
  | .cancel _ => true
  | .packetComplete _ => true
  | .fenceTimeout _ => true
  | .blockPlacement _ => true
  | .gangPlacement _ => true
  | .prologueCopyComplete _ _ => true
  | .warpStart _ _ _ => true
  | .blockRetire _ _ => true
  | .stageRecordWrite _ => true
  | .refillWake _ _ _ => true
  | .refillReconverge _ _ _ => true
  | .warpSwap _ _ => true
  | .restageDone _ _ _ => true
  | .leaveGrant _ => true
  | .leaveAgeing _ => true
  | .rendezvousComplete _ _ _ => true
  | .rendezvousTimeout _ _ _ => true
  | .joinComplete _ _ _ => true
  | .joinTimeout _ _ _ _ => true
  | .gangPhaseComplete _ _ => true
  | .grantRequest _ _ => true
  | .grantBlockArrival _ _ => true
  | .grantReturnTimeout _ _ => true
  | .freeReport _ => true
  | .freeReportFlush _ _ => true
  | .commitAtHome _ => true
  | .eosHeader _ => true
  | .retainedSlotRewrite _ _ _ => true
  | .retainedSlotDiscard _ _ => true
  | .spillWrite _ _ => true
  | .spillFetch _ _ => true
  | .mirrorTransfer _ _ _ => true
  | .mirrorFree _ _ => true
  | .peerMatchTimeout _ => true
  | .pipePeerLost _ => true
  | .balancerSample => true
  | .handoffComplete _ => true
  | .handoffTimeout _ => true
  | .deadlockDetected _ => true
  | .fillResponse _ _ => true
  | .dirtyWriteHome _ _ _ => true
  | .homeRead _ _ => true
  | .homeWrite _ _ => true
  | .homeAtomic _ _ => true
  | .ptsSelfExpiry _ => true
  | .rebase => true
  | .multicastForward _ => true
  | .multicastDelivery _ => true
  | .podRemoteAccess _ _ _ _ _ => true
  | .linkRetry _ => true
  | .oplogReplay _ _ _ => true
  | .oplogDeliver _ _ _ => true
  | .oplogFail _ _ _ => true
  | .recordReplay _ _ _ => true
  | .recordDeliver _ _ _ => true
  | .recordFail _ _ _ => true
  | .dirtyFlagTimeout _ _ => true
  | .matrixAccept _ => true
  | .kStep _ => true
  | .epilogue _ => true
  | .matrixFaultResume _ _ => true
  | .engineAccept _ _ => true
  | .copyComplete _ _ => true
  | .gatherGroup _ _ => true
  | .engineFaultResume _ _ => true
  | .engineFaultDeliver _ _ => true
  | .triggerFlit _ => true
  | .vigilStart => true
  | .vigilComplete _ => true
  | .chunkSend _ _ => true
  | .chunkArrival _ _ _ _ => true
  | .chunkAck _ _ => true
  | .nsendArrival _ _ _ => true
  | .xshufPair _ _ _ => true
  | .xshufDataArrival _ _ _ => true
  | .holidayPause _ _ _ => true
  | .holidayStop _ _ _ _ => true
  | .holidayHold _ _ _ => true
  | .holidayResume _ _ _ => true
  | .holidayReply _ _ _ _ _ => true
  | .holidayTimeout _ => true
  | .collectivePeerLost _ => true
  | .faultQueueTailWrite _ _ => true
  | .errorDetected _ _ _ => true
  | .scrub => true
  | .coreStallTimeout _ => true
  | .coreSelfTestFail _ => true
  | .debugStop _ _ => true
  | .debugResume _ _ => true
  | .stallSample _ _ => true
  | .pmcWrap _ _ => true
  | .ptpMessage _ => true
  | .ualinkTimingMessage _ _ => true
  | .powerStateDecision _ => true
  | .powerSample _ _ _ => true
  | .thermalTrip _ => true
  | .moduleWake => true
  | .registerWrite _ _ _ => true
  | .pipePeerMatch _ _ => true
  | .ualinkCompletion _ _ _ => true

end Sys2Proof
end

