-- ==== Sys2Proof/Decode.lean ====
section
/-! DEFINITION. The decoder: any 32-bit word to an instruction or a named rejection (17 R301, R304, R310), written from
Tables 17.1 and 17.2 and the entries of the reference; and, after it, the encoder, the instruction's bytes, and the
words of the opcode table's numbering. A word is decoded when it would issue. Which field values an instruction
admits is `Instr.wf`. -/

namespace Sys2Proof

/-- Why a word is no instruction; each of them traps 0x001 "illegal instruction" (17 R304, R310 row 1). -/
inductive DecodeErr where
  /-- a reserved major opcode -/
  | reservedMajor
  /-- a reserved FN, KIND or scope of a major that has rows -/
  | reservedFunction
  /-- a reserved or unused field that is not zero, or a fixed field with another value -/
  | reservedField
deriving DecidableEq, Repr

/-- Bits `[lo + n - 1 : lo]` of a word (00 R3). -/
def fld (w : Word) (lo n : Nat) : BitVec n := BitVec.ofNat n (w.toNat / 2 ^ lo)

/-- Words of major 0x01 (17 Table 17.2). -/
def decodeMajor01 (w : Word) : Except DecodeErr Instr :=
  if fld w 18 4 = 0#4 then .ok (.iadd32 (fld w 24 2) (fld w 22 2) (fld w 12 6) (fld w 6 6) (fld w 0 6))
  else
  if fld w 18 4 = 1#4 then .ok (.isub32 (fld w 24 2) (fld w 22 2) (fld w 12 6) (fld w 6 6) (fld w 0 6))
  else
  if fld w 18 4 = 2#4 then .ok (.imul32 (fld w 24 2) (fld w 22 2) (fld w 12 6) (fld w 6 6) (fld w 0 6))
  else
  if fld w 18 4 = 3#4 then .ok (.imulhI32 (fld w 24 2) (fld w 22 2) (fld w 12 6) (fld w 6 6) (fld w 0 6))
  else
  if fld w 18 4 = 4#4 then .ok (.imulhN32 (fld w 24 2) (fld w 22 2) (fld w 12 6) (fld w 6 6) (fld w 0 6))
  else
  if fld w 18 4 = 5#4 then .ok (.imad32 (fld w 24 2) (fld w 22 2) (fld w 12 6) (fld w 6 6) (fld w 0 6))
  else
  if fld w 18 4 = 6#4 then .ok (.iminI32 (fld w 24 2) (fld w 22 2) (fld w 12 6) (fld w 6 6) (fld w 0 6))
  else
  if fld w 18 4 = 7#4 then .ok (.iminN32 (fld w 24 2) (fld w 22 2) (fld w 12 6) (fld w 6 6) (fld w 0 6))
  else
  if fld w 18 4 = 8#4 then .ok (.imaxI32 (fld w 24 2) (fld w 22 2) (fld w 12 6) (fld w 6 6) (fld w 0 6))
  else
  if fld w 18 4 = 9#4 then .ok (.imaxN32 (fld w 24 2) (fld w 22 2) (fld w 12 6) (fld w 6 6) (fld w 0 6))
  else
  if fld w 18 4 = 10#4 ∧ fld w 0 6 = 0#6 then .ok (.iabs32 (fld w 24 2) (fld w 22 2) (fld w 12 6) (fld w 6 6))
  else
  if fld w 18 4 = 11#4 then .ok (.iaddsI32 (fld w 24 2) (fld w 22 2) (fld w 12 6) (fld w 6 6) (fld w 0 6))
  else
  if fld w 18 4 = 12#4 then .ok (.iaddsN32 (fld w 24 2) (fld w 22 2) (fld w 12 6) (fld w 6 6) (fld w 0 6))
  else
  if fld w 18 4 = 13#4 then .ok (.isubsI32 (fld w 24 2) (fld w 22 2) (fld w 12 6) (fld w 6 6) (fld w 0 6))
  else
  if fld w 18 4 = 14#4 then .ok (.isubsN32 (fld w 24 2) (fld w 22 2) (fld w 12 6) (fld w 6 6) (fld w 0 6))
  else
  if (fld w 18 4).toNat ∈ [0, 1, 2, 3, 4, 5, 6, 7, 8, 9, 10, 11, 12, 13, 14] then .error .reservedField
  else .error .reservedFunction

/-- Words of major 0x02 (17 Table 17.2). -/
def decodeMajor02 (w : Word) : Except DecodeErr Instr :=
  if fld w 18 6 = 0#6 then .ok (.iadd64 (fld w 24 2) (fld w 12 6) (fld w 6 6) (fld w 0 6))
  else
  if fld w 18 6 = 1#6 then .ok (.isub64 (fld w 24 2) (fld w 12 6) (fld w 6 6) (fld w 0 6))
  else
  if fld w 18 6 = 2#6 then .ok (.imul64 (fld w 24 2) (fld w 12 6) (fld w 6 6) (fld w 0 6))
  else
  if fld w 18 6 = 3#6 then .ok (.imulhI64 (fld w 24 2) (fld w 12 6) (fld w 6 6) (fld w 0 6))
  else
  if fld w 18 6 = 4#6 then .ok (.imulhN64 (fld w 24 2) (fld w 12 6) (fld w 6 6) (fld w 0 6))
  else
  if fld w 18 6 = 5#6 then .ok (.imad64 (fld w 24 2) (fld w 12 6) (fld w 6 6) (fld w 0 6))
  else
  if fld w 18 6 = 6#6 then .ok (.iminI64 (fld w 24 2) (fld w 12 6) (fld w 6 6) (fld w 0 6))
  else
  if fld w 18 6 = 7#6 then .ok (.iminN64 (fld w 24 2) (fld w 12 6) (fld w 6 6) (fld w 0 6))
  else
  if fld w 18 6 = 8#6 then .ok (.imaxI64 (fld w 24 2) (fld w 12 6) (fld w 6 6) (fld w 0 6))
  else
  if fld w 18 6 = 9#6 then .ok (.imaxN64 (fld w 24 2) (fld w 12 6) (fld w 6 6) (fld w 0 6))
  else
  if fld w 18 6 = 10#6 ∧ fld w 0 6 = 0#6 then .ok (.iabs64 (fld w 24 2) (fld w 12 6) (fld w 6 6))
  else
  if fld w 18 6 = 11#6 then .ok (.iaddsI64 (fld w 24 2) (fld w 12 6) (fld w 6 6) (fld w 0 6))
  else
  if fld w 18 6 = 12#6 then .ok (.iaddsN64 (fld w 24 2) (fld w 12 6) (fld w 6 6) (fld w 0 6))
  else
  if fld w 18 6 = 13#6 then .ok (.isubsI64 (fld w 24 2) (fld w 12 6) (fld w 6 6) (fld w 0 6))
  else
  if fld w 18 6 = 14#6 then .ok (.isubsN64 (fld w 24 2) (fld w 12 6) (fld w 6 6) (fld w 0 6))
  else
  if (fld w 18 4).toNat ∈ [0, 1, 2, 3, 4, 5, 6, 7, 8, 9, 10, 11, 12, 13, 14] then .error .reservedField
  else .error .reservedFunction

/-- Words of major 0x03 (17 Table 17.2). -/
def decodeMajor03 (w : Word) : Except DecodeErr Instr :=
  if fld w 18 4 = 0#4 then .ok (.and (fld w 24 2) (fld w 22 2) (fld w 12 6) (fld w 6 6) (fld w 0 6))
  else
  if fld w 18 4 = 1#4 then .ok (.or (fld w 24 2) (fld w 22 2) (fld w 12 6) (fld w 6 6) (fld w 0 6))
  else
  if fld w 18 4 = 2#4 then .ok (.xor (fld w 24 2) (fld w 22 2) (fld w 12 6) (fld w 6 6) (fld w 0 6))
  else
  if fld w 18 4 = 3#4 then .ok (.andn (fld w 24 2) (fld w 22 2) (fld w 12 6) (fld w 6 6) (fld w 0 6))
  else
  if fld w 18 6 = 4#6 then .ok (.shl (fld w 24 2) (fld w 12 6) (fld w 6 6) (fld w 0 6))
  else
  if fld w 18 6 = 5#6 then .ok (.shrN (fld w 24 2) (fld w 12 6) (fld w 6 6) (fld w 0 6))
  else
  if fld w 18 6 = 6#6 then .ok (.shrI (fld w 24 2) (fld w 12 6) (fld w 6 6) (fld w 0 6))
  else
  if fld w 18 6 = 7#6 then .ok (.rot (fld w 24 2) (fld w 12 6) (fld w 6 6) (fld w 0 6))
  else
  if fld w 18 6 = 8#6 ∧ fld w 0 6 = 0#6 then .ok (.popc (fld w 24 2) (fld w 12 6) (fld w 6 6))
  else
  if fld w 18 6 = 9#6 ∧ fld w 0 6 = 0#6 then .ok (.clz (fld w 24 2) (fld w 12 6) (fld w 6 6))
  else
  if fld w 18 6 = 10#6 ∧ fld w 0 6 = 0#6 then .ok (.brev (fld w 24 2) (fld w 12 6) (fld w 6 6))
  else
  if fld w 18 6 = 11#6 then .ok (.bfxN (fld w 24 2) (fld w 12 6) (fld w 6 6) (fld w 0 6))
  else
  if fld w 18 6 = 12#6 then .ok (.bfxI (fld w 24 2) (fld w 12 6) (fld w 6 6) (fld w 0 6))
  else
  if fld w 18 6 = 13#6 then .ok (.bfi (fld w 24 2) (fld w 12 6) (fld w 6 6) (fld w 0 6))
  else
  if fld w 18 4 = 14#4 then .ok (.vsel (fld w 24 2) (fld w 22 2) (fld w 12 6) (fld w 6 6) (fld w 0 6))
  else
  if (fld w 18 4).toNat ∈ [0, 1, 2, 3, 4, 5, 6, 7, 8, 9, 10, 11, 12, 13, 14] then .error .reservedField
  else .error .reservedFunction

/-- Words of major 0x04 (17 Table 17.2). -/
def decodeMajor04 (w : Word) : Except DecodeErr Instr :=
  if fld w 18 4 = 0#4 then .ok (.iaddi (fld w 24 2) (fld w 22 2) (fld w 12 6) (fld w 0 12))
  else
  if fld w 18 4 = 1#4 then .ok (.andi (fld w 24 2) (fld w 22 2) (fld w 12 6) (fld w 0 12))
  else
  if fld w 18 4 = 2#4 then .ok (.ori (fld w 24 2) (fld w 22 2) (fld w 12 6) (fld w 0 12))
  else
  if fld w 18 4 = 3#4 then .ok (.xori (fld w 24 2) (fld w 22 2) (fld w 12 6) (fld w 0 12))
  else
  if fld w 18 4 = 4#4 then .ok (.shli (fld w 24 2) (fld w 22 2) (fld w 12 6) (fld w 0 12))
  else
  if fld w 18 4 = 5#4 then .ok (.shriN (fld w 24 2) (fld w 22 2) (fld w 12 6) (fld w 0 12))
  else
  if fld w 18 4 = 6#4 then .ok (.shriI (fld w 24 2) (fld w 22 2) (fld w 12 6) (fld w 0 12))
  else
  if fld w 18 4 = 7#4 then .ok (.vmovi (fld w 24 2) (fld w 22 2) (fld w 12 6) (fld w 0 12))
  else
  if fld w 18 4 = 8#4 then .ok (.imuli (fld w 24 2) (fld w 22 2) (fld w 12 6) (fld w 0 12))
  else
  if (fld w 18 4).toNat ∈ [0, 1, 2, 3, 4, 5, 6, 7, 8] then .error .reservedField
  else .error .reservedFunction

/-- Words of major 0x05 (17 Table 17.2). -/
def decodeMajor05 (w : Word) : Except DecodeErr Instr :=
  if fld w 18 4 = 0#4 then .ok (.faddF32 (fld w 24 2) (fld w 22 2) (fld w 12 6) (fld w 6 6) (fld w 0 6))
  else
  if fld w 18 4 = 1#4 then .ok (.fsubF32 (fld w 24 2) (fld w 22 2) (fld w 12 6) (fld w 6 6) (fld w 0 6))
  else
  if fld w 18 4 = 2#4 then .ok (.fmulF32 (fld w 24 2) (fld w 22 2) (fld w 12 6) (fld w 6 6) (fld w 0 6))
  else
  if fld w 18 4 = 3#4 then .ok (.ffmaF32 (fld w 24 2) (fld w 22 2) (fld w 12 6) (fld w 6 6) (fld w 0 6))
  else
  if fld w 18 4 = 4#4 then .ok (.fminF32 (fld w 24 2) (fld w 22 2) (fld w 12 6) (fld w 6 6) (fld w 0 6))
  else
  if fld w 18 4 = 5#4 then .ok (.fmaxF32 (fld w 24 2) (fld w 22 2) (fld w 12 6) (fld w 6 6) (fld w 0 6))
  else
  if fld w 18 4 = 6#4 ∧ fld w 0 6 = 0#6 then .ok (.fabsF32 (fld w 24 2) (fld w 22 2) (fld w 12 6) (fld w 6 6))
  else
  if fld w 18 4 = 7#4 ∧ fld w 0 6 = 0#6 then .ok (.fnegF32 (fld w 24 2) (fld w 22 2) (fld w 12 6) (fld w 6 6))
  else
  if fld w 18 4 = 8#4 then .ok (.fscaleF32 (fld w 24 2) (fld w 22 2) (fld w 12 6) (fld w 6 6) (fld w 0 6))
  else
  if fld w 18 4 = 9#4 then .ok (.fdivF32 (fld w 24 2) (fld w 22 2) (fld w 12 6) (fld w 6 6) (fld w 0 6))
  else
  if fld w 18 4 = 10#4 ∧ fld w 0 6 = 0#6 then .ok (.fclassF32 (fld w 24 2) (fld w 22 2) (fld w 12 6) (fld w 6 6))
  else
  if fld w 18 4 = 11#4 ∧ fld w 0 6 = 0#6 then .ok (.frndF32 (fld w 24 2) (fld w 22 2) (fld w 12 6) (fld w 6 6))
  else
  if (fld w 18 4).toNat ∈ [0, 1, 2, 3, 4, 5, 6, 7, 8, 9, 10, 11] then .error .reservedField
  else .error .reservedFunction

/-- Words of major 0x06 (17 Table 17.2). -/
def decodeMajor06 (w : Word) : Except DecodeErr Instr :=
  if fld w 18 6 = 0#6 then .ok (.faddF64 (fld w 24 2) (fld w 12 6) (fld w 6 6) (fld w 0 6))
  else
  if fld w 18 6 = 1#6 then .ok (.fsubF64 (fld w 24 2) (fld w 12 6) (fld w 6 6) (fld w 0 6))
  else
  if fld w 18 6 = 2#6 then .ok (.fmulF64 (fld w 24 2) (fld w 12 6) (fld w 6 6) (fld w 0 6))
  else
  if fld w 18 6 = 3#6 then .ok (.ffmaF64 (fld w 24 2) (fld w 12 6) (fld w 6 6) (fld w 0 6))
  else
  if fld w 18 6 = 4#6 then .ok (.fminF64 (fld w 24 2) (fld w 12 6) (fld w 6 6) (fld w 0 6))
  else
  if fld w 18 6 = 5#6 then .ok (.fmaxF64 (fld w 24 2) (fld w 12 6) (fld w 6 6) (fld w 0 6))
  else
  if fld w 18 6 = 6#6 ∧ fld w 0 6 = 0#6 then .ok (.fabsF64 (fld w 24 2) (fld w 12 6) (fld w 6 6))
  else
  if fld w 18 6 = 7#6 ∧ fld w 0 6 = 0#6 then .ok (.fnegF64 (fld w 24 2) (fld w 12 6) (fld w 6 6))
  else
  if fld w 18 6 = 8#6 then .ok (.fscaleF64 (fld w 24 2) (fld w 12 6) (fld w 6 6) (fld w 0 6))
  else
  if fld w 18 6 = 9#6 then .ok (.fdivF64 (fld w 24 2) (fld w 12 6) (fld w 6 6) (fld w 0 6))
  else
  if fld w 18 6 = 10#6 ∧ fld w 0 6 = 0#6 then .ok (.fclassF64 (fld w 24 2) (fld w 12 6) (fld w 6 6))
  else
  if fld w 18 6 = 11#6 ∧ fld w 0 6 = 0#6 then .ok (.frndF64 (fld w 24 2) (fld w 12 6) (fld w 6 6))
  else
  if (fld w 18 4).toNat ∈ [0, 1, 2, 3, 4, 5, 6, 7, 8, 9, 10, 11] then .error .reservedField
  else .error .reservedFunction

/-- Words of major 0x07 (17 Table 17.2). -/
def decodeMajor07 (w : Word) : Except DecodeErr Instr :=
  if fld w 18 4 = 0#4 then .ok (.faddF16x2 (fld w 24 2) (fld w 22 2) (fld w 12 6) (fld w 6 6) (fld w 0 6))
  else
  if fld w 18 4 = 1#4 then .ok (.fsubF16x2 (fld w 24 2) (fld w 22 2) (fld w 12 6) (fld w 6 6) (fld w 0 6))
  else
  if fld w 18 4 = 2#4 then .ok (.fmulF16x2 (fld w 24 2) (fld w 22 2) (fld w 12 6) (fld w 6 6) (fld w 0 6))
  else
  if fld w 18 4 = 3#4 then .ok (.ffmaF16x2 (fld w 24 2) (fld w 22 2) (fld w 12 6) (fld w 6 6) (fld w 0 6))
  else
  if fld w 18 4 = 4#4 then .ok (.fminF16x2 (fld w 24 2) (fld w 22 2) (fld w 12 6) (fld w 6 6) (fld w 0 6))
  else
  if fld w 18 4 = 5#4 then .ok (.fmaxF16x2 (fld w 24 2) (fld w 22 2) (fld w 12 6) (fld w 6 6) (fld w 0 6))
  else
  if fld w 18 4 = 6#4 ∧ fld w 0 6 = 0#6 then .ok (.fabsF16x2 (fld w 24 2) (fld w 22 2) (fld w 12 6) (fld w 6 6))
  else
  if fld w 18 4 = 7#4 ∧ fld w 0 6 = 0#6 then .ok (.fnegF16x2 (fld w 24 2) (fld w 22 2) (fld w 12 6) (fld w 6 6))
  else
  if (fld w 18 4).toNat ∈ [0, 1, 2, 3, 4, 5, 6, 7] then .error .reservedField
  else .error .reservedFunction

/-- Words of major 0x08 (17 Table 17.2). -/
def decodeMajor08 (w : Word) : Except DecodeErr Instr :=
  if fld w 18 4 = 0#4 then .ok (.faddBf16x2 (fld w 24 2) (fld w 22 2) (fld w 12 6) (fld w 6 6) (fld w 0 6))
  else
  if fld w 18 4 = 1#4 then .ok (.fsubBf16x2 (fld w 24 2) (fld w 22 2) (fld w 12 6) (fld w 6 6) (fld w 0 6))
  else
  if fld w 18 4 = 2#4 then .ok (.fmulBf16x2 (fld w 24 2) (fld w 22 2) (fld w 12 6) (fld w 6 6) (fld w 0 6))
  else
  if fld w 18 4 = 3#4 then .ok (.ffmaBf16x2 (fld w 24 2) (fld w 22 2) (fld w 12 6) (fld w 6 6) (fld w 0 6))
  else
  if fld w 18 4 = 4#4 then .ok (.fminBf16x2 (fld w 24 2) (fld w 22 2) (fld w 12 6) (fld w 6 6) (fld w 0 6))
  else
  if fld w 18 4 = 5#4 then .ok (.fmaxBf16x2 (fld w 24 2) (fld w 22 2) (fld w 12 6) (fld w 6 6) (fld w 0 6))
  else
  if fld w 18 4 = 6#4 ∧ fld w 0 6 = 0#6 then .ok (.fabsBf16x2 (fld w 24 2) (fld w 22 2) (fld w 12 6) (fld w 6 6))
  else
  if fld w 18 4 = 7#4 ∧ fld w 0 6 = 0#6 then .ok (.fnegBf16x2 (fld w 24 2) (fld w 22 2) (fld w 12 6) (fld w 6 6))
  else
  if (fld w 18 4).toNat ∈ [0, 1, 2, 3, 4, 5, 6, 7] then .error .reservedField
  else .error .reservedFunction

/-- Words of major 0x09 (17 Table 17.2). -/
def decodeMajor09 (w : Word) : Except DecodeErr Instr :=
  if fld w 18 4 = 0#4 ∧ fld w 0 6 = 0#6 then .ok (.frcp (fld w 24 2) (fld w 22 2) (fld w 12 6) (fld w 6 6))
  else
  if fld w 18 4 = 1#4 ∧ fld w 0 6 = 0#6 then .ok (.frsq (fld w 24 2) (fld w 22 2) (fld w 12 6) (fld w 6 6))
  else
  if fld w 18 4 = 2#4 ∧ fld w 0 6 = 0#6 then .ok (.fsqrt (fld w 24 2) (fld w 22 2) (fld w 12 6) (fld w 6 6))
  else
  if fld w 18 4 = 3#4 ∧ fld w 0 6 = 0#6 then .ok (.fexp2 (fld w 24 2) (fld w 22 2) (fld w 12 6) (fld w 6 6))
  else
  if fld w 18 4 = 4#4 ∧ fld w 0 6 = 0#6 then .ok (.flog2 (fld w 24 2) (fld w 22 2) (fld w 12 6) (fld w 6 6))
  else
  if fld w 18 4 = 5#4 ∧ fld w 0 6 = 0#6 then .ok (.fsin (fld w 24 2) (fld w 22 2) (fld w 12 6) (fld w 6 6))
  else
  if fld w 18 4 = 6#4 ∧ fld w 0 6 = 0#6 then .ok (.fcos (fld w 24 2) (fld w 22 2) (fld w 12 6) (fld w 6 6))
  else
  if fld w 18 4 = 7#4 ∧ fld w 0 6 = 0#6 then .ok (.ftanh (fld w 24 2) (fld w 22 2) (fld w 12 6) (fld w 6 6))
  else
  if fld w 18 4 = 8#4 ∧ fld w 0 6 = 0#6 then .ok (.fsigm (fld w 24 2) (fld w 22 2) (fld w 12 6) (fld w 6 6))
  else
  if (fld w 18 4).toNat ∈ [0, 1, 2, 3, 4, 5, 6, 7, 8] then .error .reservedField
  else .error .reservedFunction

/-- Words of major 0x0A (17 Table 17.2). -/
def decodeMajor0A (w : Word) : Except DecodeErr Instr :=
  .ok (.icmp (fld w 24 2) (fld w 22 2) (fld w 18 4) (fld w 12 6) (fld w 6 6) (fld w 0 6))

/-- Words of major 0x0B (17 Table 17.2). -/
def decodeMajor0B (w : Word) : Except DecodeErr Instr :=
  if fld w 22 2 = 0#2 then .ok (.fcmpF32 (fld w 24 2) (fld w 18 4) (fld w 12 6) (fld w 6 6) (fld w 0 6))
  else
  .error .reservedField

/-- Words of major 0x0C (17 Table 17.2). -/
def decodeMajor0C (w : Word) : Except DecodeErr Instr :=
  if fld w 22 2 = 0#2 then .ok (.fcmpF64 (fld w 24 2) (fld w 18 4) (fld w 12 6) (fld w 6 6) (fld w 0 6))
  else
  .error .reservedField

/-- Words of major 0x0D (17 Table 17.2). -/
def decodeMajor0D (w : Word) : Except DecodeErr Instr :=
  .ok (.fcvt (fld w 24 2) (fld w 22 2) (fld w 20 2) (fld w 19 1) (fld w 18 1) (fld w 12 6) (fld w 6 6) (fld w 3 3) (fld w 0 3))

/-- Words of major 0x0E (17 Table 17.2). -/
def decodeMajor0E (w : Word) : Except DecodeErr Instr :=
  if fld w 18 6 = 32#6 then .ok (.vpackB (fld w 24 2) (fld w 12 6) (fld w 6 6) (fld w 0 6))
  else
  if fld w 18 6 = 17#6 then .ok (.vpackH (fld w 24 2) (fld w 12 6) (fld w 6 6) (fld w 0 6))
  else
  if fld w 18 6 = 34#6 then .ok (.vunpkB (fld w 24 2) (fld w 12 6) (fld w 6 6) (fld w 0 6))
  else
  if fld w 18 6 = 19#6 then .ok (.vunpkH (fld w 24 2) (fld w 12 6) (fld w 6 6) (fld w 0 6))
  else
  if (fld w 18 4).toNat ∈ [0, 1, 2, 3] then .error .reservedField
  else .error .reservedFunction

/-- Words of major 0x0F (17 Table 17.2). -/
def decodeMajor0F (w : Word) : Except DecodeErr Instr :=
  if fld w 18 4 = 0#4 ∧ fld w 0 6 = 0#6 then .ok (.vmov (fld w 24 2) (fld w 22 2) (fld w 12 6) (fld w 6 6))
  else
  if fld w 18 6 = 1#6 ∧ fld w 0 6 = 0#6 then .ok (.vmovs (fld w 24 2) (fld w 12 6) (fld w 6 6))
  else
  if fld w 18 6 = 2#6 then .ok (.vget (fld w 24 2) (fld w 12 6) (fld w 6 6) (fld w 0 6))
  else
  if fld w 18 6 = 3#6 then .ok (.vsetl (fld w 24 2) (fld w 12 6) (fld w 6 6) (fld w 0 6))
  else
  if fld w 18 6 = 4#6 ∧ fld w 0 6 = 0#6 then .ok (.mfsVector (fld w 24 2) (fld w 12 6) (fld w 6 6))
  else
  if (fld w 18 4).toNat ∈ [0, 1, 2, 3, 4] then .error .reservedField
  else .error .reservedFunction

/-- Words of major 0x10 (17 Table 17.2). -/
def decodeMajor10 (w : Word) : Except DecodeErr Instr :=
  if fld w 18 6 = 0#6 ∧ fld w 0 6 = 0#6 then .ok (.xset (fld w 24 2) (fld w 12 6) (fld w 6 6))
  else
  if fld w 18 6 = 1#6 ∧ fld w 0 6 = 0#6 then .ok (.xidx (fld w 24 2) (fld w 12 6) (fld w 6 6))
  else
  if fld w 18 6 = 2#6 ∧ fld w 0 6 = 0#6 then .ok (.xadd (fld w 24 2) (fld w 12 6) (fld w 6 6))
  else
  if fld w 18 6 = 3#6 ∧ fld w 0 6 = 0#6 then .ok (.xget (fld w 24 2) (fld w 12 6) (fld w 6 6))
  else
  if (fld w 18 4).toNat ∈ [0, 1, 2, 3] then .error .reservedField
  else .error .reservedFunction

/-- Words of major 0x11 (17 Table 17.2). -/
def decodeMajor11 (w : Word) : Except DecodeErr Instr :=
  if fld w 20 4 = 4#4 then .ok (.trd (fld w 24 2) (fld w 19 1) (fld w 16 3) (fld w 10 6) (fld w 4 6) (fld w 0 4))
  else
  if fld w 20 4 = 5#4 then .ok (.twr (fld w 24 2) (fld w 19 1) (fld w 16 3) (fld w 10 6) (fld w 4 6) (fld w 0 4))
  else
  if fld w 20 4 = 6#4 then .ok (.tacc (fld w 24 2) (fld w 19 1) (fld w 16 3) (fld w 10 6) (fld w 4 6) (fld w 0 4))
  else
  if fld w 20 4 = 3#4 ∧ fld w 10 6 = 0#6 then .ok (.tzero (fld w 24 2) (fld w 19 1) (fld w 16 3) (fld w 4 6) (fld w 0 4))
  else
  if (fld w 20 2).toNat ∈ [0, 1, 2, 3] then .error .reservedField
  else .error .reservedFunction

/-- Words of major 0x12 (17 Table 17.2). -/
def decodeMajor12 (w : Word) : Except DecodeErr Instr :=
  if fld w 18 4 = 0#4 then .ok (.shfl (fld w 24 2) (fld w 22 2) (fld w 12 6) (fld w 6 6) (fld w 0 6))
  else
  if fld w 18 4 = 1#4 then .ok (.shflx (fld w 24 2) (fld w 22 2) (fld w 12 6) (fld w 6 6) (fld w 0 6))
  else
  if fld w 18 4 = 2#4 then .ok (.bcast (fld w 24 2) (fld w 22 2) (fld w 12 6) (fld w 6 6) (fld w 0 6))
  else
  if fld w 18 4 = 3#4 then .ok (.qxch (fld w 24 2) (fld w 22 2) (fld w 12 6) (fld w 6 6) (fld w 0 6))
  else
  if fld w 18 4 = 4#4 then .ok (.scan (fld w 24 2) (fld w 22 2) (fld w 12 6) (fld w 6 6) (fld w 0 6))
  else
  if fld w 18 4 = 5#4 then .ok (.reduce (fld w 24 2) (fld w 22 2) (fld w 12 6) (fld w 6 6) (fld w 0 6))
  else
  if fld w 18 6 = 6#6 then .ok (.vote (fld w 24 2) (fld w 12 6) (fld w 6 6) (fld w 0 6))
  else
  if (fld w 18 4).toNat ∈ [0, 1, 2, 3, 4, 5, 6] then .error .reservedField
  else .error .reservedFunction

/-- Words of major 0x13 (17 Table 17.2). -/
def decodeMajor13 (w : Word) : Except DecodeErr Instr :=
  if fld w 24 2 = 1#2 then .ok (.xshuf (fld w 20 4) (fld w 18 2) (fld w 12 6) (fld w 6 6) (fld w 0 6))
  else
  .error .reservedField

/-- Words of major 0x14 (17 Table 17.2). -/
def decodeMajor14 (w : Word) : Except DecodeErr Instr :=
  if fld w 18 6 = 0#6 then .ok (.sadd (fld w 24 2) (fld w 12 6) (fld w 6 6) (fld w 0 6))
  else
  if fld w 18 6 = 1#6 then .ok (.ssub (fld w 24 2) (fld w 12 6) (fld w 6 6) (fld w 0 6))
  else
  if fld w 18 6 = 2#6 then .ok (.smul (fld w 24 2) (fld w 12 6) (fld w 6 6) (fld w 0 6))
  else
  if fld w 18 6 = 3#6 then .ok (.sand (fld w 24 2) (fld w 12 6) (fld w 6 6) (fld w 0 6))
  else
  if fld w 18 6 = 4#6 then .ok (.sor (fld w 24 2) (fld w 12 6) (fld w 6 6) (fld w 0 6))
  else
  if fld w 18 6 = 5#6 then .ok (.sxor (fld w 24 2) (fld w 12 6) (fld w 6 6) (fld w 0 6))
  else
  if fld w 18 6 = 6#6 then .ok (.sandn (fld w 24 2) (fld w 12 6) (fld w 6 6) (fld w 0 6))
  else
  if fld w 18 6 = 7#6 then .ok (.sshl (fld w 24 2) (fld w 12 6) (fld w 6 6) (fld w 0 6))
  else
  if fld w 18 6 = 8#6 then .ok (.sshrN (fld w 24 2) (fld w 12 6) (fld w 6 6) (fld w 0 6))
  else
  if fld w 18 6 = 9#6 then .ok (.sshrI (fld w 24 2) (fld w 12 6) (fld w 6 6) (fld w 0 6))
  else
  if fld w 18 6 = 10#6 then .ok (.sminI (fld w 24 2) (fld w 12 6) (fld w 6 6) (fld w 0 6))
  else
  if fld w 18 6 = 11#6 then .ok (.sminN (fld w 24 2) (fld w 12 6) (fld w 6 6) (fld w 0 6))
  else
  if fld w 18 6 = 12#6 then .ok (.smaxI (fld w 24 2) (fld w 12 6) (fld w 6 6) (fld w 0 6))
  else
  if fld w 18 6 = 13#6 then .ok (.smaxN (fld w 24 2) (fld w 12 6) (fld w 6 6) (fld w 0 6))
  else
  if fld w 18 6 = 14#6 ∧ fld w 0 6 = 0#6 then .ok (.spopc (fld w 24 2) (fld w 12 6) (fld w 6 6))
  else
  if fld w 18 6 = 15#6 ∧ fld w 0 6 = 0#6 then .ok (.sffs (fld w 24 2) (fld w 12 6) (fld w 6 6))
  else
  if (fld w 18 4).toNat ∈ [0, 1, 2, 3, 4, 5, 6, 7, 8, 9, 10, 11, 12, 13, 14, 15] then .error .reservedField
  else .error .reservedFunction

/-- Words of major 0x15 (17 Table 17.2). -/
def decodeMajor15 (w : Word) : Except DecodeErr Instr :=
  if fld w 18 6 = 0#6 then .ok (.saddi (fld w 24 2) (fld w 12 6) (fld w 0 12))
  else
  if fld w 18 6 = 1#6 then .ok (.sandi (fld w 24 2) (fld w 12 6) (fld w 0 12))
  else
  if fld w 18 6 = 2#6 then .ok (.sori (fld w 24 2) (fld w 12 6) (fld w 0 12))
  else
  if fld w 18 6 = 3#6 then .ok (.sxori (fld w 24 2) (fld w 12 6) (fld w 0 12))
  else
  if fld w 18 6 = 4#6 then .ok (.sshli (fld w 24 2) (fld w 12 6) (fld w 0 12))
  else
  if fld w 18 6 = 5#6 then .ok (.sshriN (fld w 24 2) (fld w 12 6) (fld w 0 12))
  else
  if fld w 18 6 = 6#6 then .ok (.sshriI (fld w 24 2) (fld w 12 6) (fld w 0 12))
  else
  if fld w 18 6 = 7#6 then .ok (.smovi (fld w 24 2) (fld w 12 6) (fld w 0 12))
  else
  if fld w 18 6 = 8#6 then .ok (.smuli (fld w 24 2) (fld w 12 6) (fld w 0 12))
  else
  if (fld w 18 4).toNat ∈ [0, 1, 2, 3, 4, 5, 6, 7, 8] then .error .reservedField
  else .error .reservedFunction

/-- Words of major 0x16 (17 Table 17.2). -/
def decodeMajor16 (w : Word) : Except DecodeErr Instr :=
  if fld w 22 2 = 0#2 then .ok (.scmp (fld w 24 2) (fld w 18 4) (fld w 12 6) (fld w 6 6) (fld w 0 6))
  else
  .error .reservedField

/-- Words of major 0x17 (17 Table 17.2). -/
def decodeMajor17 (w : Word) : Except DecodeErr Instr :=
  if fld w 18 6 = 0#6 ∧ fld w 0 6 = 0#6 then .ok (.smov (fld w 24 2) (fld w 12 6) (fld w 6 6))
  else
  if fld w 18 6 = 1#6 then .ok (.ssel (fld w 24 2) (fld w 12 6) (fld w 6 6) (fld w 0 6))
  else
  if fld w 18 6 = 2#6 ∧ fld w 0 6 = 0#6 then .ok (.mfsScalar (fld w 24 2) (fld w 12 6) (fld w 6 6))
  else
  if fld w 18 6 = 3#6 ∧ fld w 0 6 = 0#6 then .ok (.mts (fld w 24 2) (fld w 12 6) (fld w 6 6))
  else
  if (fld w 18 4).toNat ∈ [0, 1, 2, 3] then .error .reservedField
  else .error .reservedFunction

/-- Words of major 0x18 (17 Table 17.2). -/
def decodeMajor18 (w : Word) : Except DecodeErr Instr :=
  if fld w 14 10 = 0#10 then .ok (.bra (fld w 24 2) (fld w 0 14))
  else
  if fld w 20 4 = 1#4 then .ok (.brz (fld w 24 2) (fld w 14 6) (fld w 0 14))
  else
  if fld w 20 4 = 2#4 then .ok (.brnz (fld w 24 2) (fld w 14 6) (fld w 0 14))
  else
  if fld w 20 6 = 19#6 then .ok (.brx (fld w 14 6) (fld w 0 14))
  else
  if fld w 20 4 = 4#4 then .ok (.call (fld w 24 2) (fld w 14 6) (fld w 0 14))
  else
  if fld w 20 4 = 5#4 ∧ fld w 0 14 = 0#14 then .ok (.ret (fld w 24 2) (fld w 14 6))
  else
  if fld w 20 6 = 22#6 ∧ fld w 0 14 = 0#14 then .ok (.join (fld w 14 6))
  else
  if (fld w 20 4).toNat ∈ [0, 1, 2, 3, 4, 5, 6] then .error .reservedField
  else .error .reservedFunction

/-- Words of major 0x19 (17 Table 17.2). -/
def decodeMajor19 (w : Word) : Except DecodeErr Instr :=
  if fld w 0 24 = 0#24 then .ok (.exit (fld w 24 2))
  else
  if fld w 20 6 = 1#6 ∧ fld w 0 14 = 0#14 then .ok (.exitl (fld w 14 6))
  else
  if fld w 20 6 = 2#6 ∧ fld w 0 14 = 0#14 then .ok (.refill (fld w 14 6))
  else
  if fld w 20 6 = 18#6 ∧ fld w 0 14 = 0#14 then .ok (.refillWarp (fld w 14 6))
  else
  if fld w 20 6 = 50#6 ∧ fld w 0 14 = 0#14 then .ok (.refillBlock (fld w 14 6))
  else
  if fld w 0 24 = 3145728#24 then .ok (.yield (fld w 24 2))
  else
  if fld w 1 25 = 10485760#25 then .ok (.bar (fld w 0 1))
  else
  if fld w 1 25 = 11010048#25 then .ok (.bara (fld w 0 1))
  else
  if fld w 1 25 = 11534336#25 then .ok (.barw (fld w 0 1))
  else
  if fld w 20 6 = 55#6 ∧ fld w 3 11 = 0#11 then .ok (.setdef (fld w 14 6) (fld w 0 3))
  else
  if fld w 0 24 = 8388608#24 then .ok (.nop (fld w 24 2))
  else
  if fld w 0 26 = 26214400#26 then .ok .bpt
  else
  if fld w 4 20 = 655360#20 then .ok (.trap (fld w 24 2) (fld w 0 4))
  else
  if fld w 20 4 = 11#4 ∧ fld w 0 14 = 0#14 then .ok (.grow (fld w 24 2) (fld w 14 6))
  else
  if fld w 14 12 = 1792#12 then .ok (.region (fld w 0 14))
  else
  if (fld w 20 4).toNat ∈ [0, 1, 2, 3, 4, 5, 6, 7, 8, 9, 10, 11, 12] then .error .reservedField
  else .error .reservedFunction

/-- Words of major 0x1A (17 Table 17.2). -/
def decodeMajor1A (w : Word) : Except DecodeErr Instr :=
  .ok (.ld (fld w 24 2) (fld w 20 4) (fld w 18 2) (fld w 16 2) (fld w 10 6) (fld w 4 6) (fld w 0 4))

/-- Words of major 0x1B (17 Table 17.2). -/
def decodeMajor1B (w : Word) : Except DecodeErr Instr :=
  if fld w 20 4 = 0#4 then .ok (.st (fld w 24 2) (fld w 18 2) (fld w 16 2) (fld w 10 6) (fld w 4 6) (fld w 0 4))
  else
  .error .reservedField

/-- Words of major 0x1C (17 Table 17.2). -/
def decodeMajor1C (w : Word) : Except DecodeErr Instr :=
  .ok (.lds (fld w 24 2) (fld w 20 4) (fld w 18 2) (fld w 16 2) (fld w 10 6) (fld w 4 6) (fld w 0 4))

/-- Words of major 0x1D (17 Table 17.2). -/
def decodeMajor1D (w : Word) : Except DecodeErr Instr :=
  if fld w 20 4 = 0#4 then .ok (.sts (fld w 24 2) (fld w 18 2) (fld w 16 2) (fld w 10 6) (fld w 4 6) (fld w 0 4))
  else
  .error .reservedField

/-- Words of major 0x1E (17 Table 17.2). -/
def decodeMajor1E (w : Word) : Except DecodeErr Instr :=
  .ok (.atom (fld w 24 2) (fld w 20 4) (fld w 16 4) (fld w 10 6) (fld w 4 6) (fld w 0 4))

/-- Words of major 0x1F (17 Table 17.2). -/
def decodeMajor1F (w : Word) : Except DecodeErr Instr :=
  .ok (.atoml (fld w 24 2) (fld w 20 4) (fld w 16 4) (fld w 10 6) (fld w 4 6) (fld w 0 4))

/-- Words of major 0x20 (17 Table 17.2). -/
def decodeMajor20 (w : Word) : Except DecodeErr Instr :=
  if fld w 0 24 = 0#24 then .ok (.fence (fld w 24 2))
  else
  if fld w 16 8 = 0#8 ∧ fld w 0 10 = 1#10 then .ok (.pref (fld w 24 2) (fld w 10 6))
  else
  if fld w 16 8 = 0#8 ∧ fld w 0 4 = 2#4 then .ok (.disc (fld w 24 2) (fld w 10 6) (fld w 4 6))
  else
  if fld w 16 8 = 0#8 ∧ fld w 0 4 = 3#4 then .ok (.cflush (fld w 24 2) (fld w 10 6) (fld w 4 6))
  else
  if (fld w 0 4).toNat ∈ [0, 1, 2, 3] then .error .reservedField
  else .error .reservedFunction

/-- Words of major 0x21 (17 Table 17.2). -/
def decodeMajor21 (w : Word) : Except DecodeErr Instr :=
  if fld w 20 4 = 0#4 ∧ fld w 11 6 = 0#6 ∧ fld w 0 5 = 0#5 then .ok (.qopen (fld w 24 2) (fld w 17 3) (fld w 5 6))
  else
  if fld w 0 11 = 1#11 then .ok (.qrsv (fld w 24 2) (fld w 20 4) (fld w 17 3) (fld w 11 6))
  else
  if fld w 20 4 = 0#4 ∧ fld w 0 5 = 2#5 then .ok (.qcmt (fld w 24 2) (fld w 17 3) (fld w 11 6) (fld w 5 6))
  else
  if fld w 0 11 = 3#11 then .ok (.qpop (fld w 24 2) (fld w 20 4) (fld w 17 3) (fld w 11 6))
  else
  if fld w 20 4 = 0#4 ∧ fld w 11 6 = 0#6 ∧ fld w 0 5 = 4#5 then .ok (.qrel (fld w 24 2) (fld w 17 3) (fld w 5 6))
  else
  if fld w 0 11 = 5#11 then .ok (.qstat (fld w 24 2) (fld w 20 4) (fld w 17 3) (fld w 11 6))
  else
  if fld w 0 5 = 6#5 then .ok (.qstamp (fld w 24 2) (fld w 20 4) (fld w 17 3) (fld w 11 6) (fld w 5 6))
  else
  if fld w 20 4 = 0#4 ∧ fld w 0 17 = 7#17 then .ok (.qclose (fld w 24 2) (fld w 17 3))
  else
  if (fld w 0 5).toNat ∈ [0, 1, 2, 3, 4, 5, 6, 7] then .error .reservedField
  else .error .reservedFunction

/-- Words of major 0x22 (17 Table 17.2). -/
def decodeMajor22 (w : Word) : Except DecodeErr Instr :=
  if fld w 20 4 = 0#4 ∧ fld w 0 10 = 0#10 then .ok (.cpy (fld w 24 2) (fld w 16 4) (fld w 10 6))
  else
  if (fld w 0 4).toNat ∈ [0] then .error .reservedField
  else .error .reservedFunction

/-- Words of major 0x23 (17 Table 17.2). -/
def decodeMajor23 (w : Word) : Except DecodeErr Instr :=
  if fld w 20 4 = 0#4 ∧ fld w 0 10 = 0#10 then .ok (.xfer (fld w 24 2) (fld w 16 4) (fld w 10 6))
  else
  if (fld w 0 4).toNat ∈ [0] then .error .reservedField
  else .error .reservedFunction

/-- Words of major 0x24 (17 Table 17.2). -/
def decodeMajor24 (w : Word) : Except DecodeErr Instr :=
  if fld w 20 4 = 0#4 ∧ fld w 0 10 = 0#10 then .ok (.gath (fld w 24 2) (fld w 16 4) (fld w 10 6))
  else
  if (fld w 0 4).toNat ∈ [0] then .error .reservedField
  else .error .reservedFunction

/-- Words of major 0x25 (17 Table 17.2). -/
def decodeMajor25 (w : Word) : Except DecodeErr Instr :=
  if fld w 20 4 = 0#4 ∧ fld w 0 4 = 0#4 then .ok (.mmk (fld w 24 2) (fld w 16 4) (fld w 10 6) (fld w 4 6))
  else
  if (fld w 0 4).toNat ∈ [0] then .error .reservedField
  else .error .reservedFunction

/-- Words of major 0x26 (17 Table 17.2). -/
def decodeMajor26 (w : Word) : Except DecodeErr Instr :=
  if fld w 20 4 = 0#4 ∧ fld w 0 10 = 0#10 then .ok (.mmj (fld w 24 2) (fld w 16 4) (fld w 10 6))
  else
  if (fld w 0 4).toNat ∈ [0] then .error .reservedField
  else .error .reservedFunction

/-- Words of major 0x27 (17 Table 17.2). -/
def decodeMajor27 (w : Word) : Except DecodeErr Instr :=
  if fld w 0 4 = 0#4 then .ok (.htest (fld w 24 2) (fld w 20 4) (fld w 16 4) (fld w 10 6) (fld w 4 6))
  else
  if fld w 20 4 = 0#4 ∧ fld w 0 16 = 1#16 then .ok (.hcancel (fld w 24 2) (fld w 16 4))
  else
  if fld w 0 10 = 2#10 then .ok (.hmovs (fld w 24 2) (fld w 20 4) (fld w 16 4) (fld w 10 6))
  else
  if fld w 20 4 = 0#4 ∧ fld w 0 10 = 3#10 then .ok (.smovh (fld w 24 2) (fld w 16 4) (fld w 10 6))
  else
  if fld w 16 4 = 0#4 ∧ fld w 0 10 = 4#10 then .ok (.batch (fld w 24 2) (fld w 20 4) (fld w 10 6))
  else
  if fld w 16 8 = 0#8 ∧ fld w 0 10 = 5#10 then .ok (.waitbBatch (fld w 24 2) (fld w 10 6))
  else
  if fld w 16 4 ≠ 0#4 ∧ fld w 20 4 = 0#4 ∧ fld w 10 6 = 0#6 ∧ fld w 0 4 = 5#4 then .ok (.waitbHandle (fld w 24 2) (fld w 16 4) (fld w 4 6))
  else
  if (fld w 0 4).toNat ∈ [0, 1, 2, 3, 4, 5] then .error .reservedField
  else .error .reservedFunction

/-- Words of major 0x28 (17 Table 17.2). -/
def decodeMajor28 (w : Word) : Except DecodeErr Instr :=
  if fld w 16 8 = 0#8 ∧ fld w 0 4 = 0#4 then .ok (.npost (fld w 24 2) (fld w 10 6) (fld w 4 6))
  else
  if fld w 16 8 = 0#8 ∧ fld w 0 10 = 1#10 then .ok (.nsend (fld w 24 2) (fld w 10 6))
  else
  if fld w 16 8 = 0#8 ∧ fld w 0 4 = 2#4 then .ok (.tcadd (fld w 24 2) (fld w 10 6) (fld w 4 6))
  else
  if fld w 16 4 = 0#4 ∧ fld w 0 4 = 3#4 then .ok (.tcrd (fld w 24 2) (fld w 20 4) (fld w 10 6) (fld w 4 6))
  else
  if fld w 16 8 = 0#8 ∧ fld w 0 4 = 4#4 then .ok (.tcarm (fld w 24 2) (fld w 10 6) (fld w 4 6))
  else
  if fld w 16 8 = 0#8 ∧ fld w 0 4 = 5#4 then .ok (.tcset (fld w 24 2) (fld w 10 6) (fld w 4 6))
  else
  if (fld w 0 4).toNat ∈ [0, 1, 2, 3, 4, 5] then .error .reservedField
  else .error .reservedFunction

/-- Words of major 0x29 (17 Table 17.2). -/
def decodeMajor29 (w : Word) : Except DecodeErr Instr :=
  if fld w 0 26 = 16777216#26 then .ok .rft
  else
  if fld w 20 6 = 16#6 ∧ fld w 0 4 = 1#4 then .ok (.csave (fld w 16 4) (fld w 10 6) (fld w 4 6))
  else
  if fld w 20 6 = 16#6 ∧ fld w 0 4 = 2#4 then .ok (.crest (fld w 16 4) (fld w 10 6) (fld w 4 6))
  else
  if fld w 16 10 = 256#10 ∧ fld w 0 4 = 3#4 then .ok (.tlbi (fld w 10 6) (fld w 4 6))
  else
  if fld w 16 10 = 256#10 ∧ fld w 0 10 = 4#10 then .ok (.harv (fld w 10 6))
  else
  if fld w 20 6 = 16#6 ∧ fld w 0 10 = 5#10 then .ok (.haltc (fld w 16 4) (fld w 10 6))
  else
  if (fld w 0 4).toNat ∈ [0, 1, 2, 3, 4, 5] then .error .reservedField
  else .error .reservedFunction

/-- Words of major 0x3F (17 Table 17.2). -/
def decodeMajor3F (w : Word) : Except DecodeErr Instr :=
  if fld w 22 4 = 0#4 then .ok (.hintImm (fld w 0 22))
  else
  if fld w 3 23 = 524288#23 then .ok (.hintSched (fld w 2 1) (fld w 0 2))
  else
  if fld w 8 18 = 32768#18 then .ok (.hintMemord (fld w 6 2) (fld w 5 1) (fld w 2 3) (fld w 0 2))
  else
  if fld w 7 19 = 98304#19 then .ok (.hintArith (fld w 6 1) (fld w 5 1) (fld w 4 1) (fld w 3 1) (fld w 2 1) (fld w 0 2))
  else
  if fld w 6 20 = 262144#20 then .ok (.hintStamp (fld w 0 6))
  else
  if fld w 22 4 = 5#4 then .ok (.hintTrace (fld w 0 22))
  else
  if fld w 10 16 = 24576#16 then .ok (.hintRemote (fld w 0 10))
  else
  if (fld w 22 4).toNat ∈ [0, 1, 2, 3, 4, 5, 6] then .error .reservedField
  else .error .reservedFunction

/-- The instruction of a word, or why it is none. Total on any word (17 R301, R304). -/
def decodeWord (w : Word) : Except DecodeErr Instr :=
  match fld w 26 6 with
  | 0x01#6 => decodeMajor01 w
  | 0x02#6 => decodeMajor02 w
  | 0x03#6 => decodeMajor03 w
  | 0x04#6 => decodeMajor04 w
  | 0x05#6 => decodeMajor05 w
  | 0x06#6 => decodeMajor06 w
  | 0x07#6 => decodeMajor07 w
  | 0x08#6 => decodeMajor08 w
  | 0x09#6 => decodeMajor09 w
  | 0x0A#6 => decodeMajor0A w
  | 0x0B#6 => decodeMajor0B w
  | 0x0C#6 => decodeMajor0C w
  | 0x0D#6 => decodeMajor0D w
  | 0x0E#6 => decodeMajor0E w
  | 0x0F#6 => decodeMajor0F w
  | 0x10#6 => decodeMajor10 w
  | 0x11#6 => decodeMajor11 w
  | 0x12#6 => decodeMajor12 w
  | 0x13#6 => decodeMajor13 w
  | 0x14#6 => decodeMajor14 w
  | 0x15#6 => decodeMajor15 w
  | 0x16#6 => decodeMajor16 w
  | 0x17#6 => decodeMajor17 w
  | 0x18#6 => decodeMajor18 w
  | 0x19#6 => decodeMajor19 w
  | 0x1A#6 => decodeMajor1A w
  | 0x1B#6 => decodeMajor1B w
  | 0x1C#6 => decodeMajor1C w
  | 0x1D#6 => decodeMajor1D w
  | 0x1E#6 => decodeMajor1E w
  | 0x1F#6 => decodeMajor1F w
  | 0x20#6 => decodeMajor20 w
  | 0x21#6 => decodeMajor21 w
  | 0x22#6 => decodeMajor22 w
  | 0x23#6 => decodeMajor23 w
  | 0x24#6 => decodeMajor24 w
  | 0x25#6 => decodeMajor25 w
  | 0x26#6 => decodeMajor26 w
  | 0x27#6 => decodeMajor27 w
  | 0x28#6 => decodeMajor28 w
  | 0x29#6 => decodeMajor29 w
  | 0x3F#6 => decodeMajor3F w
  | _ => .error .reservedMajor

/-- The word at the head of a byte list, little-endian (17: one word at a 4-byte aligned address). -/
def leWord (b0 b1 b2 b3 : Byte) : Word := b3 ++ b2 ++ b1 ++ b0

/-- Decodes the instruction at the head of a byte list and returns the bytes that follow it; fewer than four bytes are
no instruction. -/
def decodeBytes : List Byte → Except DecodeErr (Instr × List Byte)
  | b0 :: b1 :: b2 :: b3 :: rest => (decodeWord (leWord b0 b1 b2 b3)).map (fun i => (i, rest))
  | _ => .error .reservedField


/-- A word of format A (17 Table 17.1). -/
def wordA (op sc wd fn d a b : Nat) : Word :=
  BitVec.ofNat 32 (op * 2 ^ 26 + sc * 2 ^ 24 + wd * 2 ^ 22 + fn * 2 ^ 18 + d * 2 ^ 12 + a * 2 ^ 6 + b)

/-- A word of format B (17 Table 17.1). -/
def wordB (op sc wd fn d imm12 : Nat) : Word :=
  BitVec.ofNat 32 (op * 2 ^ 26 + sc * 2 ^ 24 + wd * 2 ^ 22 + fn * 2 ^ 18 + d * 2 ^ 12 + imm12)

/-- A word of format C (17 Table 17.1). -/
def wordC (op sc wd cc s a b : Nat) : Word :=
  BitVec.ofNat 32 (op * 2 ^ 26 + sc * 2 ^ 24 + wd * 2 ^ 22 + cc * 2 ^ 18 + s * 2 ^ 12 + a * 2 ^ 6 + b)

/-- A word of format Cvt (17 Table 17.1). -/
def wordCvt (op sc nv rm sat sr d a cs cd : Nat) : Word :=
  BitVec.ofNat 32 (op * 2 ^ 26 + sc * 2 ^ 24 + nv * 2 ^ 22 + rm * 2 ^ 20 + sat * 2 ^ 19 + sr * 2 ^ 18 + d * 2 ^ 12 + a * 2 ^ 6 + cs * 2 ^ 3 + cd)

/-- A word of format M (17 Table 17.1). -/
def wordM (op sc la wd sp d a s : Nat) : Word :=
  BitVec.ofNat 32 (op * 2 ^ 26 + sc * 2 ^ 24 + la * 2 ^ 20 + wd * 2 ^ 18 + sp * 2 ^ 16 + d * 2 ^ 10 + a * 2 ^ 4 + s)

/-- A word of format MA (17 Table 17.1). -/
def wordMA (op sc la aop d a s : Nat) : Word :=
  BitVec.ofNat 32 (op * 2 ^ 26 + sc * 2 ^ 24 + la * 2 ^ 20 + aop * 2 ^ 16 + d * 2 ^ 10 + a * 2 ^ 4 + s)

/-- A word of format L (17 Table 17.1). -/
def wordL (op sc la h a b fn : Nat) : Word :=
  BitVec.ofNat 32 (op * 2 ^ 26 + sc * 2 ^ 24 + la * 2 ^ 20 + h * 2 ^ 16 + a * 2 ^ 10 + b * 2 ^ 4 + fn)

/-- A word of format T (17 Table 17.1). -/
def wordT (op sc wd fn rc t v s imm4 : Nat) : Word :=
  BitVec.ofNat 32 (op * 2 ^ 26 + sc * 2 ^ 24 + wd * 2 ^ 22 + fn * 2 ^ 20 + rc * 2 ^ 19 + t * 2 ^ 16 + v * 2 ^ 10 + s * 2 ^ 4 + imm4)

/-- A word of format J (17 Table 17.1). -/
def wordJ (op sc fn s off14 : Nat) : Word :=
  BitVec.ofNat 32 (op * 2 ^ 26 + sc * 2 ^ 24 + fn * 2 ^ 20 + s * 2 ^ 14 + off14)

/-- A word of format Q (17 Table 17.1). -/
def wordQ (op sc la q d a fn : Nat) : Word :=
  BitVec.ofNat 32 (op * 2 ^ 26 + sc * 2 ^ 24 + la * 2 ^ 20 + q * 2 ^ 17 + d * 2 ^ 11 + a * 2 ^ 5 + fn)

/-- A word of format X (17 Table 17.1). -/
def wordX (op sc la wd d a s : Nat) : Word :=
  BitVec.ofNat 32 (op * 2 ^ 26 + sc * 2 ^ 24 + la * 2 ^ 20 + wd * 2 ^ 18 + d * 2 ^ 12 + a * 2 ^ 6 + s)

/-- A word of format Hint (17 Table 17.1). -/
def wordHint (op kind payload : Nat) : Word :=
  BitVec.ofNat 32 (op * 2 ^ 26 + kind * 2 ^ 22 + payload)

/-- The word of an instruction, its fields placed as Table 17.1 gives; an event has none. -/
def encodeWord : Instr → Option Word
  | .iadd32 c w d a b => some (wordA 0x01 c.toNat w.toNat 0 d.toNat a.toNat b.toNat)
  | .isub32 c w d a b => some (wordA 0x01 c.toNat w.toNat 1 d.toNat a.toNat b.toNat)
  | .imul32 c w d a b => some (wordA 0x01 c.toNat w.toNat 2 d.toNat a.toNat b.toNat)
  | .imulhI32 c w d a b => some (wordA 0x01 c.toNat w.toNat 3 d.toNat a.toNat b.toNat)
  | .imulhN32 c w d a b => some (wordA 0x01 c.toNat w.toNat 4 d.toNat a.toNat b.toNat)
  | .imad32 c w d a b => some (wordA 0x01 c.toNat w.toNat 5 d.toNat a.toNat b.toNat)
  | .iminI32 c w d a b => some (wordA 0x01 c.toNat w.toNat 6 d.toNat a.toNat b.toNat)
  | .iminN32 c w d a b => some (wordA 0x01 c.toNat w.toNat 7 d.toNat a.toNat b.toNat)
  | .imaxI32 c w d a b => some (wordA 0x01 c.toNat w.toNat 8 d.toNat a.toNat b.toNat)
  | .imaxN32 c w d a b => some (wordA 0x01 c.toNat w.toNat 9 d.toNat a.toNat b.toNat)
  | .iabs32 c w d a => some (wordA 0x01 c.toNat w.toNat 10 d.toNat a.toNat 0)
  | .iaddsI32 c w d a b => some (wordA 0x01 c.toNat w.toNat 11 d.toNat a.toNat b.toNat)
  | .iaddsN32 c w d a b => some (wordA 0x01 c.toNat w.toNat 12 d.toNat a.toNat b.toNat)
  | .isubsI32 c w d a b => some (wordA 0x01 c.toNat w.toNat 13 d.toNat a.toNat b.toNat)
  | .isubsN32 c w d a b => some (wordA 0x01 c.toNat w.toNat 14 d.toNat a.toNat b.toNat)
  | .iadd64 c d a b => some (wordA 0x02 c.toNat 0 0 d.toNat a.toNat b.toNat)
  | .isub64 c d a b => some (wordA 0x02 c.toNat 0 1 d.toNat a.toNat b.toNat)
  | .imul64 c d a b => some (wordA 0x02 c.toNat 0 2 d.toNat a.toNat b.toNat)
  | .imulhI64 c d a b => some (wordA 0x02 c.toNat 0 3 d.toNat a.toNat b.toNat)
  | .imulhN64 c d a b => some (wordA 0x02 c.toNat 0 4 d.toNat a.toNat b.toNat)
  | .imad64 c d a b => some (wordA 0x02 c.toNat 0 5 d.toNat a.toNat b.toNat)
  | .iminI64 c d a b => some (wordA 0x02 c.toNat 0 6 d.toNat a.toNat b.toNat)
  | .iminN64 c d a b => some (wordA 0x02 c.toNat 0 7 d.toNat a.toNat b.toNat)
  | .imaxI64 c d a b => some (wordA 0x02 c.toNat 0 8 d.toNat a.toNat b.toNat)
  | .imaxN64 c d a b => some (wordA 0x02 c.toNat 0 9 d.toNat a.toNat b.toNat)
  | .iabs64 c d a => some (wordA 0x02 c.toNat 0 10 d.toNat a.toNat 0)
  | .iaddsI64 c d a b => some (wordA 0x02 c.toNat 0 11 d.toNat a.toNat b.toNat)
  | .iaddsN64 c d a b => some (wordA 0x02 c.toNat 0 12 d.toNat a.toNat b.toNat)
  | .isubsI64 c d a b => some (wordA 0x02 c.toNat 0 13 d.toNat a.toNat b.toNat)
  | .isubsN64 c d a b => some (wordA 0x02 c.toNat 0 14 d.toNat a.toNat b.toNat)
  | .and c w d a b => some (wordA 0x03 c.toNat w.toNat 0 d.toNat a.toNat b.toNat)
  | .or c w d a b => some (wordA 0x03 c.toNat w.toNat 1 d.toNat a.toNat b.toNat)
  | .xor c w d a b => some (wordA 0x03 c.toNat w.toNat 2 d.toNat a.toNat b.toNat)
  | .andn c w d a b => some (wordA 0x03 c.toNat w.toNat 3 d.toNat a.toNat b.toNat)
  | .shl c d a b => some (wordA 0x03 c.toNat 0 4 d.toNat a.toNat b.toNat)
  | .shrN c d a b => some (wordA 0x03 c.toNat 0 5 d.toNat a.toNat b.toNat)
  | .shrI c d a b => some (wordA 0x03 c.toNat 0 6 d.toNat a.toNat b.toNat)
  | .rot c d a b => some (wordA 0x03 c.toNat 0 7 d.toNat a.toNat b.toNat)
  | .popc c d a => some (wordA 0x03 c.toNat 0 8 d.toNat a.toNat 0)
  | .clz c d a => some (wordA 0x03 c.toNat 0 9 d.toNat a.toNat 0)
  | .brev c d a => some (wordA 0x03 c.toNat 0 10 d.toNat a.toNat 0)
  | .bfxN c d a b => some (wordA 0x03 c.toNat 0 11 d.toNat a.toNat b.toNat)
  | .bfxI c d a b => some (wordA 0x03 c.toNat 0 12 d.toNat a.toNat b.toNat)
  | .bfi c d a b => some (wordA 0x03 c.toNat 0 13 d.toNat a.toNat b.toNat)
  | .vsel c w d a b => some (wordA 0x03 c.toNat w.toNat 14 d.toNat a.toNat b.toNat)
  | .iaddi c w d i => some (wordB 0x04 c.toNat w.toNat 0 d.toNat i.toNat)
  | .andi c w d i => some (wordB 0x04 c.toNat w.toNat 1 d.toNat i.toNat)
  | .ori c w d i => some (wordB 0x04 c.toNat w.toNat 2 d.toNat i.toNat)
  | .xori c w d i => some (wordB 0x04 c.toNat w.toNat 3 d.toNat i.toNat)
  | .shli c w d i => some (wordB 0x04 c.toNat w.toNat 4 d.toNat i.toNat)
  | .shriN c w d i => some (wordB 0x04 c.toNat w.toNat 5 d.toNat i.toNat)
  | .shriI c w d i => some (wordB 0x04 c.toNat w.toNat 6 d.toNat i.toNat)
  | .vmovi c w d i => some (wordB 0x04 c.toNat w.toNat 7 d.toNat i.toNat)
  | .imuli c w d i => some (wordB 0x04 c.toNat w.toNat 8 d.toNat i.toNat)
  | .faddF32 c w d a b => some (wordA 0x05 c.toNat w.toNat 0 d.toNat a.toNat b.toNat)
  | .fsubF32 c w d a b => some (wordA 0x05 c.toNat w.toNat 1 d.toNat a.toNat b.toNat)
  | .fmulF32 c w d a b => some (wordA 0x05 c.toNat w.toNat 2 d.toNat a.toNat b.toNat)
  | .ffmaF32 c w d a b => some (wordA 0x05 c.toNat w.toNat 3 d.toNat a.toNat b.toNat)
  | .fminF32 c w d a b => some (wordA 0x05 c.toNat w.toNat 4 d.toNat a.toNat b.toNat)
  | .fmaxF32 c w d a b => some (wordA 0x05 c.toNat w.toNat 5 d.toNat a.toNat b.toNat)
  | .fabsF32 c w d a => some (wordA 0x05 c.toNat w.toNat 6 d.toNat a.toNat 0)
  | .fnegF32 c w d a => some (wordA 0x05 c.toNat w.toNat 7 d.toNat a.toNat 0)
  | .fscaleF32 c w d a b => some (wordA 0x05 c.toNat w.toNat 8 d.toNat a.toNat b.toNat)
  | .fdivF32 c w d a b => some (wordA 0x05 c.toNat w.toNat 9 d.toNat a.toNat b.toNat)
  | .fclassF32 c w d a => some (wordA 0x05 c.toNat w.toNat 10 d.toNat a.toNat 0)
  | .frndF32 c w d a => some (wordA 0x05 c.toNat w.toNat 11 d.toNat a.toNat 0)
  | .faddF64 c d a b => some (wordA 0x06 c.toNat 0 0 d.toNat a.toNat b.toNat)
  | .fsubF64 c d a b => some (wordA 0x06 c.toNat 0 1 d.toNat a.toNat b.toNat)
  | .fmulF64 c d a b => some (wordA 0x06 c.toNat 0 2 d.toNat a.toNat b.toNat)
  | .ffmaF64 c d a b => some (wordA 0x06 c.toNat 0 3 d.toNat a.toNat b.toNat)
  | .fminF64 c d a b => some (wordA 0x06 c.toNat 0 4 d.toNat a.toNat b.toNat)
  | .fmaxF64 c d a b => some (wordA 0x06 c.toNat 0 5 d.toNat a.toNat b.toNat)
  | .fabsF64 c d a => some (wordA 0x06 c.toNat 0 6 d.toNat a.toNat 0)
  | .fnegF64 c d a => some (wordA 0x06 c.toNat 0 7 d.toNat a.toNat 0)
  | .fscaleF64 c d a b => some (wordA 0x06 c.toNat 0 8 d.toNat a.toNat b.toNat)
  | .fdivF64 c d a b => some (wordA 0x06 c.toNat 0 9 d.toNat a.toNat b.toNat)
  | .fclassF64 c d a => some (wordA 0x06 c.toNat 0 10 d.toNat a.toNat 0)
  | .frndF64 c d a => some (wordA 0x06 c.toNat 0 11 d.toNat a.toNat 0)
  | .faddF16x2 c w d a b => some (wordA 0x07 c.toNat w.toNat 0 d.toNat a.toNat b.toNat)
  | .fsubF16x2 c w d a b => some (wordA 0x07 c.toNat w.toNat 1 d.toNat a.toNat b.toNat)
  | .fmulF16x2 c w d a b => some (wordA 0x07 c.toNat w.toNat 2 d.toNat a.toNat b.toNat)
  | .ffmaF16x2 c w d a b => some (wordA 0x07 c.toNat w.toNat 3 d.toNat a.toNat b.toNat)
  | .fminF16x2 c w d a b => some (wordA 0x07 c.toNat w.toNat 4 d.toNat a.toNat b.toNat)
  | .fmaxF16x2 c w d a b => some (wordA 0x07 c.toNat w.toNat 5 d.toNat a.toNat b.toNat)
  | .fabsF16x2 c w d a => some (wordA 0x07 c.toNat w.toNat 6 d.toNat a.toNat 0)
  | .fnegF16x2 c w d a => some (wordA 0x07 c.toNat w.toNat 7 d.toNat a.toNat 0)
  | .faddBf16x2 c w d a b => some (wordA 0x08 c.toNat w.toNat 0 d.toNat a.toNat b.toNat)
  | .fsubBf16x2 c w d a b => some (wordA 0x08 c.toNat w.toNat 1 d.toNat a.toNat b.toNat)
  | .fmulBf16x2 c w d a b => some (wordA 0x08 c.toNat w.toNat 2 d.toNat a.toNat b.toNat)
  | .ffmaBf16x2 c w d a b => some (wordA 0x08 c.toNat w.toNat 3 d.toNat a.toNat b.toNat)
  | .fminBf16x2 c w d a b => some (wordA 0x08 c.toNat w.toNat 4 d.toNat a.toNat b.toNat)
  | .fmaxBf16x2 c w d a b => some (wordA 0x08 c.toNat w.toNat 5 d.toNat a.toNat b.toNat)
  | .fabsBf16x2 c w d a => some (wordA 0x08 c.toNat w.toNat 6 d.toNat a.toNat 0)
  | .fnegBf16x2 c w d a => some (wordA 0x08 c.toNat w.toNat 7 d.toNat a.toNat 0)
  | .frcp c w d a => some (wordA 0x09 c.toNat w.toNat 0 d.toNat a.toNat 0)
  | .frsq c w d a => some (wordA 0x09 c.toNat w.toNat 1 d.toNat a.toNat 0)
  | .fsqrt c w d a => some (wordA 0x09 c.toNat w.toNat 2 d.toNat a.toNat 0)
  | .fexp2 c w d a => some (wordA 0x09 c.toNat w.toNat 3 d.toNat a.toNat 0)
  | .flog2 c w d a => some (wordA 0x09 c.toNat w.toNat 4 d.toNat a.toNat 0)
  | .fsin c w d a => some (wordA 0x09 c.toNat w.toNat 5 d.toNat a.toNat 0)
  | .fcos c w d a => some (wordA 0x09 c.toNat w.toNat 6 d.toNat a.toNat 0)
  | .ftanh c w d a => some (wordA 0x09 c.toNat w.toNat 7 d.toNat a.toNat 0)
  | .fsigm c w d a => some (wordA 0x09 c.toNat w.toNat 8 d.toNat a.toNat 0)
  | .icmp c w k s a b => some (wordC 0x0A c.toNat w.toNat k.toNat s.toNat a.toNat b.toNat)
  | .fcmpF32 c k s a b => some (wordC 0x0B c.toNat 0 k.toNat s.toNat a.toNat b.toNat)
  | .fcmpF64 c k s a b => some (wordC 0x0C c.toNat 0 k.toNat s.toNat a.toNat b.toNat)
  | .fcvt c n m g e d a x y => some (wordCvt 0x0D c.toNat n.toNat m.toNat g.toNat e.toNat d.toNat a.toNat x.toNat y.toNat)
  | .vpackB c d a b => some (wordA 0x0E c.toNat 2 0 d.toNat a.toNat b.toNat)
  | .vpackH c d a b => some (wordA 0x0E c.toNat 1 1 d.toNat a.toNat b.toNat)
  | .vunpkB c d a b => some (wordA 0x0E c.toNat 2 2 d.toNat a.toNat b.toNat)
  | .vunpkH c d a b => some (wordA 0x0E c.toNat 1 3 d.toNat a.toNat b.toNat)
  | .vmov c w d a => some (wordA 0x0F c.toNat w.toNat 0 d.toNat a.toNat 0)
  | .vmovs c d a => some (wordA 0x0F c.toNat 0 1 d.toNat a.toNat 0)
  | .vget c d a b => some (wordA 0x0F c.toNat 0 2 d.toNat a.toNat b.toNat)
  | .vsetl c d a b => some (wordA 0x0F c.toNat 0 3 d.toNat a.toNat b.toNat)
  | .mfsVector c d a => some (wordA 0x0F c.toNat 0 4 d.toNat a.toNat 0)
  | .xset c d a => some (wordA 0x10 c.toNat 0 0 d.toNat a.toNat 0)
  | .xidx c d a => some (wordA 0x10 c.toNat 0 1 d.toNat a.toNat 0)
  | .xadd c d a => some (wordA 0x10 c.toNat 0 2 d.toNat a.toNat 0)
  | .xget c d a => some (wordA 0x10 c.toNat 0 3 d.toNat a.toNat 0)
  | .trd c r t v s i => some (wordT 0x11 c.toNat 1 0 r.toNat t.toNat v.toNat s.toNat i.toNat)
  | .twr c r t v s i => some (wordT 0x11 c.toNat 1 1 r.toNat t.toNat v.toNat s.toNat i.toNat)
  | .tacc c r t v s i => some (wordT 0x11 c.toNat 1 2 r.toNat t.toNat v.toNat s.toNat i.toNat)
  | .tzero c r t s i => some (wordT 0x11 c.toNat 0 3 r.toNat t.toNat 0 s.toNat i.toNat)
  | .shfl c w d a b => some (wordA 0x12 c.toNat w.toNat 0 d.toNat a.toNat b.toNat)
  | .shflx c w d a b => some (wordA 0x12 c.toNat w.toNat 1 d.toNat a.toNat b.toNat)
  | .bcast c w d a b => some (wordA 0x12 c.toNat w.toNat 2 d.toNat a.toNat b.toNat)
  | .qxch c w d a b => some (wordA 0x12 c.toNat w.toNat 3 d.toNat a.toNat b.toNat)
  | .scan c w d a b => some (wordA 0x12 c.toNat w.toNat 4 d.toNat a.toNat b.toNat)
  | .reduce c w d a b => some (wordA 0x12 c.toNat w.toNat 5 d.toNat a.toNat b.toNat)
  | .vote c d a b => some (wordA 0x12 c.toNat 0 6 d.toNat a.toNat b.toNat)
  | .xshuf l w d a s => some (wordX 0x13 1 l.toNat w.toNat d.toNat a.toNat s.toNat)
  | .sadd c d a b => some (wordA 0x14 c.toNat 0 0 d.toNat a.toNat b.toNat)
  | .ssub c d a b => some (wordA 0x14 c.toNat 0 1 d.toNat a.toNat b.toNat)
  | .smul c d a b => some (wordA 0x14 c.toNat 0 2 d.toNat a.toNat b.toNat)
  | .sand c d a b => some (wordA 0x14 c.toNat 0 3 d.toNat a.toNat b.toNat)
  | .sor c d a b => some (wordA 0x14 c.toNat 0 4 d.toNat a.toNat b.toNat)
  | .sxor c d a b => some (wordA 0x14 c.toNat 0 5 d.toNat a.toNat b.toNat)
  | .sandn c d a b => some (wordA 0x14 c.toNat 0 6 d.toNat a.toNat b.toNat)
  | .sshl c d a b => some (wordA 0x14 c.toNat 0 7 d.toNat a.toNat b.toNat)
  | .sshrN c d a b => some (wordA 0x14 c.toNat 0 8 d.toNat a.toNat b.toNat)
  | .sshrI c d a b => some (wordA 0x14 c.toNat 0 9 d.toNat a.toNat b.toNat)
  | .sminI c d a b => some (wordA 0x14 c.toNat 0 10 d.toNat a.toNat b.toNat)
  | .sminN c d a b => some (wordA 0x14 c.toNat 0 11 d.toNat a.toNat b.toNat)
  | .smaxI c d a b => some (wordA 0x14 c.toNat 0 12 d.toNat a.toNat b.toNat)
  | .smaxN c d a b => some (wordA 0x14 c.toNat 0 13 d.toNat a.toNat b.toNat)
  | .spopc c d a => some (wordA 0x14 c.toNat 0 14 d.toNat a.toNat 0)
  | .sffs c d a => some (wordA 0x14 c.toNat 0 15 d.toNat a.toNat 0)
  | .saddi c d i => some (wordB 0x15 c.toNat 0 0 d.toNat i.toNat)
  | .sandi c d i => some (wordB 0x15 c.toNat 0 1 d.toNat i.toNat)
  | .sori c d i => some (wordB 0x15 c.toNat 0 2 d.toNat i.toNat)
  | .sxori c d i => some (wordB 0x15 c.toNat 0 3 d.toNat i.toNat)
  | .sshli c d i => some (wordB 0x15 c.toNat 0 4 d.toNat i.toNat)
  | .sshriN c d i => some (wordB 0x15 c.toNat 0 5 d.toNat i.toNat)
  | .sshriI c d i => some (wordB 0x15 c.toNat 0 6 d.toNat i.toNat)
  | .smovi c d i => some (wordB 0x15 c.toNat 0 7 d.toNat i.toNat)
  | .smuli c d i => some (wordB 0x15 c.toNat 0 8 d.toNat i.toNat)
  | .scmp c k s a b => some (wordC 0x16 c.toNat 0 k.toNat s.toNat a.toNat b.toNat)
  | .smov c d a => some (wordA 0x17 c.toNat 0 0 d.toNat a.toNat 0)
  | .ssel c d a b => some (wordA 0x17 c.toNat 0 1 d.toNat a.toNat b.toNat)
  | .mfsScalar c d a => some (wordA 0x17 c.toNat 0 2 d.toNat a.toNat 0)
  | .mts c d a => some (wordA 0x17 c.toNat 0 3 d.toNat a.toNat 0)
  | .bra c o => some (wordJ 0x18 c.toNat 0 0 o.toNat)
  | .brz c s o => some (wordJ 0x18 c.toNat 1 s.toNat o.toNat)
  | .brnz c s o => some (wordJ 0x18 c.toNat 2 s.toNat o.toNat)
  | .brx s o => some (wordJ 0x18 1 3 s.toNat o.toNat)
  | .call c s o => some (wordJ 0x18 c.toNat 4 s.toNat o.toNat)
  | .ret c s => some (wordJ 0x18 c.toNat 5 s.toNat 0)
  | .join s => some (wordJ 0x18 1 6 s.toNat 0)
  | .exit c => some (wordJ 0x19 c.toNat 0 0 0)
  | .exitl s => some (wordJ 0x19 0 1 s.toNat 0)
  | .refill s => some (wordJ 0x19 0 2 s.toNat 0)
  | .refillWarp s => some (wordJ 0x19 1 2 s.toNat 0)
  | .refillBlock s => some (wordJ 0x19 3 2 s.toNat 0)
  | .yield c => some (wordJ 0x19 c.toNat 3 0 0)
  | .bar v => some (wordJ 0x19 1 4 0 v.toNat)
  | .bara v => some (wordJ 0x19 1 5 0 v.toNat)
  | .barw v => some (wordJ 0x19 1 6 0 v.toNat)
  | .setdef s n => some (wordJ 0x19 3 7 s.toNat n.toNat)
  | .nop c => some (wordJ 0x19 c.toNat 8 0 0)
  | .bpt => some (wordJ 0x19 1 9 0 0)
  | .trap c n => some (wordJ 0x19 c.toNat 10 0 n.toNat)
  | .grow c s => some (wordJ 0x19 c.toNat 11 s.toNat 0)
  | .region g => some (wordJ 0x19 1 12 0 g.toNat)
  | .ld c l w p d a s => some (wordM 0x1A c.toNat l.toNat w.toNat p.toNat d.toNat a.toNat s.toNat)
  | .st c w p d a s => some (wordM 0x1B c.toNat 0 w.toNat p.toNat d.toNat a.toNat s.toNat)
  | .lds c l w p d a s => some (wordM 0x1C c.toNat l.toNat w.toNat p.toNat d.toNat a.toNat s.toNat)
  | .sts c w p d a s => some (wordM 0x1D c.toNat 0 w.toNat p.toNat d.toNat a.toNat s.toNat)
  | .atom c l u d a s => some (wordMA 0x1E c.toNat l.toNat u.toNat d.toNat a.toNat s.toNat)
  | .atoml c l u d a s => some (wordMA 0x1F c.toNat l.toNat u.toNat d.toNat a.toNat s.toNat)
  | .fence c => some (wordL 0x20 c.toNat 0 0 0 0 0)
  | .pref c a => some (wordL 0x20 c.toNat 0 0 a.toNat 0 1)
  | .disc c a b => some (wordL 0x20 c.toNat 0 0 a.toNat b.toNat 2)
  | .cflush c a b => some (wordL 0x20 c.toNat 0 0 a.toNat b.toNat 3)
  | .qopen c q a => some (wordQ 0x21 c.toNat 0 q.toNat 0 a.toNat 0)
  | .qrsv c l q d => some (wordQ 0x21 c.toNat l.toNat q.toNat d.toNat 0 1)
  | .qcmt c q d a => some (wordQ 0x21 c.toNat 0 q.toNat d.toNat a.toNat 2)
  | .qpop c l q d => some (wordQ 0x21 c.toNat l.toNat q.toNat d.toNat 0 3)
  | .qrel c q a => some (wordQ 0x21 c.toNat 0 q.toNat 0 a.toNat 4)
  | .qstat c l q d => some (wordQ 0x21 c.toNat l.toNat q.toNat d.toNat 0 5)
  | .qstamp c l q d a => some (wordQ 0x21 c.toNat l.toNat q.toNat d.toNat a.toNat 6)
  | .qclose c q => some (wordQ 0x21 c.toNat 0 q.toNat 0 0 7)
  | .cpy c h a => some (wordL 0x22 c.toNat 0 h.toNat a.toNat 0 0)
  | .xfer c h a => some (wordL 0x23 c.toNat 0 h.toNat a.toNat 0 0)
  | .gath c h a => some (wordL 0x24 c.toNat 0 h.toNat a.toNat 0 0)
  | .mmk c h a b => some (wordL 0x25 c.toNat 0 h.toNat a.toNat b.toNat 0)
  | .mmj c h a => some (wordL 0x26 c.toNat 0 h.toNat a.toNat 0 0)
  | .htest c l h a b => some (wordL 0x27 c.toNat l.toNat h.toNat a.toNat b.toNat 0)
  | .hcancel c h => some (wordL 0x27 c.toNat 0 h.toNat 0 0 1)
  | .hmovs c l h a => some (wordL 0x27 c.toNat l.toNat h.toNat a.toNat 0 2)
  | .smovh c h a => some (wordL 0x27 c.toNat 0 h.toNat a.toNat 0 3)
  | .batch c l a => some (wordL 0x27 c.toNat l.toNat 0 a.toNat 0 4)
  | .waitbBatch c a => some (wordL 0x27 c.toNat 0 0 a.toNat 0 5)
  | .waitbHandle c h b => some (wordL 0x27 c.toNat 0 h.toNat 0 b.toNat 5)
  | .npost c a b => some (wordL 0x28 c.toNat 0 0 a.toNat b.toNat 0)
  | .nsend c a => some (wordL 0x28 c.toNat 0 0 a.toNat 0 1)
  | .tcadd c a b => some (wordL 0x28 c.toNat 0 0 a.toNat b.toNat 2)
  | .tcrd c l a b => some (wordL 0x28 c.toNat l.toNat 0 a.toNat b.toNat 3)
  | .tcarm c a b => some (wordL 0x28 c.toNat 0 0 a.toNat b.toNat 4)
  | .tcset c a b => some (wordL 0x28 c.toNat 0 0 a.toNat b.toNat 5)
  | .rft => some (wordL 0x29 1 0 0 0 0 0)
  | .csave h a b => some (wordL 0x29 1 0 h.toNat a.toNat b.toNat 1)
  | .crest h a b => some (wordL 0x29 1 0 h.toNat a.toNat b.toNat 2)
  | .tlbi a b => some (wordL 0x29 1 0 0 a.toNat b.toNat 3)
  | .harv a => some (wordL 0x29 1 0 0 a.toNat 0 4)
  | .haltc h a => some (wordL 0x29 1 0 h.toNat a.toNat 0 5)
  | .hintImm p => some (wordHint 0x3F 0 p.toNat)
  | .hintSched n m => some (wordHint 0x3F 1 (n.toNat * 2 ^ 2 + m.toNat))
  | .hintMemord e u s o => some (wordHint 0x3F 2 (e.toNat * 2 ^ 6 + u.toNat * 2 ^ 5 + s.toNat * 2 ^ 2 + o.toNat))
  | .hintArith g f u t e m => some (wordHint 0x3F 3 (g.toNat * 2 ^ 6 + f.toNat * 2 ^ 5 + u.toNat * 2 ^ 4 + t.toNat * 2 ^ 3 + e.toNat * 2 ^ 2 + m.toNat))
  | .hintStamp s => some (wordHint 0x3F 4 s.toNat)
  | .hintTrace p => some (wordHint 0x3F 5 p.toNat)
  | .hintRemote c => some (wordHint 0x3F 6 c.toNat)
  | .powerOn _ _ _ => none
  | .attestationRequest _ => none
  | .sessionEncapsulation _ => none
  | .sessionIdleTimeout => none
  | .commandDatagram _ _ => none
  | .powerControl _ _ => none
  | .packetFetch => none
  | .packetStart _ => none
  | .launchGrid _ => none
  | .launchAlmanac _ => none
  | .writeMemory _ => none
  | .readMemory _ => none
  | .fencePacket _ => none
  | .signal _ => none
  | .drain _ => none
  | .resize _ => none
  | .createRing _ => none
  | .destroyRing _ => none
  | .restartRing _ => none
  | .queryRing _ => none
  | .registerHandle _ => none
  | .unregisterHandle _ => none
  | .suspendContext _ => none
  | .resumeContext _ => none
  | .setRendezvousTimeout _ => none
  | .cancel _ => none
  | .packetComplete _ => none
  | .fenceTimeout _ => none
  | .blockPlacement _ => none
  | .gangPlacement _ => none
  | .prologueCopyComplete _ _ => none
  | .warpStart _ _ _ => none
  | .blockRetire _ _ => none
  | .stageRecordWrite _ => none
  | .refillWake _ _ _ => none
  | .refillReconverge _ _ _ => none
  | .warpSwap _ _ => none
  | .restageDone _ _ _ => none
  | .leaveGrant _ => none
  | .leaveAgeing _ => none
  | .rendezvousComplete _ _ _ => none
  | .rendezvousTimeout _ _ _ => none
  | .joinComplete _ _ _ => none
  | .joinTimeout _ _ _ _ => none
  | .gangPhaseComplete _ _ => none
  | .grantRequest _ _ => none
  | .grantBlockArrival _ _ => none
  | .grantReturnTimeout _ _ => none
  | .freeReport _ => none
  | .freeReportFlush _ _ => none
  | .commitAtHome _ => none
  | .eosHeader _ => none
  | .retainedSlotRewrite _ _ _ => none
  | .retainedSlotDiscard _ _ => none
  | .spillWrite _ _ => none
  | .spillFetch _ _ => none
  | .mirrorTransfer _ _ _ => none
  | .mirrorFree _ _ => none
  | .peerMatchTimeout _ => none
  | .pipePeerLost _ => none
  | .balancerSample => none
  | .handoffComplete _ => none
  | .handoffTimeout _ => none
  | .deadlockDetected _ => none
  | .fillResponse _ _ => none
  | .dirtyWriteHome _ _ _ => none
  | .homeRead _ _ => none
  | .homeWrite _ _ => none
  | .homeAtomic _ _ => none
  | .ptsSelfExpiry _ => none
  | .rebase => none
  | .multicastForward _ => none
  | .multicastDelivery _ => none
  | .podRemoteAccess _ _ _ _ _ => none
  | .linkRetry _ => none
  | .oplogReplay _ _ _ => none
  | .oplogDeliver _ _ _ => none
  | .oplogFail _ _ _ => none
  | .recordReplay _ _ _ => none
  | .recordDeliver _ _ _ => none
  | .recordFail _ _ _ => none
  | .dirtyFlagTimeout _ _ => none
  | .matrixAccept _ => none
  | .kStep _ => none
  | .epilogue _ => none
  | .matrixFaultResume _ _ => none
  | .engineAccept _ _ => none
  | .copyComplete _ _ => none
  | .gatherGroup _ _ => none
  | .engineFaultResume _ _ => none
  | .engineFaultDeliver _ _ => none
  | .triggerFlit _ => none
  | .vigilStart => none
  | .vigilComplete _ => none
  | .chunkSend _ _ => none
  | .chunkArrival _ _ _ _ => none
  | .chunkAck _ _ => none
  | .nsendArrival _ _ _ => none
  | .xshufPair _ _ _ => none
  | .xshufDataArrival _ _ _ => none
  | .holidayPause _ _ _ => none
  | .holidayStop _ _ _ _ => none
  | .holidayHold _ _ _ => none
  | .holidayResume _ _ _ => none
  | .holidayReply _ _ _ _ _ => none
  | .holidayTimeout _ => none
  | .collectivePeerLost _ => none
  | .faultQueueTailWrite _ _ => none
  | .errorDetected _ _ _ => none
  | .scrub => none
  | .coreStallTimeout _ => none
  | .coreSelfTestFail _ => none
  | .debugStop _ _ => none
  | .debugResume _ _ => none
  | .stallSample _ _ => none
  | .pmcWrap _ _ => none
  | .ptpMessage _ => none
  | .ualinkTimingMessage _ _ => none
  | .powerStateDecision _ => none
  | .powerSample _ _ _ => none
  | .thermalTrip _ => none
  | .moduleWake => none
  | .registerWrite _ _ _ => none
  | .pipePeerMatch _ _ => none
  | .ualinkCompletion _ _ _ => none

/-- The instruction's bytes in memory: its word little-endian; none for an event. -/
def encode (i : Instr) : Option (List Byte) :=
  (encodeWord i).map fun w => [fld w 0 8, fld w 8 8, fld w 16 8, fld w 24 8]

/-- The instruction that the decoder reads from an instruction whose bits are `w`, numbered as the opcode table numbers
them; every bit above `nbits` is zero. -/
def decodeTableWord (nbits w : Nat) : Option Instr :=
  let v : Word := BitVec.ofNat 32 (w % 2 ^ nbits)
  match decodeBytes [fld v 0 8, fld v 8 8, fld v 16 8, fld v 24 8] with
  | .ok (i, _) => some i
  | .error _ => none

end Sys2Proof
end

