-- ==== Sys2Proof/Config.lean ====
section
/-! DEFINITION. What the specification leaves open, as opaque constants: nothing in Lean can evaluate one, so a claim
holds for every value of it. -/

namespace Sys2Proof.Config

open Sys2Proof

/-- DESIGN CHOICE (log 3). The free value drawn when the draw counter shows `n`: every choice that the specification
leaves unspecified (an order, a victim, a value). Safe: unconstrained. -/
opaque freeNat : Nat → Nat

/-- DESIGN CHOICE (log 4). The result of a transcendental function (its FN in major 0x09) on an input, with the flush
setting: "a fixed function of the input bits and of ftz" (07 R145) that the specification bounds and does not give. -/
opaque transcendental : Nat → Word → Bool → Word

/-- DESIGN CHOICE (log 5). SHAKE256 with 512 bits of output (16 R292, R293): a published standard that the specification
names and does not restate. Safe: unconstrained. -/
opaque shake256 : List Byte → BitVec 512

/-- DESIGN CHOICE (log 5). KMAC256 of key and message, 32 bytes, customisation "SORREK6" (16 R294). -/
opaque kmac256 : List Byte → List Byte → BitVec 256

/-- DESIGN CHOICE (log 5). Whether an ML-DSA-65 signature verifies: key, message, signature (16 R292). -/
opaque mldsaVerify : List Byte → List Byte → List Byte → Bool

/-- DESIGN CHOICE (log 5). An ML-DSA-65 signature with the device identity key (16 R293). -/
opaque mldsaSign : List Byte → List Byte

/-- DESIGN CHOICE (log 5). The shared secret that a ciphertext decapsulates to, for the n-th key (16 R293). -/
opaque mlkemDecap : Nat → List Byte → BitVec 256

/-- DESIGN CHOICE (log 5). The n-th fresh ML-KEM-768 encapsulation key (16 R293). -/
opaque mlkemKey : Nat → List Byte

/-- DESIGN CHOICE (log 5). The n-th session number that the device chooses (16 R293). -/
opaque sessionNumber : Nat → BitVec 32

/-- UNVERIFIED (log 5). The digest fused at manufacture (16 R292). -/
opaque fusedDigest : BitVec 512

/-- UNVERIFIED (log 5). The device identity certificate (16 R293). -/
opaque certificate : List Byte

/-- DESIGN CHOICE (log 18). The descriptor with which firmware creates ring 0 when the n-th session is established (04 R79):
base, lsize, prio, erec, asid. -/
opaque ring0 : Nat → Nat × Nat × Nat × Nat × Nat

end Sys2Proof.Config
end

