-- ==== Sys2Proof/Machine/Bits.lean ====
section
/-! DEFINITION. Bit, byte and list helpers of the meanings (spec 00 R3, R4; 17 R321). -/

namespace Sys2Proof.Machine

open Sys2Proof

/-- Bits `[lo + n - 1 : lo]` of a value, as a number (00 R3). -/
def bits {w : Nat} (x : BitVec w) (lo n : Nat) : Nat := x.toNat / 2 ^ lo % 2 ^ n

/-- Bit `i` of a value. -/
def bit {w : Nat} (x : BitVec w) (i : Nat) : Bool := x.getLsbD i

/-- A truth value as a number. -/
def b2n (b : Bool) : Nat := if b then 1 else 0

/-- The two's-complement value of the low `n` bits of a number (17 R321 sext). -/
def sextInt (n x : Nat) : Int :=
  let y := x % 2 ^ n
  if n = 0 then 0 else if y < 2 ^ (n - 1) then (y : Int) else (y : Int) - 2 ^ n

/-- Clamps an integer to an interval. -/
def clamp (lo hi x : Int) : Int := if x < lo then lo else if hi < x then hi else x

/-- An integer modulo 2^w. -/
def ofInt (w : Nat) (x : Int) : BitVec w := BitVec.ofInt w x

/-- Number of bits set. -/
def popCount {w : Nat} (x : BitVec w) : Nat := (List.range w).foldl (fun n i => n + b2n (x.getLsbD i)) 0

/-- Position of the highest bit set below `n`, if any. -/
def topBit (x : Nat) : Nat → Option Nat
  | 0 => none
  | n + 1 => if x.testBit n then some n else topBit x n

/-- Position of the lowest bit set at or above `i`, searching `n` positions. -/
def lowBit (x : Nat) (i : Nat) : Nat → Option Nat
  | 0 => none
  | n + 1 => if x.testBit i then some i else lowBit x (i + 1) n

/-- Leading zeros of a `w`-bit value. -/
def leadZeros {w : Nat} (x : BitVec w) : Nat :=
  match topBit x.toNat w with
  | none => w
  | some i => w - 1 - i

/-- The bits in reverse order. -/
def reverseBits {w : Nat} (x : BitVec w) : BitVec w :=
  (List.range w).foldl (fun (r : BitVec w) i => if x.getLsbD i then r ||| (1#w <<< (w - 1 - i)) else r) 0#w

/-- Floor of the base-2 logarithm of a positive number below 2^n (0 for 0). -/
def log2Nat (x n : Nat) : Nat := (topBit x n).getD 0

/-- The mask of one lane. -/
def laneBit (l : Nat) : Mask := 1#64 <<< l

/-- The lanes of a mask in ascending order. -/
def maskLanes (m : Mask) : List Nat := lanes.filter m.getLsbD

/-- The mask of a list of lanes. -/
def lanesMask (ls : List Nat) : Mask := ls.foldl (fun m l => m ||| laneBit l) 0#64

/-- The four lanes of quad `k` (02 Table 2.1). -/
def quadMask (k : Nat) : Mask := 0xF#64 <<< (4 * k)

/-- The lowest lane of a mask. -/
def lowestLane (m : Mask) : Option Nat := lowBit m.toNat 0 64

/-- The little-endian bytes of a number (00 R4). -/
def toBytes (n x : Nat) : List Byte := (List.range n).map fun i => BitVec.ofNat 8 (x / 2 ^ (8 * i))

/-- The number that little-endian bytes hold (00 R4). -/
def ofBytes : List Byte → Nat
  | [] => 0
  | b :: r => b.toNat + 256 * ofBytes r

/-- The 64-bit words of a byte list, little-endian; `n` words. -/
def wordsOf (n : Nat) (bs : List Byte) : List DWord :=
  (List.range n).map fun i => BitVec.ofNat 64 (ofBytes ((bs.drop (8 * i)).take 8))

/-- The bytes of a list of 64-bit words. -/
def bytesOf (ws : List DWord) : List Byte := ws.flatMap fun w => toBytes 8 w.toNat

/-- Word `i` of a list (zero past its end). -/
def wordAt (ws : List DWord) (i : Nat) : DWord := ws.getD i 0#64

/-- Field `[lo + n - 1 : lo]` of word `i` of a record. -/
def recField (ws : List DWord) (i lo n : Nat) : Nat := bits (wordAt ws i) lo n

/-- Replaces element `i` of a list. -/
def setAt {α : Type} (l : List α) (i : Nat) (a : α) : List α := l.set i a

/-- Changes element `i` of a list. -/
def modAt {α : Type} (l : List α) (i : Nat) (f : α → α) : List α := l.modify i f

/-- The first element of a list that meets a condition, with its index. -/
def findIdx {α : Type} (p : α → Bool) (l : List α) : Option (Nat × α) :=
  match (l.zipIdx).find? (fun q => p q.1) with
  | some (a, i) => some (i, a)
  | none => none

/-- Changes the entry at a key of a table, if there is one. -/
def modKey {α : Type} (t : Tab α) (k : Nat) (f : α → α) : Tab α := t.map fun p => if p.1 = k then (p.1, f p.2) else p

/-- Modular comparison: `a` lies at or after `b` in a window of 2^(w-1) (03 R51). -/
def afterMod (w a b : Nat) : Bool := (a + 2 ^ w - b % 2 ^ w) % 2 ^ w < 2 ^ (w - 1)

/-- CRC-32C (Castagnoli), reflected, of one byte (03 Table 3.5). -/
def crcByte (crc : BitVec 32) (b : Byte) : BitVec 32 :=
  (List.range 8).foldl (fun (c : BitVec 32) _ => if c.getLsbD 0 then (c >>> 1) ^^^ 0x82F63B78#32 else c >>> 1)
    (crc ^^^ b.setWidth 32)

/-- CRC-32C of a byte list (03 Table 3.5). -/
def crc32c (bs : List Byte) : BitVec 32 := ~~~ (bs.foldl crcByte 0xFFFFFFFF#32)

end Sys2Proof.Machine
end

