-- ==== Sys2Proof/Machine/State.lean ====
section
/-! DEFINITION. The state of the device as plain data, and the state right after module reset.
Each field's docstring ends with [width; file and rule; reset value]. `DC 0` says that the specification states no
reset value and the model takes zero (assumption log entry 1). A sparse table (`Tab`) lists the entries that differ
from their initial state. -/

namespace Sys2Proof.Machine

open Sys2Proof

/-- A register named by a field of an instruction, as the issue contract sees it (06 R127, R128). -/
inductive Reg where
  /-- vector register -/
  | v (n : Nat)
  /-- scalar register -/
  | s (n : Nat)
  /-- index register -/
  | x (n : Nat)
deriving DecidableEq, Repr

/-- What a pending long-latency destination still waits for (06 R128). -/
inductive Pend where
  /-- nothing: the result has been written -/
  | done
  /-- the lanes of an operand-log entry: quarter and entry -/
  | log (q j : Nat)
  /-- an XSHUF exchange -/
  | xshuf
  /-- a request to another device, by its tag -/
  | remote (tag : Nat)
deriving DecidableEq, Repr

/-- A lookahead window (06 R128). -/
structure Window where
  /-- Pending destinations. [list; 06 R128; none] -/
  regs : List Reg
  /-- Positions of the window not yet passed. [4; 06 R128; 0] -/
  left : Nat
  /-- What the result waits for. [-; 06 R128; -] -/
  pend : Pend
  /-- The producer's pc, blamed in stall samples. [56; 06 R129; DC 0] -/
  pc : BitVec 64
deriving DecidableEq, Repr

/-- Why a split did not issue at its last turn: the stall reasons of 15 Table 15.4. -/
inductive Stall where
  /-- it issued -/
  | issued
  /-- ready, not chosen -/
  | ready
  /-- QPOP or a blocked REFILL on an empty pipe -/
  | emptyPipe
  /-- QRSV on a full pipe -/
  | fullPipe
  /-- a leave request -/
  | leave
  /-- a set or block rendezvous, a barrier or an RFT wait -/
  | rendezvous
  /-- WAITB on a batch -/
  | batch
  /-- WAITB on a handle -/
  | handle
  /-- operand-buffer miss -/
  | operandMiss
  /-- distance interlock -/
  | distance
  /-- lookahead boundary -/
  | lookahead
  /-- memory -/
  | memory
  /-- matrix queue full -/
  | matrixFull
  /-- engine queue full -/
  | engineFull
  /-- JOIN wait -/
  | joinWait
  /-- fault service -/
  | faultService
  /-- restaging -/
  | restaging
deriving DecidableEq, Repr

/-- A rendezvous that has completed and whose instruction issues again without a new rendezvous (06 R126). -/
structure Reissue where
  /-- Address of the instruction. [56; 06 R126; -] -/
  pc : BitVec 64
  /-- Members that took part. [32; 06 R126; -] -/
  members : List Nat
  /-- The lead of that instance. [5; 06 R117; -] -/
  lead : Nat
  /-- Lanes of each member that are still to be performed (empty: all). [64 each; 06 R126, 10 R201; -] -/
  todo : Tab Mask
  /-- Lanes whose own trap waits for the served lanes: member, lane, cause, address. [-; 19 R376; none] -/
  deferred : List (Nat × Nat × Nat × Nat)
deriving DecidableEq, Repr

/-- A split-table entry (06 Table 6.3), with what the issue contract keeps for each split. -/
structure Split where
  /-- Lanes of the split. [64; 06 R118; all ones in slot 0] -/
  lanes : Mask
  /-- Execute mask. [64; 06 R118; live or helper in slot 0] -/
  em : Mask
  /-- Next instruction. [56; 06 R118; kernel entry] -/
  pc : BitVec 64
  /-- Entry holds a split. [1; 06 R118; 1 in slot 0] -/
  valid : Bool
  /-- Divergence depth. [3; 06 R118; 0] -/
  depth : Nat
  /-- Waiting at a JOIN. [1; 06 R118; 0] -/
  jwait : Bool
  /-- Waiting at a set or block rendezvous. [1; 06 R118; 0] -/
  rwait : Bool
  /-- JOIN cycles remaining, 0 for no timeout. [32; 06 R118; 0] -/
  jtimer : BitVec 32
  /-- The JOIN timer has run out: 0 no, 1 in this cycle, more in an earlier one. MODEL'S OWN. [-; 06 R121; 0] -/
  jdue : Nat
  /-- Path signature. [64; 15 R289; 0] -/
  sig : BitVec 64
  /-- Hint words issued and not yet followed by their instruction, oldest first. [2 words; 17 R311; none] -/
  hints : List Word
  /-- The split arrived at its pc by a transfer of control or a resumption. [1; 17 R312; 0] -/
  landed : Bool
  /-- Distance checker: the last five instructions' destinations and class distances, newest first. [5 entries; 06 R127; empty] -/
  hist : List (List (Reg × Nat))
  /-- Open lookahead windows. [list; 06 R128; empty] -/
  wins : List Window
  /-- Why the split last did not issue. [8; 15 Table 15.4; 0] -/
  stall : Stall
  /-- Core cycle of the split's last issue. [64; 06 R120; 0] -/
  lastIssue : Nat
  /-- Instruction to issue again without a rendezvous, or for the unfinished lanes only. [-; 06 R126, 10 R202; none] -/
  redo : Option Reissue
  /-- Waits for the answer to a fault record with nolog = 1. [1; 10 R201, R206; 0] -/
  faultWait : Bool
  /-- Tags of the split's pod-remote accesses, those before a BRX or a merge included. MODEL'S OWN. [-; 09 R180, R192; none] -/
  rem : List Nat
  /-- Lease time of what the split's relaxed reads outside the caches have seen, for a later acquire fence. MODEL'S OWN.
  [20; 09 R180; 0] -/
  seen : BitVec 20
  /-- Accesses that a TLBI of the split waits for, once its entries are dropped. MODEL'S OWN. [-; 10 R200; none] -/
  await : Option (List Nat)
  /-- Operand delivery begun for the instruction at an address, and the core cycle at which it ends. MODEL'S OWN. [56 + 64; 05 R103; none] -/
  operands : Option (BitVec 64 × Nat)
deriving DecidableEq, Repr

/-- A handle register (12 R234): the operation entry it names, with the entry's serial. -/
inductive Handle where
  /-- empty -/
  | empty
  /-- names an operation entry -/
  | op (entry : Nat) (serial : BitVec 32)
  /-- complete with status 0x10B "stale handle" (12 R236) -/
  | stale
deriving DecidableEq, Repr

/-- A bound stream register (03 R58, R60). -/
structure Stream where
  /-- Pipe key: (asid × 16 + almanac) × 128 + pipe index. [21; 03 R60; -] -/
  pipe : Nat
  /-- Bound as consumer. [1; 03 R60; -] -/
  consumer : Bool
deriving DecidableEq, Repr

/-- An XSHUF that waits for its partner or for its data (13 R257). -/
structure XWait where
  /-- Split slot that issued it. [3; 13 R257; -] -/
  split : Nat
  /-- Partner's gang position. [6; 13 R257; -] -/
  pos : Nat
  /-- Partner's warp number. [5; 13 R257; -] -/
  pwarp : Nat
  /-- This side's rotation. [6; 13 R257; -] -/
  rot : Nat
  /-- Width in registers. [4; 13 R257; -] -/
  width : Nat
  /-- Destination field. [6; 13 R257; -] -/
  dst : Nat
  /-- Captured source registers. [width × 2048; 13 R257; -] -/
  data : List Vec
  /-- Active lanes at issue. [64; 13 R257; -] -/
  act : Mask
  /-- Lanes that resolved to a register number, with that number (indexed destinations). [-; 05 R100; -] -/
  place : List Nat
  /-- Core cycle of issue, for the rendezvous timeout. [64; 13 R257; -] -/
  since : Nat
  /-- The context's timeout at issue. [32; 13 R257, 04 R84; -] -/
  limit : Nat
  /-- Data of the partner, once paired, with the partner's active lanes. [-; 13 R257; none] -/
  got : Option (List Vec × Mask)
  /-- Address of the XSHUF word. [56; 13 R257; -] -/
  pc : BitVec 64
  /-- LA of the XSHUF, for the record's post field. [4; 14 Table 14.2; -] -/
  la : Nat
deriving DecidableEq, Repr

/-- A warp of a resident block. -/
structure Warp where
  /-- The warp has started (initial items given). [1; 02 R26; 0] -/
  started : Bool
  /-- The warp has retired. [1; 02 R44; 0] -/
  retired : Bool
  /-- Quarter that holds the warp. [2; 04 R90; -] -/
  quarter : Nat
  /-- Placement count. [32; 04 R91; -] -/
  order : BitVec 32
  /-- In the quarter's hot set. [1; 04 R91; 0] -/
  hot : Bool
  /-- Restaging of the region in progress. [1; 04 R92; 0] -/
  restaging : Bool
  /-- First cycle in which the warp may issue again. [64; 04 R91; 0] -/
  mayAt : Nat
  /-- Cycles for which the warp has been ready, hot and not issued. [-; 04 R91; 0] -/
  idle : Nat
  /-- Core cycle at which the warp started or entered the hot set. [64; 04 R92; 0] -/
  waitSince : Nat
  /-- Core cycle of the warp's last issue. [64; 04 R91; 0] -/
  lastIssue : Nat
  /-- Cycle until which a SCHED hint keeps the warp hot. [64; 17 Table 17.7; 0] -/
  keepUntil : Nat
  /-- A SCHED hint or a YIELD made the warp the first swap candidate. [1; 17 Table 17.7, 22 R441; 0] -/
  swapFirst : Bool
  /-- A YIELD has issued since and nothing else: not boosted, and a swap candidate without a wait. [1; 22 R441; 0] -/
  yielded : Bool
  /-- Current region: group mask. [14; 05 R102; 0] -/
  region : BitVec 14
  /-- Groups that the slice holds: those of the region whose copy has ended. [14; 05 R102; 0] -/
  staged : BitVec 14
  /-- Lanes holding an item. [64; 02 Table 2.5; per R26] -/
  live : Mask
  /-- Helper lanes. [64; 02 Table 2.5; per R34] -/
  helper : Mask
  /-- REFILLs that assigned an item. [32; 02 Table 2.5; 0] -/
  refills : BitVec 32
  /-- Kalends stamp. [64; 02 Table 2.5, 03 R65; 0] -/
  stamp : DWord
  /-- Item, low half, per lane. [64 × 32; 02 Table 2.5; 0 until assigned] -/
  item : Vec
  /-- Item, high half, per lane. [64 × 32; 02 Table 2.5; 0 until assigned] -/
  itemhi : Vec
  /-- Refill generation per lane. [64 × 32; 02 Table 2.5; 0] -/
  itemage : Vec
  /-- Stochastic-rounding seed per lane. [64 × 32; 05 Table 5.4; lane + 1] -/
  rseed : Vec
  /-- fpm. [8; 07 Table 7.3; 0] -/
  fpm : BitVec 8
  /-- fpflags. [8; 07 Table 7.4; 0] -/
  fpflags : BitVec 8
  /-- Batch counter. [16; 12 R238; 0] -/
  batch : BitVec 16
  /-- Largest lease time of its batched operations whose entries are free again. [20; 12 R239, 08 R164; 0] -/
  ets : BitVec 20
  /-- Split table. [8 entries; 06 Table 6.3; slot 0 valid] -/
  splits : List Split
  /-- Vector registers of the allocation. [(D + I) × 2048; 05 R96, R97; 0] -/
  vregs : List Vec
  /-- Scalar registers s0–s63. [64 × 64; 05 R97; 0] -/
  sregs : List DWord
  /-- Index registers x0–x7, per lane. [8 × 64 × 32; 05 R99; 0] -/
  xregs : List Vec
  /-- Handle registers h0–h15. [16; 05 R97; empty] -/
  hregs : List Handle
  /-- Stream registers q0–q7. [8; 03 R58; unbound] -/
  qregs : List (Option Stream)
  /-- Trap context tctx0–tctx7. [8 × 64; 05 Table 5.4; 0] -/
  tctx : List DWord
  /-- The frozen split table while the warp is in a handler, with the trapping slot. [-; 14 R267; none] -/
  frozen : Option (List Split × Nat)
  /-- Members whose RFT the warp waits for, after its own. [32; 14 R269; none] -/
  rftWait : Bool
  /-- Core cycle at which that wait began. [64; 14 R269; DC 0] -/
  rftSince : Nat
  /-- The context's timeout when that wait began. [32; 14 R269, 04 R84; DC 0] -/
  rftLimit : Nat
  /-- Members of the trap's instance (empty: the warp trapped alone). [32; 06 R126; empty] -/
  trapMembers : List Nat
  /-- A trap record is with firmware and unanswered, or waits for the queue. [1; 14 R266; 0] -/
  suspended : Bool
  /-- Waiting XSHUF. [-; 13 R257; none] -/
  xshuf : Option XWait
  /-- Restored by CREST: its signature record has restarted set. [1; 15 R289; 0] -/
  restarted : Bool
  /-- Waits at a REFILL that found nothing pending. [1; 02 R33; 0] -/
  refillBlocked : Bool
  /-- Reconvergence wait of a REFILL: core cycle at which it began. [-; 02 R31; none] -/
  refillSince : Option Nat
  /-- The context's timeout when that wait began. [32; 02 R31, 04 R84; DC 0] -/
  refillLimit : Nat
  /-- Numbers this warp holds reserved: pipe key and sequence number. [-; 03 R53; none] -/
  reserved : List (Nat × Nat)
  /-- Pipe slots held as items: pipe key, sequence number and lane mask. [-; 02 R27; none] -/
  pipeItems : List (Nat × Nat × Mask)
  /-- An EXIT that has issued and waits: its split slot and pc. [3 + 56; 18 R352; none] -/
  exiting : Option (Nat × BitVec 64)
deriving DecidableEq, Repr

/-- An open rendezvous or barrier instance (06 R124, 18 R331). -/
structure Inst where
  /-- Address of the instruction. [56; 06 R124; -] -/
  pc : BitVec 64
  /-- Members that have arrived. [32; 06 R124; -] -/
  arrived : List Nat
  /-- Cycles counted since the opening. [32; 06 R125; 0] -/
  elapsed : Nat
  /-- The context's timeout at the opening. [32; 06 R125, 04 R84; -] -/
  limit : Nat
  /-- The instance is a barrier (BAR or BARA), with its level. [2; 18 R331; none] -/
  bar : Option Bool
  /-- Its instruction is BARA: a warp goes on when it has arrived. [1; 18 R331; 0] -/
  goOn : Bool
  /-- Level 1: the block is block-arrived. [1; 18 R332; 0] -/
  blockArrived : Bool
deriving DecidableEq, Repr

/-- What a kernel object's header declares (17 Table 17.11). -/
structure Kernel where
  /-- Address of the object. [56; 17 R318; -] -/
  addr : BitVec 64
  /-- Direct registers D. [8; 17 Table 17.11; -] -/
  d : Nat
  /-- Indexed registers I. [8; 17 Table 17.11; -] -/
  i : Nat
  /-- Tiles t. [4; 17 Table 17.11; -] -/
  t : Nat
  /-- Item granularity: 0 lane, 1 warp, 2 block. [2; 17 Table 17.11; -] -/
  items : Nat
  /-- Eligible lanes. [7; 17 Table 17.11; -] -/
  lanesN : Nat
  /-- `.replayable`. [1; 17 Table 17.11; -] -/
  replayable : Bool
  /-- `.inbound` given. [1; 17 Table 17.11; -] -/
  inbound : Bool
  /-- Trap word. [64; 14 Table 14.3; 0] -/
  trap : DWord
  /-- Word offset of the REFILL from the entry. [24; 17 Table 17.11; -] -/
  refill : Nat
  /-- Scratch bytes. [20; 17 Table 17.11; -] -/
  scratch : Nat
  /-- Gang blocks. [6 + 1; 17 Table 17.11; -] -/
  gsize : Nat
  /-- `far` class. [1; 17 Table 17.11; -] -/
  far : Bool
  /-- Warps per block. [5 + 1; 17 Table 17.11; -] -/
  warps : Nat
  /-- Inbound registers. [64; 17 Table 17.11; -] -/
  inregs : BitVec 64
  /-- Inbound tiles. [8; 17 Table 17.11; -] -/
  intiles : BitVec 8
  /-- Code bytes. [32; 17 Table 17.11; -] -/
  code : Nat
deriving DecidableEq, Repr

/-- A resident block: one core-local slot. -/
structure Block where
  /-- Context. [10; 10 R194; -] -/
  asid : Nat
  /-- Grid key. [-; 02 R45; -] -/
  grid : Nat
  /-- Special `block`. [32; 05 Table 5.4; -] -/
  number : BitVec 32
  /-- Gang number. [32; 05 Table 5.4; -] -/
  gang : BitVec 32
  /-- Position in the gang. [6; 05 Table 5.4; -] -/
  gpos : Nat
  /-- Blocks of the gang. [6 + 1; 05 Table 5.4; -] -/
  gsize : Nat
  /-- The gang spans dies. [1; 02 R42; -] -/
  spans : Bool
  /-- Kernel. [-; 17 R318; -] -/
  kernel : Kernel
  /-- Warps. [1 to 32; 02 R40; -] -/
  warps : List Warp
  /-- Sets 0–7: member warps (empty: undefined). [8 × 32; 02 R22; empty] -/
  sets : List (List Nat)
  /-- Open set instances, by set number. [8; 06 R124; none] -/
  setInst : Tab Inst
  /-- Open block-scope or barrier instance. [1; 06 R124; none] -/
  blockInst : Option Inst
  /-- gcount, block phases. [32; 05 Table 5.4; 0] -/
  gcountB : BitVec 32
  /-- gcount, gang phases. [32; 05 Table 5.4; 0] -/
  gcountG : BitVec 32
  /-- First physical tile. [3; 05 R108; -] -/
  tileBase : Nat
  /-- Scratch allocation base in the core's scratch, bytes. [19; 08 R158; -] -/
  scrBase : Nat
  /-- Scratch allocation size, bytes. [20; 08 R158; -] -/
  scrSize : Nat
  /-- Warp registers of the allocation. [13; 05 R96; -] -/
  regCount : Nat
  /-- Slots held through QPOP: pipe key and sequence number. [-; 03 R60; none] -/
  held : List (Nat × Nat)
  /-- Block item held by the members (block granularity). [64; 02 R25; none] -/
  blockItem : Option DWord
  /-- Items marked by a commit: their 64-bit values. [-; 14 R277; none] -/
  marked : List DWord
  /-- Prologue copies not yet complete: operation entries. [4; 02 R43; none] -/
  prologue : List Nat
  /-- The warps may start (prologue copies complete). [1; 02 R43; 0] -/
  ready : Bool
  /-- Stopped by debug. [1; 15 R283; 0] -/
  stopped : Bool
  /-- A stop with attach clear asked by a debugger, or pre-emption: the block issues nothing. [1; 14 R272; 0] -/
  frozen : Bool
  /-- Supervisor kernel. [1; 14 R264; 0] -/
  supervisor : Bool
  /-- Pre-emption has been asked, and waits for operations that run on or for results of other devices. [1; 14 R272, R273; 0] -/
  saving : Bool
  /-- Restored, and waits for the rest of its gang. [1; 18 R350; 0] -/
  restored : Bool
deriving DecidableEq, Repr

/-- An L1D line (08 Table 8.6). -/
structure L1Line where
  /-- Words that hold data. [32; 08 Table 8.6; 0] -/
  valid : BitVec 32
  /-- Words written here and not yet home. [32; 08 Table 8.6; 0] -/
  dirty : BitVec 32
  /-- Lease end of the clean words. [20; 08 Table 8.6; 0] -/
  lrts : BitVec 20
  /-- The 128 bytes. [1024; 08 R159; -] -/
  data : Line
  /-- Core cycle of the oldest store not yet home. [64; 09 R184; 0] -/
  since : Nat
deriving DecidableEq, Repr

/-- A commutative-update partial of one line (08 R166). -/
structure Partial where
  /-- Line address PA[51:7]. [45; 08 R166; -] -/
  line : Nat
  /-- Operator, as AOP number. [4; 08 Table 8.10; -] -/
  op : Nat
  /-- Narrowest `.cu` scope of its updates. [3; 08 R167; -] -/
  scope : Nat
  /-- Elements updated: element index in the line and its partial. [32 each; 08 Table 8.10; none] -/
  elems : Tab Word
deriving DecidableEq, Repr

/-- A TLB entry (10 R198, R199). -/
structure TlbEntry where
  /-- Context. [10; 10 R194; -] -/
  asid : Nat
  /-- Page size, log2. [6; 10 Table 10.2; -] -/
  lg : Nat
  /-- Virtual page base. [56; 10 R196; -] -/
  va : Nat
  /-- Leaf entry. [64; 10 Table 10.3; -] -/
  pte : BitVec 64
  /-- Physical address of the leaf entry. [52; 10 R199; -] -/
  pteAddr : Nat
  /-- Gathered dirty flag. [1; 10 R199; 0] -/
  dirtied : Bool
  /-- Kalends time at which the flag was set. [64; 10 R199; 0] -/
  dirtySince : Nat
deriving DecidableEq, Repr

/-- The request that a miss-status entry tracks (08 R173). -/
inductive Miss where
  /-- a merging fill asked for a context and not yet served at home -/
  | fill (asid : Nat)
  /-- a merging fill served at home: the line and its lease fields on their way back, for a context -/
  | back (data : Line) (wts rts : BitVec 20) (asid : Nat)
  /-- a masked write home on its way: the context that counts it, words and data -/
  | write (asid : Nat) (words : BitVec 32) (data : Line)
  /-- an atomic on its way: context, operator, byte of the line, operand -/
  | atomic (asid op o : Nat) (x : DWord)
deriving DecidableEq, Repr

/-- An operand-log entry (10 Table 10.5), with the warp it serves. -/
structure LogEntry where
  /-- Faulting instruction word. [32; 10 Table 10.5; 0] -/
  word : Word
  /-- Preceding hint words. [0–2 words; 10 Table 10.5; none] -/
  hints : List Word
  /-- Cause. [9; 10 Table 10.5; 0] -/
  cause : Nat
  /-- rs(S) at issue. [64; 10 Table 10.5; 0] -/
  base : DWord
  /-- Unfinished lanes. [64; 10 Table 10.5; 0] -/
  lanes : Mask
  /-- rv(A) per lane. [64 × 32; 10 Table 10.5; 0] -/
  addr : Vec
  /-- Store or atomic operands. [up to 8 × 2048; 10 Table 10.5; 0] -/
  data : List Vec
  /-- Busy: a replay runs. [1; 10 R202; 0] -/
  busy : Bool
  /-- Block slot, warp and split that wait. [-; 10 R201; -] -/
  slot : Nat
  /-- Warp number. [5; 10 R201; -] -/
  warp : Nat
  /-- Split slot. [3; 14 Table 14.7; -] -/
  split : Nat
  /-- Address of the instruction. [56; 10 Table 10.6; -] -/
  pc : BitVec 64
  /-- Register numbers of an indexed destination per lane (empty: direct). [-; 05 R100; -] -/
  place : List Nat
  /-- Lanes whose own trap is deferred to the answer: member, lane, cause, address. [-; 14 R271, 19 R376; none] -/
  deferred : List (Nat × Nat × Nat × Nat)
  /-- Members of the instruction's instance (empty: it issued alone), its lead, and its scope. [32; 06 R126; -] -/
  members : List Nat
  /-- Lead of that instance. [5; 06 R117; -] -/
  lead : Nat
deriving DecidableEq, Repr

/-- What kind of operation an operation entry runs. -/
inductive OpKind where
  /-- CPY -/
  | copy
  /-- GATH, on gather engine 0 or 1 -/
  | gather (engine : Nat)
  /-- XFER -/
  | xfer
  /-- MMK or MMJ -/
  | matrix
  /-- HALTC -/
  | halt
  /-- CSAVE -/
  | csave
  /-- CREST -/
  | crest
deriving DecidableEq, Repr

/-- An operation entry of a core (12 R226). -/
structure OpEntry where
  /-- Kind. [-; 12 R226; -] -/
  kind : OpKind
  /-- Serial. [32; 12 R236; -] -/
  serial : BitVec 32
  /-- Issuing block slot. [7; 12 R236; -] -/
  slot : Nat
  /-- Issuing warp (0x1F: a prologue copy). [5; 12 R226; -] -/
  warp : Nat
  /-- Issuing instruction. [56; 10 Table 10.6; -] -/
  pc : BitVec 64
  /-- Context. [10; 09 Table 9.1; -] -/
  asid : Nat
  /-- Record address and space. [58; 12 R227; -] -/
  raddr : DWord
  /-- Second operand word (CSAVE, CREST). [64; 18 Table 18.5; -] -/
  raddr2 : DWord
  /-- Record as read, in 64-bit words. [up to 1,024; 12 R227; empty] -/
  record : List DWord
  /-- Accepted: record read and checked. [1; 12 R229; 0] -/
  accepted : Bool
  /-- Operands consumed. [1; 12 Table 12.5; 0] -/
  consumed : Bool
  /-- Complete. [1; 12 Table 12.5; 0] -/
  complete : Bool
  /-- Status. [9; 12 Table 12.7; 0] -/
  status : Nat
  /-- STAMP hint's value. [64; 12 R227; none] -/
  hstamp : Option DWord
  /-- Lease time of the operation. [20; 08 R164; -] -/
  ets : BitVec 20
  /-- Elements that another device has answered, with their values. [-; 08 R155; none] -/
  got : List (Nat × Nat)
  /-- The issuing warp waits at the instruction for leave. [1; 12 R226; 0] -/
  waits : Bool
  /-- Next element of a copy, next gather group. [32; 12 R233, 14 Table 14.8; 0] -/
  next : Nat
  /-- Partial-completion mask of the group last suspended or delivered. [64; 12 R233, 19 R364; 0] -/
  pmask : Mask
  /-- Elements of the present gather group that are written. [64; 12 R233; 0] -/
  gdone : Mask
  /-- Open in the batch of these warps. [32; 12 R238; -] -/
  openIn : List Nat
  /-- Batch number that covers the operation, per warp. [16; 12 R238; -] -/
  batches : Tab (BitVec 16)
  /-- Units of leave held. [2; 04 R94; 0] -/
  leave : Nat
  /-- Units of leave that a restored operation asks for before it goes on. [2; 14 R272; 0] -/
  asks : Nat
  /-- Suspended on a fault. [1; 12 R233; 0] -/
  suspended : Bool
  /-- Nest indexes i0–i4 (matrix). [5 × 16; 11 Table 11.6; 0] -/
  idx : List Nat
  /-- Current tile (matrix). [3; 11 Table 11.6; 0] -/
  cur : Nat
  /-- Scale records consumed (matrix). [24; 11 Table 11.6; 0] -/
  sused : Nat
  /-- An epilogue is to run (matrix). [1; 11 Table 11.6; 0] -/
  epend : Bool
  /-- Index vector of that epilogue (matrix). [5 × 16; 11 R216; 0] -/
  epIdx : List Nat
  /-- Tile of that epilogue (matrix). [3; 11 Table 11.6; 0] -/
  epCur : Nat
  /-- That epilogue has read its tile and written; its remote writes or its commit remain (matrix). [1; 11 R219, R221; 0] -/
  epOut : Bool
  /-- Scale records read that no K-step takes (matrix). [24; 11 R214; 0] -/
  surplus : Nat
  /-- A cancellation waits for the epilogue that is writing (matrix). [1; 11 R223; 0] -/
  cancelled : Bool
  /-- The nest has ended (matrix). [1; 11 R216; 0] -/
  nestDone : Bool
  /-- Captured stream binding (matrix, ekind 3). [56; 11 Table 11.6; none] -/
  pq : Option Stream
  /-- Reserved number of the running epilogue. [48; 11 R219; none] -/
  eseq : Option Nat
  /-- Chunks acknowledged (XFER): destination rank and chunk. [-; 13 R255; none] -/
  acked : List (Nat × Nat)
  /-- Chunks sent (XFER): destination rank and chunk. [-; 13 R255; none] -/
  sent : List (Nat × Nat)
  /-- Vigil slot whose operation this is. [14; 13 R252; none] -/
  vigil : Option Nat
  /-- Bytes of a multicast's image that have been read, by offset. [-; 12 R231; none] -/
  image : List (Nat × Byte)
  /-- A fault of it has its record in the fault queue. [1; 02 R43; 0] -/
  recorded : Bool
  /-- Number of its acceptance among the device's CSAVEs. [-; 18 R348; 0] -/
  turn : Nat
  /-- A CSAVE whose block another one has saved. [1; 18 R348; 0] -/
  late : Bool
deriving DecidableEq, Repr

/-- A saved block (14 R272 to R274): what the save area holds of it, and what the tables of the save area have no place for. -/
structure Saved where
  /-- The block as it stopped. [-; 14 Tables 14.6, 14.7; -] -/
  block : Block
  /-- Its core. [10; 14 R274; -] -/
  core : Nat
  /-- Its slot. [7; 14 Table 14.6; -] -/
  slot : Nat
  /-- Scratch bytes by offset in the allocation. [m bytes; 14 Table 14.5; -] -/
  scratch : List Host.Cell
  /-- Tile bytes by offset in the block's tiles. [t × 64 KiB; 14 Table 14.5; -] -/
  tiles : List Host.Cell
  /-- Operation entries by number. [0–256; 14 Table 14.8; none] -/
  ops : Tab OpEntry
  /-- Matrix operations in queue order. [0–4; 11 Table 11.6; none] -/
  mats : List Nat
  /-- Operand-log entries: old entry number and entry. [0–8 a warp; 14 Table 14.7; none] -/
  logs : List (Nat × LogEntry)
  /-- Lease time of its core when it was saved, which its next core takes on. [20; 09 Table 9.5; -] -/
  pts : BitVec 20
deriving DecidableEq, Repr

/-- Numbers a core holds granted from one pipe (03 R56). -/
structure Grant where
  /-- Granted, unreserved numbers, ascending. [-; 03 R56; none] -/
  nums : List Nat
  /-- A request for the next block is on its way. [1; 03 R56; 0] -/
  asked : Bool
  /-- A block on its way to the core. [-; 03 R56; none] -/
  coming : List Nat
  /-- Kalends time of the last QRSV or arrival. [64; 03 R56; 0] -/
  last : Nat
deriving DecidableEq, Repr

/-- Merged free reports of one pipe at a consumer core (03 R57). -/
structure FreeAcc where
  /-- Numbers freed and not yet reported. [1–16; 03 R57; none] -/
  seqs : List Nat
  /-- Kalends time of the first of them. [64; 03 R57; 0] -/
  since : Nat
deriving DecidableEq, Repr

/-- Leave asked by a waiting warp or operation (04 R94). -/
structure LeaveReq where
  /-- Core. [10; 04 R94; -] -/
  core : Nat
  /-- Asking warp: slot and warp. [-; 04 R94; -] -/
  slot : Nat
  /-- Warp number. [5; 04 R94; -] -/
  warp : Nat
  /-- Address of the instruction that asks. [56; 04 R94; -] -/
  pc : BitVec 64
  /-- Units asked. [2; 04 R94; -] -/
  cost : Nat
  /-- Launch priority. [3; 04 R94; -] -/
  prio : Nat
  /-- Priority gained by waiting. [3; 04 R94; 0] -/
  aged : Nat
  /-- Kalends time of the request. [64; 04 R94; -] -/
  since : Nat
  /-- The units have been granted. [1; 04 R94; 0] -/
  granted : Bool
deriving DecidableEq, Repr

/-- A core. -/
structure Core where
  /-- Lease time. [20; 08 R162; DC 0] -/
  pts : BitVec 20
  /-- Core cycle of the last self-expiry. [64; 08 Table 8.8; 0] -/
  ptsAt : Nat
  /-- L1D lines by line address. [1,024 lines; 08 R159; none valid] -/
  l1d : Tab L1Line
  /-- Partial lines, oldest first. [64; 08 R166; none] -/
  partials : List Partial
  /-- Instruction TLB. [64 entries; 10 R198; empty] -/
  itlb : List TlbEntry
  /-- Data TLB. [256 entries; 10 R198; empty] -/
  dtlb : List TlbEntry
  /-- Physical scratch bytes. [512 KiB; 01 Table 1.3; DC 0] -/
  scratch : List Host.Cell
  /-- Tile file bytes, tile k at k × 0x1_0000 in the order of Table 8.3. [512 KiB; 01 Table 1.3; DC 0] -/
  tiles : List Host.Cell
  /-- Miss-status entries by line address. [672; 08 R173; none] -/
  mshr : List (Nat × Miss)
  /-- Operand-log entries, quarter × 16 + entry. [4 × 16; 10 R201; empty] -/
  oplog : Tab LogEntry
  /-- Operation entries. [256; 12 R226; free] -/
  ops : Tab OpEntry
  /-- Next operation serial. [32; 12 R236; DC 0] -/
  serial : BitVec 32
  /-- Copy-engine queue, in acceptance order. [16; 12 Table 12.1; empty] -/
  copyQ : List Nat
  /-- Gather-engine queues. [2 × 8; 12 Table 12.1; empty] -/
  gathQ : List (List Nat)
  /-- Matrix-unit queue, with restored operations that wait for a place behind it. [4; 11 R210; empty] -/
  matQ : List Nat
  /-- Sectors of the tile file that a warp has written while an operation of the unit accumulates there: the unit's own value, by
  sector number. [256 a sector; 09 R190; none] -/
  unitOwn : Tab Nat
  /-- XFER operations in issue order. [-; 13 R253; empty] -/
  xferQ : List Nat
  /-- Granted numbers by pipe key. [-; 03 R56; none] -/
  grants : Tab Grant
  /-- Merged free reports by pipe key. [-; 03 R57; none] -/
  frees : Tab FreeAcc
  /-- PMCNT0–7. [8 × 48; 15 R286; DC 0] -/
  pmcnt : List (BitVec 48)
  /-- PMCTL0–7. [8 × 64; 15 R286; DC 0] -/
  pmctl : List (BitVec 64)
  /-- PMC wraps not yet recorded. [8; 15 R286; none] -/
  pmwrap : List Nat
  /-- Next placement count. [32; 04 R91; DC 0] -/
  order : BitVec 32
  /-- Core cycle of each quarter's last swap. [4 × 64; 04 R92; 0] -/
  lastSwap : List Nat
  /-- Warp slot sampled last, per quarter (block slot × 32 + warp). [4; 15 R285; 0] -/
  sampled : List Nat
  /-- Core cycle of each quarter's last sample. [4 × 64; 15 R285; 0] -/
  sampledAt : List Nat
  /-- First cycle in which each quarter may issue again. [4 × 64; 04 R91; 0] -/
  quarterAt : List Nat
  /-- Core cycle of the core's last issue. [64; 14 R276; 0] -/
  lastIssue : Nat
  /-- Kalends times of recent uncorrectable errors. [-; 14 R276; none] -/
  errors : List Nat
  /-- Halted. [1; 19 R366; 0] -/
  halted : Bool
  /-- Halts pending: operation core and entry. [-; 19 R366; none] -/
  haltOps : List (Nat × Nat)
  /-- Grids whose share held the core when it was halted. [-; 19 R366; none] -/
  haltFrom : List Nat
  /-- Position withdrawn from service. [1; 01 R14; 0] -/
  withdrawn : Bool
  /-- Physical core bound to the position. [8; 01 R14; position] -/
  phys : Nat
  /-- Marked for handoff: donor grid, receiver grid, deadline. [-; 03 R72; none] -/
  handoff : Option (Nat × Nat × Nat)
  /-- L1I lines by line address, oldest first. [64 KiB; 01 R16; empty] -/
  l1i : List (Nat × Line)
  /-- Lease time of the writers of the core's scratch, which an acquire of a scratch byte takes on. MODEL'S OWN.
  [20; 09 R181; 0] -/
  scrTs : BitVec 20
  /-- Lease time of the core's operations that have added to a counter without their release flag. MODEL'S OWN.
  [4,096 × 20; 09 R189; 0] -/
  opTs : Tab (BitVec 20)
  /-- Lines stored to under `.strm` whose words are not home yet. MODEL'S OWN. [-; 09 Table 9.3; none] -/
  strm : List Nat
deriving DecidableEq, Repr

/-- A sequence number's state (03 Table 3.6). -/
inductive SeqState where
  /-- granted to a producer core -/
  | granted (core : Nat)
  /-- reserved by a warp (core, slot, warp) or, with warp 0x1F, by an engine -/
  | reserved (core slot warp : Nat)
  /-- committed; on its way to the home -/
  | committing
  /-- filled -/
  | filled
  /-- held by a block through QPOP (core, slot) -/
  | held (core slot : Nat)
  /-- held as a pipe item (core, slot) -/
  | item (core slot : Nat)
  /-- of a block that is saved: reserved, or (true) delivered and held (03 R53) -/
  | away (held : Bool)
  /-- void -/
  | void
  /-- freed out of order -/
  | freed
  /-- retained for firmware: its header is corrupt -/
  | retained
deriving DecidableEq, Repr

/-- A slot header (03 Table 3.5) with the home's own notes about the number. -/
structure Slot where
  /-- State. [-; 03 R52; free] -/
  st : SeqState
  /-- The 64-byte header as the home holds it. [512; 03 Table 3.5; DC 0] -/
  hdr : BitVec 512
  /-- Lease time of the commit. [20; 08 R164; DC 0] -/
  cts : BitVec 20
  /-- Data outside the reservation. [1; 03 R67; 0] -/
  spilled : Bool
  /-- Times returned to the queue. [2; 14 R278; 0] -/
  returns : Nat
  /-- Delivered to the mirror home. [1; 03 R69; 0] -/
  mirrored : Bool
deriving DecidableEq, Repr

/-- A pipe: its entry of the almanac (03 Table 3.4) and its home (03 R54). -/
structure Pipe where
  /-- efmt. [4; 03 Table 3.4; -] -/
  efmt : Nat
  /-- rank. [2; 03 Table 3.4; -] -/
  rank : Nat
  /-- scope. [2; 03 Table 3.4; -] -/
  scope : Nat
  /-- unord. [1; 03 Table 3.4; -] -/
  unord : Bool
  /-- depth. [13; 03 Table 3.4; -] -/
  depth : Nat
  /-- prod. [5; 03 Table 3.4; -] -/
  prod : Nat
  /-- cons. [5; 03 Table 3.4; -] -/
  cons : Nat
  /-- target. [7; 03 Table 3.4; -] -/
  target : Nat
  /-- dims. [3 × 16; 03 Table 3.4; -] -/
  dims : List Nat
  /-- ssize. [21; 03 Table 3.4; -] -/
  ssize : Nat
  /-- resident. [13; 03 Table 3.4; -] -/
  resident : Nat
  /-- Home slice. [8; 03 R54; -] -/
  slice : Nat
  /-- Home entry. [6; 03 R54; -] -/
  entry : Nat
  /-- array. [56; 03 Table 3.4; -] -/
  array : BitVec 64
  /-- peer rank. [10; 03 Table 3.4; -] -/
  peer : Nat
  /-- peer_pipe. [7; 03 Table 3.4; -] -/
  peerPipe : Nat
  /-- near_side. [1; 03 Table 3.4; -] -/
  nearSide : Bool
  /-- Next number to grant. [48; 03 R54; 0] -/
  nextGrant : Nat
  /-- Oldest number not freed in order. [48; 03 R55; 0] -/
  base : Nat
  /-- Head: oldest number not yet delivered. [48; 03 R54; 0] -/
  head : Nat
  /-- Numbers in use. [-; 03 R52; none] -/
  slots : Tab Slot
  /-- Filled numbers in the order of their commits at home (unordered delivery). [-; 03 R60; none] -/
  commitQ : List Nat
  /-- Commits on their way to the home, in order. [-; 03 R70; none] -/
  inflight : List Nat
  /-- Free reports on their way to the home. [-; 03 R57; none] -/
  freeing : List Nat
  /-- Closed. [1; 03 R54; 0] -/
  closed : Bool
  /-- Number of the end-of-stream header, once taken. [48; 03 R64; none] -/
  eosSeq : Option Nat
  /-- Delivery has reached end-of-stream. [1; 03 Table 3.9; 0] -/
  eos : Bool
  /-- Commit counter. [48; 03 R54; 0] -/
  commits : BitVec 48
  /-- Free counter. [48; 03 R54; 0] -/
  frees : BitVec 48
  /-- Spilled-slot counter. [48; 03 R67; 0] -/
  spills : BitVec 48
  /-- Stamp of the last slot delivered. [64; 03 R66; 0] -/
  lastStamp : DWord
  /-- Lease time of the last release that freed a slot, by slot index. [20; 09 Table 9.5; 0] -/
  freeTs : Tab (BitVec 20)
  /-- Lease time that the end of the stream carries: of every commit and of the close. [20; 09 Table 9.5; 0] -/
  endTs : BitVec 20
  /-- Lease time of a mirror home. [20; 08 R164; 0] -/
  ets : BitVec 20
  /-- Items returned by a failed block, ahead of pending items. [-; 14 R277; none] -/
  returned : List Nat
  /-- The peer's declaration has matched (pod scope). [1; 03 R69; 0] -/
  matched : Bool
  /-- Kalends time of launch. [64; 03 R69; -] -/
  born : Nat
  /-- The peer is unreachable. [1; 03 R69; 0] -/
  peerLost : Bool
  /-- Cores that wait for a grant, in order of request. [-; 03 R56; none] -/
  wanted : List Nat
  /-- Physical ranges of its L2 reservation, pinned from launch to completion. [-; 03 R61; -] -/
  pins : List (Nat × Nat)
  /-- Numbers whose spill or mirror write waits for firmware. [-; 03 R67; none] -/
  spillWait : List Nat
deriving DecidableEq, Repr

/-- A grid: a stage of an almanac or a lone grid. -/
structure Grid where
  /-- Context. [10; 10 R194; -] -/
  asid : Nat
  /-- Almanac number, none for a lone grid. [4; 03 R49; -] -/
  alm : Option Nat
  /-- Stage index. [5; 03 R49; -] -/
  stage : Nat
  /-- Packet that launched it. [-; 04 Table 4.2; -] -/
  pkt : Nat
  /-- Launch identifier. [32; 04 R87; -] -/
  launch : BitVec 32
  /-- Kernel. [-; 17 R318; -] -/
  kernel : Kernel
  /-- Kernel parameter block address. [56; 03 Table 3.3; -] -/
  params : BitVec 64
  /-- Input pipe key, none for an index range. [-; 02 R23; -] -/
  qpipe : Option Nat
  /-- Next index of the range. [65; 02 R23; -] -/
  next : Nat
  /-- End of the range. [65; 02 R37; -] -/
  stop : Nat
  /-- Indexes returned by failed blocks, ahead of pending ones. [-; 14 R277; none] -/
  returned : List Nat
  /-- Times each item has been returned. [2; 14 R278; none] -/
  returns : Tab Nat
  /-- Core share. [768; 02 R452; -] -/
  share : List Nat
  /-- min_share. [10; 03 Table 3.3; -] -/
  minShare : Nat
  /-- max_share. [10; 03 Table 3.3; -] -/
  maxShare : Nat
  /-- Permitted dies. [6; 03 Table 3.3; -] -/
  dies : BitVec 6
  /-- Priority. [3; 03 Table 3.3; -] -/
  prio : Nat
  /-- Spanning permission. [1; 02 R42; -] -/
  span : Bool
  /-- Blocks placed so far. [32; 05 Table 5.4; 0] -/
  placed : Nat
  /-- Gangs placed so far. [32; 05 Table 5.4; 0] -/
  gangs : Nat
  /-- Resident blocks. [-; 02 R45; 0] -/
  resident : Nat
  /-- Prologue shape records. [0–4; 02 R43; none] -/
  prologues : List (List DWord)
  /-- A `far` gang was placed as `near`. [1; 02 R42; 0] -/
  downgrade : Bool
  /-- Saved blocks that the distributor restores before new ones. [-; 04 R95; none] -/
  restore : List Saved
  /-- Blocks that CSAVE saved and no CREST has restored. [-; 18 R348; none] -/
  away : List Saved
  /-- Complete. [1; 02 R45; 0] -/
  complete : Bool
  /-- Status with which it completes. [9; 03 R75; 0] -/
  status : Nat
  /-- Kalends time of completion. [64; 03 Table 3.10; -] -/
  doneAt : Nat
  /-- Indices dropped by a drain or a cancel. [64; 03 R74; 0] -/
  dropped : Nat
  /-- Balancer period of the last move. [-; 03 R71; none] -/
  moved : Option Nat
  /-- The completion record is written (stages). [1; 03 R75; 0] -/
  recorded : Bool
  /-- Cancelled. [1; 04 R85; 0] -/
  cancelled : Bool
  /-- Launched by firmware in its own context. [1; 14 R264; 0] -/
  supervisor : Bool
deriving DecidableEq, Repr

/-- A cycle of the wait graph that the deadlock detector has seen with every core blocked (03 R73). -/
structure Cycle where
  /-- Stages on it. [32; 03 Table 3.11; -] -/
  stages : List Nat
  /-- Pipes that form its edges. [128; 03 Table 3.11; -] -/
  pipes : List Nat
  /-- Commit and free counters of its pipes as last sampled. [2 × 48 a pipe; 03 R73; -] -/
  seen : List (BitVec 48 × BitVec 48)
  /-- Sample periods without a change. [16; 03 R73; 0] -/
  count : Nat
  /-- Its event has been raised, and no counter has changed since. [1; 03 R73; 0] -/
  raised : Bool
deriving DecidableEq, Repr

/-- An almanac (03 R48). -/
structure Almanac where
  /-- Packet that launched it. [-; 04 Table 4.2; -] -/
  pkt : Nat
  /-- tag. [64; 03 Table 3.1; -] -/
  tag : DWord
  /-- crec. [56; 03 Table 3.1; -] -/
  crec : BitVec 64
  /-- handoff_to, µs. [16; 03 Table 3.1; -] -/
  handoffTo : Nat
  /-- dl_thresh, sample periods. [16; 03 Table 3.1; -] -/
  dlThresh : Nat
  /-- mode. [2; 03 Table 3.2; -] -/
  mode : Nat
  /-- hyst. [7; 03 Table 3.2; -] -/
  hyst : Nat
  /-- min_int. [16; 03 Table 3.2; -] -/
  minInt : Nat
  /-- max_moves. [8; 03 Table 3.2; -] -/
  maxMoves : Nat
  /-- Grid keys of the stages. [1–32; 03 R48; -] -/
  stages : List Nat
  /-- Number of pipes. [8; 03 Table 3.1; -] -/
  npipes : Nat
  /-- Draining. [1; 03 R74; 0] -/
  draining : Bool
  /-- Packets that wait for its completion (drain). [-; 03 R74; none] -/
  drainers : List Nat
  /-- Blocked cycles that the detector watches. [-; 03 R73; none] -/
  cycles : List Cycle
deriving DecidableEq, Repr

/-- Buffer-handle entry (04 Table 4.7). -/
structure BufHandle where
  /-- base. [56; 04 Table 4.7; DC 0] -/
  base : BitVec 64
  /-- length. [48; 04 Table 4.7; DC 0] -/
  length : Nat
  /-- writer. [32; 04 Table 4.7; 0] -/
  writer : BitVec 32
  /-- wvalid. [1; 04 Table 4.7; 0] -/
  wvalid : Bool
  /-- wdone. [1; 04 Table 4.7; 0] -/
  wdone : Bool
  /-- readers. [16; 04 Table 4.7; 0] -/
  readers : Nat
deriving DecidableEq, Repr

/-- Who waits for the answer to a record of a fault queue. -/
inductive Who where
  /-- nobody: an event record -/
  | event
  /-- a trap with firmware: core, slot, warp, split -/
  | trap (core slot warp split : Nat)
  /-- an operand-log entry: core, quarter, entry -/
  | log (core quarter entry : Nat)
  /-- a translation fault with no log entry: core, slot, warp, split, unfinished lanes -/
  | noLog (core slot warp split : Nat) (lanes : Mask)
  /-- an engine or matrix operation: core, entry, and the serial of the operation that the entry then held -/
  | engine (core entry : Nat) (serial : BitVec 32)
  /-- an access of the command processor for a packet -/
  | packet (pkt : Nat)
  /-- a spill or mirror access of a pipe home -/
  | pipe (pipe seq : Nat)
  /-- an XFER of a fired vigil -/
  | vigil (vslot : Nat)
  /-- the write of an NSEND descriptor -/
  | nsend (key : Nat)
  /-- the writes of an XFER chunk: source rank, tag -/
  | chunk (source tag : Nat)
  /-- a trap of a warp whose block is saved: grid, block number, warp, split -/
  | savedTrap (grid number warp split : Nat)
  /-- an operation of a block that is saved: grid, block number, entry, serial -/
  | savedOp (grid number entry : Nat) (serial : BitVec 32)
deriving DecidableEq, Repr

/-- A record of a fault queue that is unanswered, or waits for room in the queue. -/
structure FaultRec where
  /-- The 64-byte record. [512; 10 Table 10.6, 14 Table 14.2; -] -/
  words : List DWord
  /-- Who waits for its answer. [-; 14 R271; -] -/
  who : Who
  /-- Record number. [32; 14 R270; -] -/
  rseq : BitVec 32
  /-- Written to the queue. [1; 14 R270; 0] -/
  written : Bool
  /-- A host event: its notification datagram goes with it. [1; 14 R279; 0] -/
  notify : Bool := false
  /-- Firmware's answer to a trap whose block is saved: 1 replay, 2 deliver, 3 fail; it takes effect at the restore.
  [2; 14 R271; none] -/
  answer : Nat := 0
deriving DecidableEq, Repr

/-- A watchpoint (15 Table 15.6). -/
structure Watch where
  /-- base and lg, word 0. [64; 15 Table 15.6; 0] -/
  w0 : DWord
  /-- kinds, action and hit, word 1. [64; 15 Table 15.6; 0] -/
  w1 : DWord
deriving DecidableEq, Repr

/-- A resident context (10 R194). -/
structure Ctx where
  /-- Ranks to which NSENDs of the context have gone. MODEL'S OWN. [1,024; 13 R261; none] -/
  peers : List Nat
  /-- asid: the ASID field of the translation record, as last written. [10; 10 Table 10.1; DC 0] -/
  recAsid : BitVec 10
  /-- root. [52; 10 Table 10.1; DC 0] -/
  root : BitVec 64
  /-- hbase. [56; 10 Table 10.1; DC 0] -/
  hbase : BitVec 64
  /-- hlimit. [56; 10 Table 10.1; 0] -/
  hlimit : BitVec 64
  /-- hoff. [64; 10 Table 10.1; DC 0] -/
  hoff : BitVec 64
  /-- Fault queue base. [52; 14 Table 14.4; DC 0] -/
  fqBase : BitVec 64
  /-- Fault queue lsize. [5; 14 Table 14.4; DC 0] -/
  fqLsize : Nat
  /-- Fault queue head. [32; 14 Table 14.4; 0] -/
  fqHead : BitVec 32
  /-- Fault queue tail. [32; 14 Table 14.4; 0] -/
  fqTail : BitVec 32
  /-- Records unanswered or waiting for room, oldest first. [-; 14 R270, R271; none] -/
  records : List FaultRec
  /-- Lease length. [8; 08 R162; 10] -/
  lease : Nat
  /-- Rendezvous timeout in cycles. [32; 06 R125; 2^24] -/
  timeout : Nat
  /-- Suspended. [1; 04 Table 4.6; 0] -/
  suspended : Bool
  /-- ptag. [16; 13 R241; DC 0] -/
  ptag : BitVec 16
  /-- Firmware's own context. [1; 10 R202; 0] -/
  firmware : Bool
  /-- Buffer handles. [65,536; 04 R87; unregistered] -/
  handles : Tab BufHandle
  /-- Next launch identifier. [32; 04 R87; DC 0] -/
  nextLaunch : BitVec 32
  /-- Almanacs by number. [16; 03 R49; none] -/
  alms : Tab Almanac
  /-- DBGCTL. [64; 15 Table 15.2; pexp 16] -/
  dbgctl : DWord
  /-- SBDESC base and lsize, word 0. [64; 15 Table 15.3; lsize 0, base DC 0] -/
  sbBase : DWord
  /-- SBDESC wptr. [32; 15 Table 15.3; 0] -/
  sbWptr : BitVec 32
  /-- SBDESC rptr. [32; 15 Table 15.3; 0] -/
  sbRptr : BitVec 32
  /-- SBDESC lost. [32; 15 Table 15.3; 0] -/
  sbLost : BitVec 32
  /-- Watchpoints 0–3. [4 × 128; 15 Table 15.6; 0] -/
  watch : List Watch
  /-- Signature table. [256 × 128; 15 Table 15.7; 0] -/
  sigs : Tab (DWord × DWord)
deriving DecidableEq, Repr

/-- A command ring descriptor (04 Table 4.5). -/
structure Ring where
  /-- base. [52; 04 Table 4.5; DC 0] -/
  base : BitVec 64
  /-- lsize. [4; 04 Table 4.5; DC 0] -/
  lsize : Nat
  /-- prio. [3; 04 Table 4.5; DC 0] -/
  prio : Nat
  /-- Running (false: stopped). An absent ring has no entry. [2; 04 Table 4.5; 0] -/
  running : Bool
  /-- wptr. [32; 04 Table 4.5; 0] -/
  wptr : BitVec 32
  /-- rptr. [32; 04 Table 4.5; 0] -/
  rptr : BitVec 32
  /-- erec. [56; 04 Table 4.5; DC 0] -/
  erec : BitVec 64
  /-- nseq. [64; 04 Table 4.5; 0] -/
  nseq : DWord
  /-- asid. [10; 04 Table 4.5; DC 0] -/
  asid : Nat
  /-- drops. [16; 04 Table 4.5; 0] -/
  drops : BitVec 16
deriving DecidableEq, Repr

/-- How far a fetched packet has come. -/
inductive PktState where
  /-- fetched, not started -/
  | fetched
  /-- started -/
  | started
  /-- its action has been performed; it waits for its end -/
  | acting
  /-- its end has come; the completion record is to be written -/
  | ended (status : Nat)
deriving DecidableEq, Repr

/-- A packet between fetch and completion (04 R88). -/
structure Packet where
  /-- Ring. [10; 04 Table 4.1; -] -/
  ring : Nat
  /-- Context of the ring. [10; 04 R80; -] -/
  asid : Nat
  /-- kind. [8; 04 Table 4.2; -] -/
  kind : Nat
  /-- pseq. [64; 04 Table 4.1; -] -/
  pseq : DWord
  /-- crec. [56; 04 Table 4.1; -] -/
  crec : BitVec 64
  /-- notify. [1; 04 Table 4.1; -] -/
  notify : Bool
  /-- barrier. [1; 04 Table 4.1; -] -/
  barrier : Bool
  /-- Launch identifier. [32; 04 R87; -] -/
  launch : BitVec 32
  /-- Body bytes. [-; 04 R76; -] -/
  body : List Byte
  /-- Handle list entries. [0–512 × 64; 04 R77; -] -/
  handles : List DWord
  /-- Progress. [-; 04 R88; fetched] -/
  st : PktState
  /-- Kalends time at which its wait began (fences). [64; 04 R86; -] -/
  since : Nat
  /-- Offset field of its record. [16; 04 Table 4.4; 0] -/
  offset : Nat
  /-- downgrade bit of its record. [1; 04 Table 4.4; 0] -/
  downgrade : Bool
  /-- Bytes already moved (write, read memory). [25; 04 R453; 0] -/
  moved : Nat
  /-- Cores still in handoff (resize). [-; 04 Table 4.2; none] -/
  cores : List Nat
  /-- A fault of its access that firmware has delivered: cause and virtual address. [9 + 56; 04 R453; none] -/
  fault : Option (Nat × Nat)
  /-- Values that another device has answered, by virtual address. [-; 08 R155; none] -/
  got : List (Nat × Nat)
  /-- It waits for firmware. [1; 04 R453; 0] -/
  waiting : Bool
  /-- Lease time that the cores of its blocks take on as they are placed. [20; 09 Table 9.5; 0] -/
  ts : BitVec 20
deriving DecidableEq, Repr

/-- The state of a vigil slot (13 Table 13.7). -/
inductive VState where
  /-- parked -/
  | parked
  /-- armed -/
  | armed
  /-- firing, not yet started -/
  | firing
  /-- its operation runs -/
  | running
deriving DecidableEq, Repr

/-- A vigil slot that is not free (13 R249). -/
structure Vigil where
  /-- Record. [512; 13 Table 13.5; -] -/
  words : List DWord
  /-- State. [-; 13 Table 13.7; free] -/
  st : VState
  /-- Context. [10; 13 R252; -] -/
  asid : Nat
  /-- Status of its operation, once it has ended. [9; 13 R252; none] -/
  ended : Option Nat
  /-- Its XFER, if any. [-; 13 R252; none] -/
  op : Option OpEntry
  /-- Lease time that its firing takes on, if it is an acquire. MODEL'S OWN. [20; 13 R245; 0] -/
  fireTs : BitVec 20
deriving DecidableEq, Repr

/-- An owner entry (13 Table 13.1). -/
structure Owner where
  /-- asid. [10; 13 Table 13.1; 0] -/
  asid : Nat
  /-- valid. [1; 13 Table 13.1; 0] -/
  valid : Bool
  /-- ptag. [16; 13 Table 13.1; 0] -/
  ptag : BitVec 16
deriving DecidableEq, Repr

/-- An entry of the arm table (13 R244). -/
structure Arm where
  /-- Context. [10; 13 R244; -] -/
  asid : Nat
  /-- Counter. [12; 13 R244; -] -/
  ctr : Nat
  /-- Value mode. [1; 13 R244; -] -/
  mode : Bool
  /-- Virtual base. [56; 13 R244; -] -/
  va : Nat
  /-- Physical base. [52; 13 R244; -] -/
  pa : Nat
  /-- Length. [17; 13 R244; -] -/
  len : Nat
  /-- Page size, log2; 0 in the heap triple. [6; 13 R244; -] -/
  lg : Nat
deriving DecidableEq, Repr

/-- A resident L2 line (08 R161, Table 8.7). -/
structure HomeLine where
  /-- The 128 bytes. [1024; 08 R161; -] -/
  data : Line
  /-- Differs from HBM. [1; 08 R161; 0] -/
  dirty : Bool
  /-- wts. [20; 08 Table 8.7; mts] -/
  wts : BitVec 20
  /-- rts. [20; 08 Table 8.7; mts] -/
  rts : BitVec 20
  /-- Commutative-update state. [1; 08 Table 8.7; 0] -/
  cu : Bool
  /-- Poisoned. [1; 14 Table 14.9; 0] -/
  poison : Bool
  /-- Replace first (`.strm`). [1; 09 Table 9.3; 0] -/
  strm : Bool
deriving DecidableEq, Repr

/-- A die: its shared TLB, leave controller and power state. -/
structure Die where
  /-- Shared TLB. [16,384 entries; 10 R198; empty] -/
  tlb : List TlbEntry
  /-- LVCTL.budget. [10; 04 Table 4.9; 448] -/
  budget : Nat
  /-- LVCTL.ramp. [10; 04 Table 4.9; 64] -/
  ramp : Nat
  /-- LVCTL.inuse. [10; 04 Table 4.9; 0] -/
  inuse : Nat
  /-- Leave requests, oldest first (LVCTL.waiting counts those not granted). [10; 04 Table 4.9; none] -/
  reqs : List LeaveReq
  /-- Grants of the last microsecond: kalends time and units. [-; 04 R94; none] -/
  grants : List (Nat × Nat)
  /-- Physical cores not bound to a position. [8; 01 R14; 128–135] -/
  spares : List Nat
  /-- Power state: gated. [1; 16 Table 16.3; 0] -/
  gated : Bool
  /-- Kalends time at which the power state permits service again. [64; 16 R299; 0] -/
  wakeAt : Nat
  /-- Units by which the power limits have lowered the budget. [10; 16 R300; 0] -/
  cut : Nat
  /-- Multicasts at this die in flight are in `State.mcasts`; partials of engine updates. [-; 08 R166; none] -/
  partials : List Partial
  /-- Lease time of the die-scope releases of a counter. MODEL'S OWN. [4,096 × 20; 09 R189; 0] -/
  ctrTs : Tab (BitVec 20)
deriving DecidableEq, Repr

/-- A message to another device or to the host. -/
inductive Msg where
  /-- command-session datagram to the host: kind, and its bytes with header and tag (16 R294) -/
  | datagram (kind : Nat) (payload : List Byte)
  /-- unauthenticated boot-status datagram (16 R292) -/
  | bootStatus
  /-- attestation report: measurement registers, nonce, certificate, encapsulation key, signature (16 R293) -/
  | report (fields : List (List Byte))
  /-- pod-remote read, write or atomic: rank, tag, kind, address, data (08 R155) -/
  | remote (rank tag kind addr : Nat) (data : List Byte)
  /-- completion of a pod-remote access served here: rank, tag, status, data -/
  | remoteDone (rank tag status : Nat) (data : List Byte)
  /-- pipe slot to a mirror home: rank, pipe, header, data (03 R69) -/
  | slot (rank pipe : Nat) (hdr data : List Byte)
  /-- frees of a mirror home: rank, pipe, count (03 R69) -/
  | frees (rank pipe count : Nat)
  /-- pipe declaration: rank, pipe, entry image (03 R69) -/
  | declare (rank pipe : Nat) (entry : List Byte)
  /-- close of a pod-scope pipe: rank, pipe (04 R85) -/
  | close (rank pipe : Nat)
  /-- XFER chunk: rank, tag, header, data (13 R255) -/
  | chunk (rank tag : Nat) (hdr data : List Byte)
  /-- chunk acknowledgement: rank, tag, status (13 R255) -/
  | chunkAck (rank tag status : Nat)
  /-- NSEND descriptor: rank, tag, ptag, stamp, descriptor (13 R248) -/
  | nsend (rank tag : Nat) (ptag : BitVec 16) (stamp : DWord) (desc : List Byte)
  /-- acknowledgement of an NSEND descriptor acted on here: rank, ptag, status (13 R252) -/
  | nsendDone (rank ptag status : Nat)
  /-- holiday step: rank, coll, sequence number, step, chunk; step 6 is a RESUME after a timeout (13 Table 13.10, R260; log 36) -/
  | holiday (rank coll hseq stepNo : Nat) (chunk : Option Nat)
  /-- timing message of rank 0 to its pod: disciplining rate (16 R296, R297) -/
  | timing (rateppm : Int)
  /-- signal to the board controller (16 R299) -/
  | board (code : Nat)
  /-- signal to the debugger (15 R283) -/
  | debugger (core slot : Nat)
deriving DecidableEq, Repr

/-- A pod-remote access that waits for its completion (09 R192). -/
structure RemPend where
  /-- Core, slot, warp and split that made it. [-; 09 R192; -] -/
  core : Nat
  /-- Block slot. [7; 09 R192; -] -/
  slot : Nat
  /-- Warp. [5; 09 R192; -] -/
  warp : Nat
  /-- Split. [3; 09 R192; -] -/
  split : Nat
  /-- Lane. [6; 09 R192; -] -/
  lane : Nat
  /-- 0 read, 1 write, 2 atomic. [2; 08 R155; -] -/
  kind : Nat
  /-- Destination register numbers (empty: none). [-; 09 R192; -] -/
  dst : List Nat
  /-- Bytes of the access. [6; 09 R192; -] -/
  size : Nat
  /-- Sign-extend a narrow load. [1; 19 R375; -] -/
  signed : Bool
  /-- High word that a cas keeps. [32; 18 R327; 0] -/
  keep : Nat
  /-- First tag of the same instruction in the same warp, which its window waits for. [-; 06 R128; -] -/
  group : Nat
  /-- Context of the access. [10; 10 R200; -] -/
  asid : Nat
  /-- Virtual address of the access. [56; 10 R200; -] -/
  va : Nat
  /-- The access is an acquire. [1; 09 R180; 0] -/
  acq : Bool
  /-- First tag of the same instruction in any member, under which `RemIns` waits. [-; 14 Table 14.9; -] -/
  ins : Nat
deriving DecidableEq, Repr

/-- An NSEND descriptor that has arrived and is not yet acted on (13 R248). -/
structure NsendIn where
  /-- Its number among those that have waited. MODEL'S OWN. [-; 13 R248; -] -/
  key : Nat
  /-- Source rank. [10; 13 R248; -] -/
  source : Nat
  /-- Sender's ptag. [16; 13 R248; -] -/
  ptag : Nat
  /-- Descriptor. [256; 13 Table 13.6; -] -/
  desc : List Byte
  /-- The vigil slot of this device that sent it. [14; 13 R252; none] -/
  vslot : Option Nat
deriving DecidableEq, Repr

/-- A multicast packet of a copy on its way (08 R171, R172). -/
structure Mcast where
  /-- Destination cores that have not received it. [-; 08 R171; -] -/
  dests : List Nat
  /-- Ordered, through this serialising slice. [1 + 7; 08 R172; -] -/
  slice : Option Nat
  /-- Forwarded by the serialising slice. [1; 08 Table 8.15; 0] -/
  fwd : Bool
  /-- Window offset of the first byte. [22; 12 R231; -] -/
  off : Nat
  /-- Bytes by offset. [-; 12 R231; -] -/
  bytes : List (Nat × Byte)
  /-- Context and element size. [-; 08 R157; -] -/
  asid : Nat
  /-- Element size. [4; 08 R157; -] -/
  esz : Nat
  /-- Operation: core and entry. [-; 12 R231; -] -/
  op : Nat × Nat
  /-- Serial of the operation. [32; 12 R236; -] -/
  serial : BitVec 32
  /-- Cores that have refused it, with their statuses. [-; 12 R231; none] -/
  refused : List (Nat × Nat)
deriving DecidableEq, Repr

/-- An XFER chunk staged in the receive half, or one's own on its way (13 R255). -/
structure ChunkOut where
  /-- Core and entry of the operation (core 768: vigil slot). [-; 13 R255; -] -/
  core : Nat
  /-- Entry. [8; 13 R255; -] -/
  entry : Nat
  /-- Destination rank. [10; 13 R255; -] -/
  rank : Nat
  /-- Chunk index. [32; 13 R255; -] -/
  idx : Nat
  /-- Buffer bytes in the transmit half. [21; 13 R255; -] -/
  bytes : Nat
  /-- Serial of the operation. MODEL'S OWN. [32; 13 R255; -] -/
  serial : BitVec 32
deriving DecidableEq, Repr

/-- A collective group entry (13 Table 13.9). -/
structure CollGroup where
  /-- coll. [16; 13 Table 13.9; 0] -/
  coll : Nat
  /-- valid. [1; 13 Table 13.9; 0] -/
  valid : Bool
  /-- ptag. [16; 13 Table 13.9; 0] -/
  ptag : BitVec 16
  /-- members. [1,024; 13 Table 13.9; 0] -/
  members : BitVec 1024
deriving DecidableEq, Repr

/-- A holiday that runs on this device (13 Table 13.10). -/
structure Holiday where
  /-- Initiator's rank. [10; 13 R258; -] -/
  initiator : Nat
  /-- Holiday sequence number. [16; 13 R258; DC 0] -/
  hseq : Nat
  /-- Step reached: 1 to 5. [3; 13 Table 13.10; -] -/
  stepNo : Nat
  /-- Suspend packet, at the initiator. [-; 13 R258; -] -/
  pkt : Option Nat
  /-- Ranks that have not answered the present step. [-; 13 R258; -] -/
  waiting : List Nat
  /-- N, once known. [32; 13 Table 13.10; none] -/
  chunk : Option Nat
  /-- Kalends time at which the present step began. [64; 13 R260; -] -/
  since : Nat
  /-- Context to suspend. [10; 13 R258; -] -/
  asid : Nat
deriving DecidableEq, Repr

/-- The command session (16 R293). -/
structure Session where
  /-- Session number. [32; 16 R293; -] -/
  number : BitVec 32
  /-- Host-to-device key. [256; 16 R293; -] -/
  keyIn : List Byte
  /-- Device-to-host key. [256; 16 R293; -] -/
  keyOut : List Byte
  /-- Largest dseq accepted. [64; 16 R295; 0] -/
  dseqIn : Nat
  /-- Last dseq sent. [64; 16 Table 16.1; 0] -/
  dseqOut : Nat
  /-- Kalends time of the last authenticated datagram. [64; 16 R293; -] -/
  last : Nat
deriving DecidableEq, Repr

/-- How far bring-up has come (16 R292). -/
inductive Boot where
  /-- before POWER_ON, or in the off state -/
  | off
  /-- a verification failed -/
  | halted
  /-- firmware runs -/
  | up
deriving DecidableEq, Repr

/-- The place of the split whose turn it is to issue. -/
structure Port where
  /-- Global core. [10; 04 R91; -] -/
  core : Nat
  /-- Block slot. [7; 04 R91; -] -/
  slot : Nat
  /-- Warp. [5; 04 R91; -] -/
  warp : Nat
  /-- Split slot. [3; 06 R120; -] -/
  split : Nat
deriving DecidableEq, Repr

/-- A trap that an instruction asks for. -/
structure TrapReq where
  /-- Primary cause. [9; 14 Table 14.2; -] -/
  cause : Nat
  /-- Faulting lanes by member warp (none: warp-uniform, or no lane of that member). [64 each; 14 R265; -] -/
  lanes : Tab Mask := []
  /-- Address of the lowest faulting lane, for memory causes. [56; 14 Table 14.2; 0] -/
  va : Nat := 0
  /-- resnext. [1; 14 Table 14.2; 0] -/
  resnext : Bool := false
  /-- Instructions completed after the faulting one under its lookahead. [4; 14 Table 14.2; 0] -/
  post : Nat := 0
  /-- Firmware delivers a memory fault. [1; 14 R271; 0] -/
  delivered : Bool := false
deriving DecidableEq, Repr

/-- Where a trap is taken: the members of its instance are empty when the warp trapped alone (06 R126). -/
structure TrapAt where
  /-- Core. [10; 14 Table 14.2; -] -/
  core : Nat
  /-- Block slot. [7; 14 Table 14.2; -] -/
  slot : Nat
  /-- Warp. [5; 14 Table 14.2; -] -/
  warp : Nat
  /-- Split slot. [3; 14 Table 14.2; -] -/
  split : Nat
  /-- Address of the word. [56; 14 Table 14.2; -] -/
  pc : BitVec 64
  /-- SC of the word. [2; 14 Table 14.2; -] -/
  sc : Nat
  /-- Members of the instance. [32; 06 R126; none] -/
  members : List Nat := []
deriving DecidableEq, Repr

/-- An instruction whose lanes wait for another device, under its first tag: what is taken once they have answered. MODEL'S
OWN. -/
structure RemIns where
  /-- Where its trap is taken. [-; 19 R376; -] -/
  trapAt : TrapAt
  /-- Its lookahead. [4; 06 R128; -] -/
  la : Nat
  /-- Faults of its lanes: member, lane, cause, address. [-; 19 R376; none] -/
  faults : List (Nat × Nat × Nat × Nat)
  /-- Log entry whose replay it is: quarter and entry. [-; 10 R202; none] -/
  entry : Option (Nat × Nat)
  /-- It has no result, so its split has gone on. [1; 09 R192; 0] -/
  runsOn : Bool
deriving DecidableEq, Repr

/-- The trap of one instruction of a co-issued pair while the other one issues in the same cycle (06 R130). -/
inductive Joint where
  /-- no pair issues -/
  | off
  /-- the instruction of the higher slot issues: a trap of it is kept -/
  | collect
  /-- it has trapped -/
  | kept (a : TrapAt) (t : TrapReq)
deriving DecidableEq, Repr

/-- Which agent moves next. -/
inductive Turn where
  /-- a split issues -/
  | issue (p : Port)
  /-- an event comes about -/
  | event (i : Instr)
  /-- firmware's answer in a control word of the operand log: by record number or by entry; 1 replay, 2 deliver, 3 fail;
  core, quarter, and record number or entry (10 R202) -/
  | answer (byRecord : Bool) (act core quarter n : Nat)
  /-- an engine moves one element of a copy: core and entry (12 R230; log 2) -/
  | element (core entry : Nat)
  /-- core cycles and kalends ticks pass -/
  | time (cycles ns : Nat)
deriving DecidableEq, Repr

/-- Reasons for which the machine stops with a fault. No meaning of this model ends in one: every cause code of the
specification is a trap, a record, a status or a host event, each of them a next state. -/
inductive Fault where
  /-- No device: nothing of the specification raises it. Safe: no step answers it. -/
  | none
deriving DecidableEq, Repr

/-- Reasons for which the model answers nothing. -/
inductive Refusal where
  /-- An instruction of the opcode table that has no meaning yet. Safe: no claim about a next state follows. -/
  | notModelled (mnemonic : String)
deriving DecidableEq, Repr

/-- The device. -/
structure State where
  /-- HBM bytes, in canonical form: addresses strictly rising, no entry equal to zero. [768 GiB; 01 R12; DC 0] -/
  mem : List Host.Cell
  /-- HBM lines marked poisoned. [-; 10 R205; none] -/
  poison : List Nat
  /-- Resident L2 lines by line address. [96 × 65,536; 08 R161; none] -/
  l2 : Tab HomeLine
  /-- mts of each slice. [96 × 20; 08 R161; DC 0] -/
  mts : Tab (BitVec 20)
  /-- LEASESTAT.rebases. [32; 08 Table 8.9; 0] -/
  rebases : BitVec 32
  /-- LEASESTAT.busy: a rebase has been performed, and memory accesses wait until time passes. [1; 08 Table 8.9; 0] -/
  rebasing : Bool
  /-- Cores that have state other than their initial one. [768; 01 R13; initial] -/
  cores : Tab Core
  /-- Resident blocks, key core × 96 + slot. [768 × 96; 02 R40; none] -/
  blocks : Tab Block
  /-- Dies that have state other than their initial one. [6; 01 R13; initial] -/
  dies : Tab Die
  /-- Partials of the I/O die. [-; 08 R166; none] -/
  ioPartials : List Partial
  /-- Resident contexts by ASID. [1,024; 10 R194; none] -/
  ctxs : Tab Ctx
  /-- Command rings. [1,024; 04 R79; absent] -/
  rings : Tab Ring
  /-- Ring served last, of each priority. [8 × 10; 04 R81; DC 0] -/
  lastRing : List Nat
  /-- Packets fetched and not complete, by fetch number. [-; 04 R88; none] -/
  pkts : Tab Packet
  /-- Next fetch number. [-; 04 R87; 0] -/
  nextPkt : Nat
  /-- Grids by key. [-; 02 R45; none] -/
  grids : Tab Grid
  /-- Next grid key. [-; 02 R45; 0] -/
  nextGrid : Nat
  /-- Pipes by key (asid × 16 + almanac) × 128 + index. [-; 03 R54; none] -/
  pipes : Tab Pipe
  /-- Trigger counters. [4,096 × 64; 13 R241; 0] -/
  counters : Tab DWord
  /-- Lease time of the release updates of each counter, which an acquire of it takes on (13 R245). MODEL'S OWN.
  [4,096 × 20; log 16; 0] -/
  ctrTs : Tab (BitVec 20)
  /-- Lease time of the accesses that other devices have made here. MODEL'S OWN. [20; log 16; 0] -/
  remTs : BitVec 20
  /-- Owner entries of the counters. [4,096; 13 Table 13.1; 0] -/
  ctrOwner : Tab Owner
  /-- Owner entries of the vigil slots. [16,384; 13 Table 13.1; 0] -/
  vigOwner : Tab Owner
  /-- Vigil slots that are not free. [16,384; 13 R249; free] -/
  vigils : Tab Vigil
  /-- Firing order of vigil slots. [-; 13 R251; none] -/
  firing : List Nat
  /-- Arm table. [256; 13 R244; empty] -/
  arms : List Arm
  /-- Counter increments on the Return lines: counter and amount. [-; 13 Table 13.3; none] -/
  flits : List (Nat × Nat)
  /-- Collective group entries. [256; 13 Table 13.9; 0] -/
  groups : Tab CollGroup
  /-- Holidays by collective id. [-; 13 R258; none] -/
  holidays : Tab Holiday
  /-- Next holiday sequence number. [16; 13 R258; DC 0] -/
  nextHoliday : Nat
  /-- Chunks sent and not acknowledged, by tag. [16 MiB; 13 R255; none] -/
  chunks : Tab ChunkOut
  /-- Chunks already performed here: source rank and tag. [-; 13 R255; none] -/
  chunkSeen : List (Nat × Nat)
  /-- Chunks whose writes wait for firmware: source rank, tag, header and data. [16 MiB; 13 R255; none] -/
  chunkWait : List (Nat × Nat × List Byte × List Byte)
  /-- Tag of the next message that wants an answer. [-; 08 Table 8.13; DC 0] -/
  nextTag : Nat
  /-- Pod-remote accesses that wait for completion, by tag. [-; 09 R192; none] -/
  remPend : Tab RemPend
  /-- Instructions whose lanes wait for another device, by their first tag. MODEL'S OWN. [-; 19 R376; none] -/
  remIns : Tab RemIns
  /-- NSEND descriptors that wait for firmware, oldest first. [-; 13 R248; none] -/
  nsendWait : List NsendIn
  /-- NSENDs of vigils that wait for the target's acknowledgement: tag and slot. [-; 13 R252; none] -/
  nsendAck : Tab Nat
  /-- Descriptors sent to other devices that none has answered: tag, context and rank. [-; 20 R383; none] -/
  nsendTo : Tab (Nat × Nat)
  /-- Multicast packets on their way. [-; 08 R171; none] -/
  mcasts : List Mcast
  /-- Special `rank`. [10; 05 Table 5.4; 0] -/
  rank : Nat
  /-- The device has joined a pod. [1; 16 R296; 0] -/
  inPod : Bool
  /-- MACsec keys that firmware has installed, four words a port. [5 × 256; 16 Table 16.2; DC 0] -/
  macsec : List DWord
  /-- Special `kalends`. [64; 16 R297; DC 0] -/
  kalends : DWord
  /-- Special `cycle`. [64; 05 Table 5.4; 0] -/
  cycle : DWord
  /-- Disciplining rate of kalends, ppm. [-; 16 R297; 0] -/
  rate : Int
  /-- Fraction of a tick that the rate has gained, in millionths. [-; 16 R297; 0] -/
  ratefrac : Int
  /-- A PTP or timing message has disciplined kalends. [1; 16 R297; 0] -/
  locked : Bool
  /-- Bring-up. [-; 16 R292; off] -/
  boot : Boot
  /-- Measurement registers. [8 × 512; 16 R292; DC 0] -/
  measure : List (List Byte)
  /-- Nonce of the last attestation request. [256; 16 R293; none] -/
  nonce : Option (List Byte)
  /-- Encapsulation keys made so far. MODEL'S OWN. [-; 16 R293; 0] -/
  kemKeys : Nat
  /-- Present session. [-; 16 R293; none] -/
  session : Option Session
  /-- Session established and not yet in use. [-; 16 R293; none] -/
  nextSession : Option Session
  /-- Sessions established so far. [32; 16 R293; DC 0] -/
  sessions : BitVec 32
  /-- A first session has been established. [1; 16 R297; 0] -/
  everSession : Bool
  /-- Datagrams dropped. [-; 16 R295; 0] -/
  dropped : Nat
  /-- Latency tolerance, µs. [32; 16 R295; 0] -/
  tolerance : BitVec 32
  /-- The package is in retention. [1; 16 Table 16.3; 0] -/
  retention : Bool
  /-- The board controller has removed package power, and only it wakes the module. [1; 16 R299; 0] -/
  asleep : Bool
  /-- Kalends time of the last balancer sample. [64; 03 R71; 0] -/
  sampleAt : Nat
  /-- Balancer periods so far. [-; 03 R71; 0] -/
  periods : Nat
  /-- Kalends time of the last power sample. [64; 16 R300; 0] -/
  powerAt : Nat
  /-- Kalends time of the last scrub. [64; 14 R275; 0] -/
  scrubAt : Nat
  /-- ERRCNT. [64; 14 Table 14.10; 0] -/
  errcnt : DWord
  /-- Firmware's own ASID, once it has a context. [10; 14 R264; none] -/
  fwAsid : Option Nat
  /-- Messages to other devices and to the host, oldest first. [-; 16 R294; none] -/
  outbox : List Msg
  /-- Which agents move next; empty: the default choice. MODEL'S OWN. [-; log 2; none] -/
  agenda : List Turn
  /-- The split whose turn it is. MODEL'S OWN. [-; log 2; DC 0] -/
  port : Port
  /-- Counter of the free values drawn. MODEL'S OWN. [-; log 3; DC 0] -/
  draws : Nat
  /-- The co-issue under way within a step. MODEL'S OWN. [-; 06 R130; off] -/
  joint : Joint
deriving DecidableEq, Repr

/-- A core in its initial state: nothing cached, nothing resident. The tables' entries are the reset values of the
fields; every register without a stated reset value is zero (assumption log entry 1). -/
def Core.init (position : Nat) : Core :=
  { pts := 0, ptsAt := 0, l1d := [], partials := [], itlb := [], dtlb := [], scratch := [], tiles := [], mshr := [],
    oplog := [], ops := [], serial := 0, copyQ := [], gathQ := [[], []], matQ := [], unitOwn := [], xferQ := [], grants := [],
    frees := [], pmcnt := List.replicate 8 0, pmctl := List.replicate 8 0, pmwrap := [], order := 0,
    lastSwap := [0, 0, 0, 0], sampled := [0, 0, 0, 0], sampledAt := [0, 0, 0, 0], quarterAt := [0, 0, 0, 0], lastIssue := 0, errors := [], halted := false, haltOps := [],
    haltFrom := [], withdrawn := false, phys := position, handoff := none, l1i := [], scrTs := 0, opTs := [], strm := [] }

/-- A die in its initial state (04 Table 4.9; 01 R14: positions 0–127 bound to physical cores 0–127). -/
def Die.init : Die :=
  { tlb := [], budget := 448, ramp := 64, inuse := 0, reqs := [], grants := [],
    spares := [128, 129, 130, 131, 132, 133, 134, 135], gated := false, wakeAt := 0, cut := 0, partials := [], ctrTs := [] }

/-- A context as firmware makes it resident, before it writes its records: every field at its reset value. -/
def Ctx.init : Ctx :=
  { peers := [], recAsid := 0, root := 0, hbase := 0, hlimit := 0, hoff := 0, fqBase := 0, fqLsize := 0, fqHead := 0, fqTail := 0, records := [],
    lease := 10, timeout := 2 ^ 24, suspended := false, ptag := 0, firmware := false, handles := [], nextLaunch := 0,
    alms := [], dbgctl := 0x40, sbBase := 0, sbWptr := 0, sbRptr := 0, sbLost := 0,
    watch := List.replicate 4 { w0 := 0, w1 := 0 }, sigs := [] }

/-- The device right after module reset: nothing resident, no firmware yet (16 R292), counters zero (13 R241), cycle
zero (05 Table 5.4), memory with nothing listed. -/
def State.reset : State :=
  { mem := [], poison := [], l2 := [], mts := [], rebases := 0, rebasing := false, cores := [], blocks := [],
    dies := [], ioPartials := [], ctxs := [], rings := [], lastRing := List.replicate 8 0, pkts := [], nextPkt := 0, grids := [],
    nextGrid := 0, pipes := [], counters := [], ctrTs := [], remTs := 0, ctrOwner := [], vigOwner := [], vigils := [], firing := [], arms := [],
    flits := [], groups := [], holidays := [], nextHoliday := 0, chunks := [], chunkSeen := [], chunkWait := [],
    nextTag := 0, remPend := [], remIns := [], nsendWait := [], nsendAck := [], nsendTo := [], mcasts := [], rank := 0, inPod := false, macsec := List.replicate 20 0#64,
    kalends := 0, cycle := 0, rate := 0, ratefrac := 0, locked := false, boot := .off,
    measure := List.replicate 8 (List.replicate 64 0), nonce := none, kemKeys := 0, session := none, nextSession := none,
    sessions := 0, everSession := false, dropped := 0, tolerance := 0, retention := false, asleep := false, sampleAt := 0, periods := 0,
    powerAt := 0, scrubAt := 0, errcnt := 0, fwAsid := none, outbox := [], agenda := [],
    port := { core := 0, slot := 0, warp := 0, split := 0 }, draws := 0, joint := .off }

end Sys2Proof.Machine
end

