-- ==== Sys2Proof/Machine/Memory.lean ====
section
/-! DEFINITION. Byte memories in canonical form: HBM, a core's scratch and a core's tile file. An unlisted address
reads as zero (DESIGN CHOICE, log 6: the specification states no contents after reset). -/

namespace Sys2Proof.Machine

open Sys2Proof

/-- A byte memory: addresses strictly rising, no entry equal to zero. -/
abbrev Mem := List Host.Cell

/-- What an unlisted address reads as (log 6). -/
def Mem.blank : Byte := 0#8

/-- Addresses rise strictly from `lo` on and no entry holds the blank byte. -/
def Mem.wfFrom (lo : Nat) : Mem → Bool
  | [] => true
  | (a, b) :: r => decide (lo ≤ a) && (b != Mem.blank) && Mem.wfFrom (a + 1) r

/-- The canonical form. -/
def Mem.wf (m : Mem) : Bool := Mem.wfFrom 0 m

/-- The byte at an address. -/
def Mem.read : Mem → Nat → Byte
  | [], _ => Mem.blank
  | (a, b) :: r, x => if a = x then b else if x < a then Mem.blank else Mem.read r x

/-- Adds an entry, or leaves it out when it holds the blank byte. -/
def Mem.cons (a : Nat) (b : Byte) (r : Mem) : Mem := if b = Mem.blank then r else (a, b) :: r

/-- Writes the byte at an address, keeping the canonical form. -/
def Mem.write : Mem → Nat → Byte → Mem
  | [], x, v => Mem.cons x v []
  | (a, b) :: r, x, v =>
    if a = x then Mem.cons x v r
    else if x < a then Mem.cons x v ((a, b) :: r)
    else (a, b) :: Mem.write r x v

/-- Reads `n` bytes from an address upward. -/
def Mem.readN (m : Mem) (a n : Nat) : List Byte := (List.range n).map fun i => m.read (a + i)

/-- Writes a list of bytes from an address upward. -/
def Mem.writeN (m : Mem) (a : Nat) : List Byte → Mem
  | [] => m
  | b :: r => Mem.writeN (m.write a b) (a + 1) r

/-- The little-endian number in `n` bytes from an address (00 R4). -/
def Mem.num (m : Mem) (a n : Nat) : Nat := ofBytes (m.readN a n)

/-- Stores a number in `n` bytes, little-endian (00 R4). -/
def Mem.store (m : Mem) (a n v : Nat) : Mem := m.writeN a (toBytes n v)

end Sys2Proof.Machine
end

