-- ==== Sys2Proof/Machine/Access.lean ====
section
/-! DEFINITION. Reading and replacing the parts of the state: cores, blocks, warps, splits, registers, contexts,
pipes. Every meaning goes through these. -/

namespace Sys2Proof.Machine

open Sys2Proof

namespace State

/-- Core `c` (01 Table 1.2). -/
def core (s : State) (c : Nat) : Core := s.cores.getD c (Core.init (c % 128))

/-- Replaces core `c`. -/
def setCore (s : State) (c : Nat) (x : Core) : State := { s with cores := s.cores.put c x }

/-- Changes core `c`. -/
def modCore (s : State) (c : Nat) (f : Core → Core) : State := s.setCore c (f (s.core c))

/-- Key of a block slot. -/
def blockKey (c slot : Nat) : Nat := c * 96 + slot

/-- The block in a core's slot, if one is resident (02 R40). -/
def block? (s : State) (c slot : Nat) : Option Block := s.blocks.get? (blockKey c slot)

/-- Places or replaces a block. -/
def setBlock (s : State) (c slot : Nat) (b : Block) : State := { s with blocks := s.blocks.put (blockKey c slot) b }

/-- Changes a resident block. -/
def modBlock (s : State) (c slot : Nat) (f : Block → Block) : State :=
  { s with blocks := modKey s.blocks (blockKey c slot) f }

/-- Removes a block. -/
def delBlock (s : State) (c slot : Nat) : State := { s with blocks := s.blocks.del (blockKey c slot) }

/-- Warp `w` of a resident block. -/
def warp? (s : State) (c slot w : Nat) : Option Warp := (s.block? c slot).bind fun b => b.warps[w]?

/-- Changes warp `w` of a resident block. -/
def modWarp (s : State) (c slot w : Nat) (f : Warp → Warp) : State :=
  s.modBlock c slot fun b => { b with warps := modAt b.warps w f }

/-- Changes split `k` of a warp. -/
def modSplit (s : State) (c slot w k : Nat) (f : Split → Split) : State :=
  s.modWarp c slot w fun x => { x with splits := modAt x.splits k f }

/-- Split `k` of a warp. -/
def split? (s : State) (c slot w k : Nat) : Option Split := (s.warp? c slot w).bind fun x => x.splits[k]?

/-- Die `d`. -/
def die (s : State) (d : Nat) : Die := s.dies.getD d Die.init

/-- Changes die `d`. -/
def modDie (s : State) (d : Nat) (f : Die → Die) : State := { s with dies := s.dies.put d (f (s.die d)) }

/-- The context of an ASID (its initial state if firmware has not made it resident). -/
def ctx (s : State) (asid : Nat) : Ctx := s.ctxs.getD asid Ctx.init

/-- Changes a context. -/
def modCtx (s : State) (asid : Nat) (f : Ctx → Ctx) : State := { s with ctxs := s.ctxs.put asid (f (s.ctx asid)) }

/-- Changes a grid. -/
def modGrid (s : State) (g : Nat) (f : Grid → Grid) : State := { s with grids := modKey s.grids g f }

/-- Changes a pipe. -/
def modPipe (s : State) (p : Nat) (f : Pipe → Pipe) : State := { s with pipes := modKey s.pipes p f }

/-- Changes a packet. -/
def modPkt (s : State) (k : Nat) (f : Packet → Packet) : State := { s with pkts := modKey s.pkts k f }

/-- Changes an operation entry. -/
def modOp (s : State) (c e : Nat) (f : OpEntry → OpEntry) : State :=
  s.modCore c fun x => { x with ops := modKey x.ops e f }

/-- An operation entry. -/
def op? (s : State) (c e : Nat) : Option OpEntry := (s.core c).ops.get? e

/-- Kalends ticks that have passed since a time; kalends wraps (16 R297). -/
def passed (s : State) (since : Nat) : Nat := (s.kalends - BitVec.ofNat 64 since).toNat

/-- Appends a message to the outbox. -/
def send (s : State) (m : Msg) : State := { s with outbox := s.outbox ++ [m] }

/-- Draws a free value (log 3). -/
def draw (s : State) : Nat × State := (Config.freeNat s.draws, { s with draws := s.draws + 1 })

end State

/-- Key of a pipe: context, almanac, index. -/
def pipeKey (asid alm idx : Nat) : Nat := (asid * 16 + alm) * 128 + idx

/-- Context of a pipe key. -/
def pipeAsid (k : Nat) : Nat := k / 2048

/-- Almanac of a pipe key. -/
def pipeAlm (k : Nat) : Nat := k / 128 % 16

/-- Index of a pipe key. -/
def pipeIdx (k : Nat) : Nat := k % 128

/-- Die of a global core (01 R13). -/
def coreDie (c : Nat) : Nat := c / 128

/-- Reads scalar register `n` of a warp (05 R105). -/
def Warp.s (w : Warp) (n : Nat) : DWord := w.sregs.getD n 0#64

/-- Writes scalar register `n` of a warp. -/
def Warp.setS (w : Warp) (n : Nat) (v : DWord) : Warp := { w with sregs := setAt w.sregs n v }

/-- Reads lane `l` of vector register `n` (the numbers of 05 R96). -/
def Warp.v (w : Warp) (n l : Nat) : Word := (w.vregs.getD n (Vec.splat 0)).lane l

/-- Replaces vector register `n`. -/
def Warp.setVec (w : Warp) (n : Nat) (x : Vec) : Warp := { w with vregs := setAt w.vregs n x }

/-- Writes lane `l` of vector register `n`. -/
def Warp.setV (w : Warp) (n l : Nat) (x : Word) : Warp := { w with vregs := modAt w.vregs n (fun r => r.set l x) }

/-- Reads index register `k` in lane `l` (05 R99). -/
def Warp.x (w : Warp) (k l : Nat) : Word := (w.xregs.getD k (Vec.splat 0)).lane l

/-- Split `k` of a warp, or an invalid one. -/
def Warp.split (w : Warp) (k : Nat) : Option Split := w.splits[k]?

/-- The valid splits of a warp, with their slots. -/
def Warp.valid (w : Warp) : List (Nat × Split) := (w.splits.zipIdx.map fun p => (p.2, p.1)).filter fun p => p.2.valid

/-- A split-table entry that holds no split (06 Table 6.3). -/
def Split.empty : Split :=
  { lanes := 0, em := 0, pc := 0, valid := false, depth := 0, jwait := false, rwait := false, jtimer := 0, jdue := 0, sig := 0,
    hints := [], landed := false, hist := [], wins := [], stall := .issued, lastIssue := 0, redo := none,
    faultWait := false, rem := [], seen := 0, await := none, operands := none }

/-- The split table of a warp at its start (06 R118). -/
def Split.start (em : Mask) (pc : BitVec 64) : List Split :=
  { Split.empty with lanes := 0xFFFFFFFFFFFFFFFF#64, em := em, pc := pc, valid := true, landed := true } ::
    List.replicate 7 Split.empty

end Sys2Proof.Machine
end

