-- ==== Sys2Proof/Machine/Flags.lean ====
section
/-! DEFINITION. The number formats, rounding and the floating-point flags (07). Values are held exactly, as a sign, a
natural mantissa and a power of two, and rounded once. -/

namespace Sys2Proof.Machine

open Sys2Proof

/-- How a format encodes NaN and infinity (07 Table 7.1). -/
inductive NanKind where
  /-- infinity and NaN at the top exponent -/
  | ieee
  /-- no infinity; one NaN pattern per sign, the largest code (e4m3) -/
  | top
  /-- neither -/
  | none
deriving DecidableEq, Repr

/-- A floating-point format (07 Table 7.1). -/
structure Fmt where
  /-- exponent bits -/
  exp : Nat
  /-- mantissa bits -/
  man : Nat
  /-- bias -/
  bias : Nat
  /-- specials -/
  nan : NanKind
  /-- canonical NaN (07 Table 7.2) -/
  cnan : Nat
  /-- flushed by ftz (07 R142) -/
  flush : Bool
deriving DecidableEq, Repr

/-- f64 (07 Table 7.1). -/
def Fmt.f64 : Fmt := { exp := 11, man := 52, bias := 1023, nan := .ieee, cnan := 0x7FF8000000000000, flush := false }
/-- f32. -/
def Fmt.f32 : Fmt := { exp := 8, man := 23, bias := 127, nan := .ieee, cnan := 0x7FC00000, flush := true }
/-- f16. -/
def Fmt.f16 : Fmt := { exp := 5, man := 10, bias := 15, nan := .ieee, cnan := 0x7E00, flush := true }
/-- bf16. -/
def Fmt.bf16 : Fmt := { exp := 8, man := 7, bias := 127, nan := .ieee, cnan := 0x7FC0, flush := true }
/-- e5m2. -/
def Fmt.e5m2 : Fmt := { exp := 5, man := 2, bias := 15, nan := .ieee, cnan := 0x7F, flush := false }
/-- e4m3. -/
def Fmt.e4m3 : Fmt := { exp := 4, man := 3, bias := 7, nan := .top, cnan := 0x7F, flush := false }
/-- e3m2. -/
def Fmt.e3m2 : Fmt := { exp := 3, man := 2, bias := 3, nan := .none, cnan := 0, flush := false }
/-- e2m3. -/
def Fmt.e2m3 : Fmt := { exp := 2, man := 3, bias := 1, nan := .none, cnan := 0, flush := false }
/-- e2m1. -/
def Fmt.e2m1 : Fmt := { exp := 2, man := 1, bias := 1, nan := .none, cnan := 0, flush := false }

/-- Total width of a format in bits. -/
def Fmt.width (f : Fmt) : Nat := 1 + f.exp + f.man

/-- The smallest normal exponent 1 − bias. -/
def Fmt.emin (f : Fmt) : Int := 1 - (f.bias : Int)

/-- Code of the largest finite magnitude (07 Table 7.1). -/
def Fmt.maxCode (f : Fmt) : Nat :=
  match f.nan with
  | .ieee => (2 ^ f.exp - 2) * 2 ^ f.man + (2 ^ f.man - 1)
  | .top => 2 ^ (f.exp + f.man) - 2
  | .none => 2 ^ (f.exp + f.man) - 1

/-- A decoded value: a NaN (signalling or quiet), an infinity, or (−1)^neg × m × 2^e (07 R133). -/
inductive FVal where
  | nan (signalling : Bool)
  | inf (neg : Bool)
  | fin (neg : Bool) (m : Nat) (e : Int)
deriving DecidableEq, Repr

/-- The value of a magnitude code (exponent and mantissa fields). -/
def Fmt.magnitude (f : Fmt) (code : Nat) : Nat × Int :=
  let e := code / 2 ^ f.man
  let m := code % 2 ^ f.man
  if e = 0 then (m, f.emin - f.man) else (2 ^ f.man + m, (e : Int) - f.bias - f.man)

/-- Decodes a bit pattern (07 R133, R134). -/
def Fmt.decode (f : Fmt) (x : Nat) : FVal :=
  let neg := x / 2 ^ (f.exp + f.man) % 2 == 1
  let code := x % 2 ^ (f.exp + f.man)
  let e := code / 2 ^ f.man
  let m := code % 2 ^ f.man
  match f.nan with
  | .ieee =>
    if e = 2 ^ f.exp - 1 then
      if m = 0 then .inf neg
      else .nan (f.man ≠ 2 && m < 2 ^ (f.man - 1))
    else .fin neg (f.magnitude code).1 (f.magnitude code).2
  | .top =>
    if code = 2 ^ (f.exp + f.man) - 1 then .nan false
    else .fin neg (f.magnitude code).1 (f.magnitude code).2
  | .none => .fin neg (f.magnitude code).1 (f.magnitude code).2

/-- The sign bit of a format. -/
def Fmt.signBit (f : Fmt) (neg : Bool) : Nat := if neg then 2 ^ (f.exp + f.man) else 0

/-- The code of infinity (formats that have it). -/
def Fmt.infCode (f : Fmt) (neg : Bool) : Nat := f.signBit neg + (2 ^ f.exp - 1) * 2 ^ f.man

/-- The code of the largest finite value with a sign. -/
def Fmt.maxFinite (f : Fmt) (neg : Bool) : Nat := f.signBit neg + f.maxCode

/-- The floating-point flags of Table 7.4. -/
structure Flags where
  nv : Bool := false
  dz : Bool := false
  ovf : Bool := false
  uf : Bool := false
  nx : Bool := false
  sat : Bool := false
  fz : Bool := false
deriving DecidableEq, Repr

/-- Union of two sets of flags. -/
def Flags.or (a b : Flags) : Flags :=
  { nv := a.nv || b.nv, dz := a.dz || b.dz, ovf := a.ovf || b.ovf, uf := a.uf || b.uf, nx := a.nx || b.nx,
    sat := a.sat || b.sat, fz := a.fz || b.fz }

/-- The flags as the bits of fpflags (07 Table 7.4). -/
def Flags.toBits (f : Flags) : BitVec 8 :=
  BitVec.ofNat 8 (b2n f.nv + 2 * b2n f.dz + 4 * b2n f.ovf + 8 * b2n f.uf + 16 * b2n f.nx + 32 * b2n f.sat + 64 * b2n f.fz)

/-- No flag. -/
def Flags.zero : Flags := {}

/-- The flag nv alone. -/
def Flags.invalid : Flags := { nv := true }

/-- Rounding modes (07 R138, R139); `sr r` carries the 16 random bits of the rounding. -/
inductive RMode where
  | rne | rz | rd | ru
  | sr (r : Nat)
deriving DecidableEq, Repr

/-- The mode of a two-bit code (07 Table 7.3). -/
def RMode.ofCode : Nat → RMode
  | 0 => .rne
  | 1 => .rz
  | 2 => .rd
  | _ => .ru

/-- How an instruction rounds and flushes. -/
structure FEnv where
  /-- mode -/
  mode : RMode
  /-- effective flush setting (07 R142) -/
  ftz : Bool
  /-- saturate (07 R144) -/
  sat : Bool
deriving DecidableEq, Repr

/-- Round to nearest, ties to even, no flush, no saturation. -/
def FEnv.rne : FEnv := { mode := .rne, ftz := false, sat := false }

/-- Whether a truncated magnitude `m` goes up: `rem / 2^sh` is the discarded part of one unit (07 R138, R139); `more` says
that the exact value lies above that by less than one unit of `rem`. -/
def roundUp (mode : RMode) (neg : Bool) (m rem sh : Nat) (more : Bool) : Bool :=
  match mode with
  | .rne =>
    if sh = 0 then false
    else
      let half := 2 ^ (sh - 1)
      if rem > half then true
      else if rem = half then more || m % 2 == 1
      else false
  | .rz => false
  | .rd => neg && (rem != 0 || more)
  | .ru => !neg && (rem != 0 || more)
  | .sr r => decide (r < rem * 2 ^ 16 / 2 ^ sh)

/-- Bits needed to write a number. -/
def bitLen (x : Nat) : Nat := if x = 0 then 0 else x.log2 + 1

/-- Rounds the magnitude m × 2^e to multiples of 2^q: the multiple, and whether the value changed. -/
def roundAt (mode : RMode) (neg : Bool) (m : Nat) (e q : Int) (more : Bool) : Nat × Bool :=
  if q ≤ e then (m * 2 ^ (e - q).toNat, more)
  else
    let sh := (q - e).toNat
    let t := m / 2 ^ sh
    let rem := m % 2 ^ sh
    (if roundUp mode neg t rem sh more then t + 1 else t, rem != 0 || more)

/-- Whether overflow goes to infinity (otherwise to the largest finite value), by mode and sign (07 R144, R139). -/
def overflowToInf (mode : RMode) (neg : Bool) : Bool :=
  match mode with
  | .rne => true
  | .rz => false
  | .rd => neg
  | .ru => !neg
  | .sr _ => true

/-- Result of an overflow (07 R144, Table 7.7). -/
def Fmt.overflow (f : Fmt) (env : FEnv) (neg : Bool) : Nat × Flags :=
  if env.sat then (f.maxFinite neg, { sat := true })
  else
    let fl : Flags := { ovf := true, nx := true }
    if overflowToInf env.mode neg then
      match f.nan with
      | .ieee => (f.infCode neg, fl)
      | .top => (f.cnan, fl)
      | .none => (f.maxFinite neg, fl)
    else (f.maxFinite neg, fl)

/-- Rounds the exact nonzero magnitude m × 2^e (a little above it when `more`) into a format: flags nx, uf, of, sat and fz
of R141, R142, R144. Tininess is detected after rounding. The caller supplies enough bits that `more` lies below the
last place kept. -/
def Fmt.roundFin (f : Fmt) (env : FEnv) (neg : Bool) (m : Nat) (e : Int) (more : Bool) : Nat × Flags :=
  if m = 0 then (f.signBit neg, {})
  else
    let top : Int := e + (bitLen m : Int) - 1
    let q : Int := (if top < f.emin then f.emin else top) - (f.man : Int)
    let (r, inexact) := roundAt env.mode neg m e q more
    let (r, q) : Nat × Int := if r = 2 ^ (f.man + 1) then (2 ^ f.man, q + 1) else (r, q)
    -- the code of r × 2^q: subnormal when r < 2^man
    let ecode : Int := q + (f.man : Int) + (f.bias : Int)
    let code : Int := if r < 2 ^ f.man then (r : Int) else ecode * 2 ^ f.man + ((r : Int) - 2 ^ f.man)
    if code > (f.maxCode : Int) then f.overflow env neg
    else
      let (u, _) := roundAt env.mode neg m e (top - (f.man : Int)) more
      let tiny := decide (top + 1 < f.emin) || (decide (top < f.emin) && decide (u < 2 ^ (f.man + 1)))
      if env.ftz && f.flush && r < 2 ^ f.man && r != 0 then
        (f.signBit neg, { uf := true, nx := true, fz := true })
      else
        (f.signBit neg + code.toNat, { nx := inexact, uf := inexact && tiny })

/-- Reads an operand: its value after the input flush of R142, and fz if it was flushed. -/
def Fmt.input (f : Fmt) (ftz : Bool) (x : Nat) : FVal × Flags :=
  match f.decode x with
  | .fin neg m e =>
    if ftz && f.flush && m != 0 && m < 2 ^ f.man then (.fin neg 0 e, { fz := true }) else (.fin neg m e, {})
  | v => (v, {})

/-- The canonical NaN, with nv if some operand is signalling (07 R134). -/
def Fmt.nanOf (f : Fmt) (signalling : Bool) : Nat × Flags := (f.cnan, { nv := signalling })

/-- Exact sum of two signed dyadic numbers: sign, magnitude, exponent; zero sums take the sign `zneg`. -/
def addExact (n1 : Bool) (m1 : Nat) (e1 : Int) (n2 : Bool) (m2 : Nat) (e2 : Int) (zneg : Bool) : Bool × Nat × Int :=
  let e := if e1 < e2 then e1 else e2
  let a : Int := (if n1 then -1 else 1) * ((m1 * 2 ^ (e1 - e).toNat : Nat) : Int)
  let b : Int := (if n2 then -1 else 1) * ((m2 * 2 ^ (e2 - e).toNat : Nat) : Int)
  let c := a + b
  if c = 0 then (zneg, 0, e) else (decide (c < 0), c.natAbs, e)

/-- Sign of an exact zero sum: the common sign, else − only when rounding toward −∞ (07 R144, IEEE 754). -/
def zeroSumNeg (mode : RMode) (n1 n2 : Bool) : Bool := if n1 = n2 then n1 else mode == .rd

/-- Sum of two values in a format (07 R144). -/
def Fmt.addV (f : Fmt) (env : FEnv) (a b : FVal) : Nat × Flags :=
  match a, b with
  | .nan s, .nan t => f.nanOf (s || t)
  | .nan s, _ => f.nanOf s
  | _, .nan t => f.nanOf t
  | .inf s, .inf t => if s = t then (f.infCode s, {}) else (f.cnan, Flags.invalid)
  | .inf s, _ => (f.infCode s, {})
  | _, .inf t => (f.infCode t, {})
  | .fin n1 m1 e1, .fin n2 m2 e2 =>
    let (n, m, e) := addExact n1 m1 e1 n2 m2 e2 (zeroSumNeg env.mode n1 n2)
    f.roundFin env n m e false

/-- Negates a value. -/
def FVal.neg : FVal → FVal
  | .nan s => .nan s
  | .inf n => .inf (!n)
  | .fin n m e => .fin (!n) m e

/-- Product of two values (07 R144). -/
def Fmt.mulV (f : Fmt) (env : FEnv) (a b : FVal) : Nat × Flags :=
  match a, b with
  | .nan s, .nan t => f.nanOf (s || t)
  | .nan s, _ => f.nanOf s
  | _, .nan t => f.nanOf t
  | .inf s, .inf t => (f.infCode (s != t), {})
  | .inf s, .fin n m _ => if m = 0 then (f.cnan, Flags.invalid) else (f.infCode (s != n), {})
  | .fin n m _, .inf s => if m = 0 then (f.cnan, Flags.invalid) else (f.infCode (s != n), {})
  | .fin n1 m1 e1, .fin n2 m2 e2 => f.roundFin env (n1 != n2) (m1 * m2) (e1 + e2) false

/-- Product plus addend, rounded once; a product of 0 and ∞ raises nv whatever the addend (07 R144). -/
def Fmt.fmaV (f : Fmt) (env : FEnv) (a b c : FVal) : Nat × Flags :=
  let sig (v : FVal) : Bool := match v with | .nan s => s | _ => false
  let isNan (v : FVal) : Bool := match v with | .nan _ => true | _ => false
  let zeroInf : Bool :=
    match a, b with
    | .inf _, .fin _ m _ => m == 0
    | .fin _ m _, .inf _ => m == 0
    | _, _ => false
  if zeroInf then (f.cnan, Flags.invalid)
  else if isNan a || isNan b || isNan c then f.nanOf (sig a || sig b || sig c)
  else
    match a, b, c with
    | .fin n1 m1 e1, .fin n2 m2 e2, .fin n3 m3 e3 =>
      let np := n1 != n2
      let (n, m, e) := addExact np (m1 * m2) (e1 + e2) n3 m3 e3 (zeroSumNeg env.mode np n3)
      f.roundFin env n m e false
    | .fin _ _ _, .fin _ _ _, .inf t => (f.infCode t, {})
    | x, y, z =>
      let sgn (v : FVal) : Bool := match v with | .inf n => n | .fin n _ _ => n | .nan _ => false
      let np := sgn x != sgn y
      match z with
      | .inf t => if np = t then (f.infCode t, {}) else (f.cnan, Flags.invalid)
      | _ => (f.infCode np, {})

/-- Quotient of two values (07 R144): x / 0 raises dz. -/
def Fmt.divV (f : Fmt) (env : FEnv) (a b : FVal) : Nat × Flags :=
  match a, b with
  | .nan s, .nan t => f.nanOf (s || t)
  | .nan s, _ => f.nanOf s
  | _, .nan t => f.nanOf t
  | .inf _, .inf _ => (f.cnan, Flags.invalid)
  | .inf s, .fin n _ _ => (f.infCode (s != n), {})
  | .fin n _ _, .inf s => (f.signBit (n != s), {})
  | .fin n1 m1 e1, .fin n2 m2 e2 =>
    if m2 = 0 then
      if m1 = 0 then (f.cnan, Flags.invalid) else (f.infCode (n1 != n2), { dz := true })
    else if m1 = 0 then (f.signBit (n1 != n2), {})
    else
      let x := m1 * 2 ^ 130
      f.roundFin env (n1 != n2) (x / m2) (e1 - e2 - 130) (x % m2 != 0)

/-- Integer square root by bits, from bit `n - 1` down: the largest r with r² ≤ x among those above `acc`. -/
def isqrt (x acc : Nat) : Nat → Nat
  | 0 => acc
  | n + 1 =>
    let t := acc + 2 ^ n
    isqrt x (if t * t ≤ x then t else acc) n

/-- Square root of a value (07 R144, Table 7.5). -/
def Fmt.sqrtV (f : Fmt) (env : FEnv) (a : FVal) : Nat × Flags :=
  match a with
  | .nan s => f.nanOf s
  | .inf n => if n then (f.cnan, Flags.invalid) else (f.infCode false, {})
  | .fin n m e =>
    if m = 0 then (f.signBit n, {})
    else if n then (f.cnan, Flags.invalid)
    else
      let (m2, e2) : Nat × Int := if e % 2 = 0 then (m, e) else (m * 2, e - 1)
      let x := m2 * 2 ^ 140
      let r := isqrt x 0 128
      f.roundFin env false r (e2 / 2 - 70) (r * r != x)

/-- A binary operation on bit patterns, with the input flush of R142. -/
def Fmt.bin (f : Fmt) (env : FEnv) (op : FVal → FVal → Nat × Flags) (a b : Nat) : Nat × Flags :=
  let (x, fx) := f.input env.ftz a
  let (y, fy) := f.input env.ftz b
  let (r, fr) := op x y
  (r, (fx.or fy).or fr)

/-- Converts a value into a format by R147 for narrow, IEEE and wide floats: Table 7.7's columns, else one rounding. -/
def Fmt.convV (f : Fmt) (env : FEnv) (v : FVal) : Nat × Flags :=
  match v with
  | .nan s => match f.nan with
    | .none => (0, Flags.invalid)
    | _ => f.nanOf s
  | .inf n =>
    if env.sat then (f.maxFinite n, { sat := true })
    else match f.nan with
      | .ieee => (f.infCode n, {})
      | .top => (f.cnan, Flags.invalid)
      | .none => (f.maxFinite n, Flags.invalid)
  | .fin n m e => f.roundFin env n m e false

/-- The next state of a lane's stochastic-rounding generator (07 R139). -/
def srNext (x : Word) : Word :=
  let x := x ^^^ (x <<< 13)
  let x := x ^^^ (x >>> 17)
  x ^^^ (x <<< 5)

/-- The 16 random bits of a generator state (07 R139). -/
def srBits (x : Word) : Nat := bits x 16 16

/-- Rounds an exact value to an integer in a mode: sign, magnitude, inexact (07 R147). -/
def roundInt (mode : RMode) (neg : Bool) (m : Nat) (e : Int) : Nat × Bool := roundAt mode neg m e 0 false

end Sys2Proof.Machine
end

