-- ==== Sys2Proof/Machine/Home.lean ====
section
/-! DEFINITION. Trigger counters, home agents, L2 lines, lease timestamps and commutative-update state (08 R161 to R167,
13 R241 to R251). Every access at home of any agent goes through `homeRead` and `homeWrite`. -/

namespace Sys2Proof.Machine

open Sys2Proof

/-- A counter value meets a threshold (13 R241). -/
def meets (c h : DWord) : Bool := (c - h).toNat < 2 ^ 63

/-- Fields of a vigil record (13 Table 13.5). -/
def Vigil.ctr (v : Vigil) : Nat := recField v.words 0 0 12

/-- Lease time that a firing takes on: the counter's, when it is an acquire that reaches cores, which the vigil unit's place on the I/O
die leaves to device scope and wider (13 R245; 09 Table 9.2). Any other firing takes on none (DESIGN CHOICE, log 61). -/
def Vigil.acquired (v : Vigil) (t : BitVec 20) : BitVec 20 :=
  if recField v.words 0 29 1 = 1 ∧ 3 ≤ recField v.words 0 31 3 then t else 0#20

/-- Evaluates the armed vigils on a counter after an update: those that the value meets move to firing, in ascending
slot order (13 R251), with the lease time of the releases counted so far. -/
def evalVigils (s : State) (ctr : Nat) : State :=
  let c := s.counters.getD ctr 0#64
  let hit := (s.vigils.filter fun p => p.2.st == .armed && p.2.ctr == ctr && meets c (wordAt p.2.words 1)).map (·.1)
  { s with
    vigils := s.vigils.map fun p =>
      if p.1 ∈ hit then (p.1, { p.2 with st := .firing, fireTs := p.2.acquired (s.ctrTs.getD ctr 0#20) }) else p
    firing := s.firing ++ hit }

/-- Sets a counter and evaluates its vigils: one update (13 R242, R251). -/
def ctrSet (s : State) (ctr : Nat) (v : DWord) : State :=
  evalVigils { s with counters := s.counters.put ctr v } ctr

/-- Adds to a counter, modulo 2^64 (13 R242). -/
def ctrAdd (s : State) (ctr : Nat) (v : DWord) : State := ctrSet s ctr (s.counters.getD ctr 0#64 + v)

/-- Larger of two timestamps. -/
def tsMax (a b : BitVec 20) : BitVec 20 := if a.toNat < b.toNat then b else a

/-- An update of a counter that is a release at device scope or wider, by an agent with lease time `t`, which an acquire of the counter
takes on (13 R245; log 16). -/
def ctrRelease (s : State) (ctr : Nat) (v : DWord) (t : BitVec 20) : State :=
  ctrAdd { s with ctrTs := s.ctrTs.put ctr (tsMax (s.ctrTs.getD ctr 0#20) t) } ctr v

/-- Line address PA[51:7] of a physical address. -/
def lineOf (pa : Nat) : Nat := pa / 128

/-- Home slice of a line (08 R161). -/
def homeSlice (a : Nat) : Nat := ((a % 2 ^ 16) ^^^ (a / 2 ^ 16 % 2 ^ 16) ^^^ (a / 2 ^ 32 % 2 ^ 13)) % 96

/-- Bytes `[o, o + n)` of a line as a number. -/
def lineNum (d : Line) (o n : Nat) : Nat := d.toNat / 2 ^ (8 * o) % 2 ^ (8 * n)

/-- Replaces bytes `[o, o + n)` of a line. -/
def lineSet (d : Line) (o n v : Nat) : Line :=
  let m := (2 ^ (8 * n) - 1) * 2 ^ (8 * o)
  BitVec.ofNat 1024 ((d.toNat &&& (2 ^ 1024 - 1 - m)) ||| (v % 2 ^ (8 * n) * 2 ^ (8 * o)))

/-- The 32-bit words of a line named by a mask are taken from `b`, the others from `a`. -/
def mergeWords (a b : Line) (m : BitVec 32) : Line :=
  (List.range 32).foldl (fun d i => if m.getLsbD i then lineSet d (4 * i) 4 (lineNum b (4 * i) 4) else d) a

/-- The line as HBM holds it. -/
def hbmLine (m : Mem) (a : Nat) : Line := BitVec.ofNat 1024 (m.num (128 * a) 128)

/-- Writes a line back to HBM. -/
def hbmStore (m : Mem) (a : Nat) (d : Line) : Mem := m.store (128 * a) 128 d.toNat

/-- Arm-table counting of a write at home to `n` bytes from `pa`: for each aligned 8-byte unit of the range it touches,
1 or the unit's value after the write (13 R244). The increments of a release are applied at once, with the writer's lease time; the
others travel as flits (13 R243). -/
def armCount (s : State) (pa n : Nat) (release : Option (BitVec 20)) (unitVal : Nat → Nat) : State :=
  s.arms.foldl (fun s e =>
    let units := (List.range (n / 8 + 2)).filterMap fun i =>
      let u := (pa / 8 + i) * 8
      if u < pa + n && e.pa ≤ u && u < e.pa + e.len then some u else none
    let v := units.foldl (fun t u => t + (if e.mode then unitVal u else 1)) 0
    if units.isEmpty then s
    else match release with
    | some t => ctrRelease s e.ctr (BitVec.ofNat 64 v) t
    | none => { s with flits := s.flits ++ [(e.ctr, v)] }) s

/-- Applies every flit on its way (13 R244: a release makes its stores count before it completes). -/
def drainFlits (s : State) : State :=
  s.flits.foldl (fun s p => ctrAdd s p.1 (BitVec.ofNat 64 p.2)) { s with flits := [] }

/-- f32 sum as the commutative-update operators give it: RNE, subnormals kept, NaN canonical (08 Table 8.10). -/
def cuAddF32 (a b : Word) : Word := BitVec.ofNat 32 (Fmt.f32.bin .rne (Fmt.f32.addV .rne) a.toNat b.toNat).1

/-- Order of two f32 patterns that are not NaN, with −0 below +0. -/
def f32Key (a : Word) : Int := if a.getLsbD 31 then -((a.toNat : Int) - 2 ^ 31) - 1 else (a.toNat : Int)

/-- Whether an f32 pattern is a NaN. -/
def f32IsNan (a : Word) : Bool := match Fmt.f32.decode a.toNat with | .nan _ => true | _ => false

/-- f32 minimum or maximum as the commutative-update operators give it (08 Table 8.10). -/
def cuMinMax (isMax : Bool) (a b : Word) : Word :=
  if f32IsNan a || f32IsNan b then 0x7FC00000#32
  else if isMax then (if f32Key a < f32Key b then b else a) else (if f32Key b < f32Key a then b else a)

/-- Combines two partial values by an operator of Table 8.10 (AOP 0–11; bf16 add on f32 partials). -/
def cuCombine (op : Nat) (a b : Word) : Word :=
  match op with
  | 0 => a + b
  | 1 => cuAddF32 a b
  | 2 => cuAddF32 a b
  | 3 => if a.toInt ≤ b.toInt then a else b
  | 4 => if a.toNat ≤ b.toNat then a else b
  | 5 => cuMinMax false a b
  | 6 => if a.toInt ≤ b.toInt then b else a
  | 7 => if a.toNat ≤ b.toNat then b else a
  | 8 => cuMinMax true a b
  | 9 => a &&& b
  | 10 => a ||| b
  | _ => a ^^^ b

/-- Element size of an operator of Table 8.10. -/
def cuSize (op : Nat) : Nat := if op = 2 then 2 else 4

/-- Widens a bf16 half exactly to f32. -/
def bf16ToF32 (h : Nat) : Word := BitVec.ofNat 32 (h % 2 ^ 16 * 2 ^ 16)

/-- Rounds an f32 to bf16, RNE (08 Table 8.10). -/
def f32ToBf16 (x : Word) : Nat := (Fmt.bf16.convV .rne (Fmt.f32.decode x.toNat)).1

/-- The value of a line after several bf16 partials is rounded once, at the end: partials of one line combine in f32
first (08 R167). -/
def joinPartials (ps : List Partial) (d : Line) : Line :=
  match ps with
  | [] => d
  | p :: _ =>
    let z := cuSize p.op
    (List.range (128 / z)).foldl (fun d i =>
      let vs := ps.filterMap fun q => q.elems.get? i
      if vs.isEmpty then d
      else
        let old := lineNum d (z * i) z
        let w : Word := if p.op = 2 then bf16ToF32 old else BitVec.ofNat 32 old
        let r := vs.foldl (cuCombine p.op) w
        lineSet d (z * i) z (if p.op = 2 then f32ToBf16 r else r.toNat)) d

/-- The partials of a line in merging order: cores ascending, compute dies 0 to 5, the I/O die (08 R167). -/
def linePartials (s : State) (a : Nat) : List Partial :=
  s.cores.flatMap (fun c => c.2.partials.filter (·.line == a)) ++
    (List.range 6).flatMap (fun d => (s.die d).partials.filter (·.line == a)) ++ s.ioPartials.filter (·.line == a)

/-- Drops the partials of a line everywhere. -/
def dropPartials (s : State) (a : Nat) : State :=
  let keep (ps : List Partial) := ps.filter fun p => p.line != a
  { s with
    cores := s.cores.map fun c => (c.1, { c.2 with partials := keep c.2.partials })
    dies := s.dies.map fun d => (d.1, { d.2 with partials := keep d.2.partials })
    ioPartials := keep s.ioPartials }

/-- Merges a line in commutative-update state (08 R167): partials joined in order, cu cleared, wts := rts + 1. The arm table counts
every unit that an update reached, changed or not (13 R244). -/
def mergeLine (s : State) (a : Nat) : State :=
  match s.l2.get? a with
  | none => s
  | some h =>
    if !h.cu then s
    else
      let d := joinPartials (linePartials s a) h.data
      let t := h.rts + 1
      let touched := (List.range 16).filter fun u =>
        (linePartials s a).any fun p => p.elems.any fun e => cuSize p.op * e.1 / 8 == u
      let s := dropPartials s a
      let s := { s with l2 := s.l2.put a { h with data := d, dirty := true, cu := false, wts := t, rts := t } }
      touched.foldl (fun s u => armCount s (128 * a + 8 * u) 8 none fun _ => lineNum d (8 * u) 8) s

/-- Evicts one line of L2: its partials merged, written to HBM if dirty, mts raised (08 R161). -/
def evictLine (s : State) (a : Nat) : State :=
  let s := mergeLine s a
  match s.l2.get? a with
  | none => s
  | some h =>
    let sl := homeSlice a
    { s with
      mem := if h.dirty then hbmStore s.mem a h.data else s.mem
      l2 := s.l2.del a
      mts := s.mts.put sl (tsMax (s.mts.getD sl 0#20) h.rts)
      poison := if h.poison && h.dirty then (if a ∈ s.poison then s.poison else a :: s.poison) else s.poison }

/-- A line lies in a pipe's L2 reservation (03 R61). -/
def pinned (s : State) (a : Nat) : Bool :=
  s.pipes.any fun p => p.2.pins.any fun r => decide (128 * a < r.2) && decide (r.1 < 128 * (a + 1))

/-- Lines of a slice that may be evicted: not pinned by a pipe reservation (08 R161). -/
def victims (s : State) (sl : Nat) : List Nat :=
  (s.l2.filter fun p => homeSlice p.1 == sl && !pinned s p.1).map (·.1)

/-- Makes room in a slice of 65,536 lines: `.strm` lines first, else a line that the specification does not name (log 3). -/
def makeRoom (s : State) (sl : Nat) : State :=
  if (s.l2.filter fun p => homeSlice p.1 == sl).length < 65536 then s
  else
    let vs := victims s sl
    let st := vs.filter fun a => match s.l2.get? a with | some h => h.strm | none => false
    let pool := if st.isEmpty then vs else st
    let (n, s) := s.draw
    match pool[n % pool.length]? with
    | none => s
    | some a => evictLine s a

/-- The resident line, fetched from HBM with wts = rts = mts when it is not resident (08 R161). -/
def fetchLine (s : State) (a : Nat) : HomeLine × State :=
  match s.l2.get? a with
  | some h => (h, s)
  | none =>
    let s := makeRoom s (homeSlice a)
    let t := s.mts.getD (homeSlice a) 0#20
    let h : HomeLine :=
      { data := hbmLine s.mem a, dirty := false, wts := t, rts := t, cu := false, poison := decide (a ∈ s.poison),
        strm := false }
    (h, { s with l2 := s.l2.put a h })

/-- Sum of timestamps and a lease length. -/
def tsPlus (t : BitVec 20) (n : Nat) : BitVec 20 := t + BitVec.ofNat 20 n

/-- A read event at home by an agent with logical time `t` and lease length `n` (08 Table 8.8): the line merged first,
rts := max(rts, wts + L, t + L). An engine's read passes n = 0 and leaves wts out (08 R164). -/
def homeRead (s : State) (a : Nat) (t : BitVec 20) (lease : Nat) (engine : Bool) : HomeLine × State :=
  let (_, s) := fetchLine s a
  let s := mergeLine s a
  let (h, s) := fetchLine s a
  let r := if engine then tsMax h.rts t else tsMax (tsMax h.rts (tsPlus h.wts lease)) (tsPlus t lease)
  let h := { h with rts := r }
  (h, { s with l2 := s.l2.put a h })

/-- A write at home by an agent with logical time `t` (08 Table 8.8): wts := max(t, rts + 1), rts := wts. The line's data
becomes `f` of its data; bytes `[o, o + n)` are the ones written, counted by the arm table. Returns the new wts. -/
def homeWrite (s : State) (a : Nat) (t : BitVec 20) (f : Line → Line) (touched : List (Nat × Nat)) (release : Bool) :
    BitVec 20 × State :=
  let (_, s) := fetchLine s a
  let s := mergeLine s a
  let (h, s) := fetchLine s a
  let w := tsMax t (h.rts + 1)
  let d := f h.data
  let s := { s with l2 := s.l2.put a { h with data := d, dirty := true, wts := w, rts := w } }
  (w, touched.foldl (fun s p => armCount s (128 * a + p.1) p.2 (if release then some w else none) fun u => lineNum d (u - 128 * a) 8) s)

/-- Splits a byte range into the lines it touches: line, offset in the line, offset in the range, length. -/
def lineParts (pa n : Nat) : List (Nat × Nat × Nat × Nat) :=
  (List.range (n / 128 + 2)).filterMap fun i =>
    let a := pa / 128 + i
    let lo := if a * 128 < pa then pa else a * 128
    let hi := if pa + n < (a + 1) * 128 then pa + n else (a + 1) * 128
    if lo < hi then some (a, lo - a * 128, lo - pa, hi - lo) else none

/-- Reads `n` bytes of HBM space at home for an engine or the device itself; its time rises to the lines' wts. -/
def readHome (s : State) (pa n : Nat) (t : BitVec 20) : List Byte × BitVec 20 × State :=
  (lineParts pa n).foldl (fun r p =>
    let (h, s) := homeRead r.2.2 p.1 r.2.1 0 true
    (r.1 ++ toBytes p.2.2.2 (lineNum h.data p.2.1 p.2.2.2), tsMax r.2.1 h.wts, s)) ([], t, s)

/-- Writes bytes to HBM space at home for an engine or the device itself. The trace unit's writes are counted by no counter
(`counted`; 15 R288). -/
def writeHome (s : State) (pa : Nat) (bs : List Byte) (t : BitVec 20) (release : Bool) (counted : Bool := true) :
    BitVec 20 × State :=
  (lineParts pa bs.length).foldl (fun r p =>
    let v := ofBytes ((bs.drop p.2.2.1).take p.2.2.2)
    let (w, s) := homeWrite r.2 p.1 r.1 (fun d => lineSet d p.2.1 p.2.2.2 v)
      (if counted then [(p.2.1, p.2.2.2)] else []) release
    (w, s)) (t, s)

/-- Whether some line of a byte range is poisoned (10 R205, 14 Table 14.9). -/
def poisoned (s : State) (pa n : Nat) : Bool :=
  (lineParts pa n).any fun p => match s.l2.get? p.1 with | some h => h.poison | none => decide (p.1 ∈ s.poison)

/-- The largest physical address of HBM plus one (08 Table 8.1). -/
def hbmEnd : Nat := 768 * 2 ^ 30

end Sys2Proof.Machine
end

