-- ==== Sys2Proof/Machine/Translate.lean ====
section
/-! DEFINITION. Address translation: the physical map, the heap triple, the page-table walk, the TLBs and the checks at
a leaf (08 R154 to R158; 10 R195 to R200). -/

namespace Sys2Proof.Machine

open Sys2Proof

/-- The kinds of access that translation tells apart; the numbers of the record's kind field (10 Table 10.6). -/
inductive Acc where
  | load | store | atomic | fetch | engRead | engWrite
deriving DecidableEq, Repr

/-- Number of an access kind (10 Table 10.6). -/
def Acc.code : Acc → Nat
  | .load => 0
  | .store => 1
  | .atomic => 2
  | .fetch => 3
  | .engRead => 4
  | .engWrite => 5

/-- The access writes. -/
def Acc.writes : Acc → Bool
  | .store => true
  | .atomic => true
  | .engWrite => true
  | _ => false

/-- What a backed physical address reaches (08 Tables 8.1, 8.2, 8.3). -/
inductive Target where
  /-- HBM of this device -/
  | hbm (pa : Nat)
  /-- register frame of a core window: core and offset -/
  | regFrame (core off : Nat)
  /-- operand-log entry area: core and offset from 0x08_0000 -/
  | logEntry (core off : Nat)
  /-- operand-log control words: core and offset from 0x0C_0000 -/
  | logCtl (core off : Nat)
  /-- tile frame: core and offset from 0x18_0000 -/
  | tileFrame (core off : Nat)
  /-- physical scratch: core and byte offset -/
  | scratch (core off : Nat)
  /-- pipe region: offset -/
  | pipeRegion (off : Nat)
  /-- trigger-counter page: offset -/
  | counters (off : Nat)
  /-- HBM of another device: rank and address -/
  | remote (rank addr : Nat)
  /-- a dead page of HBM, which a read finds zero without reaching it (10 R203) -/
  | zero
deriving DecidableEq, Repr

/-- The first on-chip address (08 Table 8.1). -/
def onChipBase : Nat := 0xF000000000000

/-- What an on-chip physical address reaches, if it is backed (08 Tables 8.1, 8.3). -/
def onChip (pa : Nat) : Option Target :=
  if pa < onChipBase then none
  else
    let o := pa - onChipBase
    if o < 0xC0000000 then
      let c := o / 0x400000
      let w := o % 0x400000
      if w < 0x80000 then some (.regFrame c w)
      else if w < 0xC0000 then some (.logEntry c (w - 0x80000))
      else if w < 0xC0400 then some (.logCtl c (w - 0xC0000))
      else if w < 0x180000 then none
      else if w < 0x200000 then some (.tileFrame c (w - 0x180000))
      else if w < 0x280000 then some (.scratch c (w - 0x200000))
      else none
    else if 0x100000000 ≤ o ∧ o < 0x100100000 then some (.pipeRegion (o - 0x100000000))
    else if 0x200000000 ≤ o ∧ o < 0x200008000 then some (.counters (o - 0x200000000))
    else none

/-- What a physical address of a memory kind reaches; none: 0x082 (08 R154, R155). -/
def target (kind pa : Nat) : Option Target :=
  match kind with
  | 0 => if pa < hbmEnd then some (.hbm pa) else none
  | 1 => onChip pa
  | 2 => if pa / 2 ^ 50 % 4 = 0 then some (.remote (pa / 2 ^ 40 % 2 ^ 10) (pa % 2 ^ 40)) else none
  | _ => none

/-- A translated address. -/
structure Phys where
  /-- what it reaches -/
  at_ : Target
  /-- kind 0 and allocated in L1D (10 Table 10.3) -/
  cached : Bool
deriving DecidableEq, Repr

/-- Physical address of a virtual address under a leaf. -/
def leafPa (pte : DWord) (lg va : Nat) : Nat := bits pte 16 36 * 2 ^ 16 + va % 2 ^ lg

/-- The first check that an access meets at a well-formed leaf, in the order of 10 R197: 0x082, the missing right, 0x094,
0x095. -/
def leafCheck (acc : Acc) (pte : DWord) (lg va : Nat) : Option Nat :=
  let kind := bits pte 9 2
  let noRead := !bit pte 2
  let noWrite := !bit pte 3
  if (target kind (leafPa pte lg va)).isNone then some 0x082
  else if acc.writes && noWrite then some 0x092
  else if (acc == .load || acc == .engRead || acc == .atomic) && noRead then some 0x091
  else if acc == .fetch && !bit pte 4 then some 0x093
  else if acc.writes && bit pte 7 then some 0x094
  else if bit pte 8 then some 0x095
  else none

/-- A leaf entry that breaks Table 10.3 (10 R197). -/
def leafMalformed (pte : DWord) (level : Nat) : Bool :=
  level == 3 || bits pte 12 4 != 0 || bits pte 52 12 != 0 || bits pte 16 (10 * level) != 0

/-- A non-leaf entry that breaks Table 10.4 (10 R197). -/
def nodeMalformed (pte : DWord) (level : Nat) : Bool :=
  level == 0 || bits pte 2 11 != 0 || bits pte 52 12 != 0

/-- The walk from a node through the levels that remain (10 R196): page size, address of the leaf entry, the entry; or
the cause. Entries are read at their home agents (R197). A node outside HBM cannot be read: 0x097 (DEDUCED, log 7). -/
def walkFrom (s : State) (node va : Nat) : List Nat → Except Nat (Nat × Nat × DWord) × State
  | [] => (.error 0x096, s)
  | level :: rest =>
    let addr := node + 8 * (va / 2 ^ (16 + 10 * level) % 1024)
    if hbmEnd ≤ addr || poisoned s addr 8 then (.error 0x097, s)
    else
      let (bs, _, s) := readHome s addr 8 0#20
      let e : DWord := BitVec.ofNat 64 (ofBytes bs)
      if !bit e 0 then (.error 0x090, s)
      else if bit e 1 then
        if leafMalformed e level then (.error 0x096, s) else (.ok (16 + 10 * level, addr, e), s)
      else if nodeMalformed e level then (.error 0x096, s)
      else walkFrom s (bits e 13 39 * 2 ^ 13) va rest

/-- The page-table walk of a context (10 R196). -/
def walk (s : State) (asid va : Nat) : Except Nat (Nat × Nat × DWord) × State :=
  walkFrom s (bits (s.ctx asid).root 13 39 * 2 ^ 13) va [3, 2, 1, 0]

/-- An atomic OR on a page-table entry at its home (10 R198, R199). -/
def pteOr (s : State) (addr m : Nat) : State :=
  let (bs, _, s) := readHome s addr 8 0#20
  (writeHome s addr (toBytes 8 (ofBytes bs ||| m)) 0#20 false).2

/-- Writes the gathered dirty flag of a TLB entry to its leaf (10 R199). -/
def gatherDirty (s : State) (e : TlbEntry) : State := if e.dirtied then pteOr s e.pteAddr 0x40 else s

/-- The entry of a TLB that covers an address. -/
def tlbFind (l : List TlbEntry) (asid va : Nat) : Option TlbEntry :=
  l.find? fun e => e.asid == asid && va / 2 ^ e.lg == e.va / 2 ^ e.lg

/-- Inserts an entry into a TLB of `cap` entries; a full TLB evicts an entry that the specification does not name
(log 3), whose gathered flag is written first. -/
def tlbInsert (s : State) (l : List TlbEntry) (cap : Nat) (e : TlbEntry) : List TlbEntry × State :=
  if l.length < cap then (l ++ [e], s)
  else
    let (n, s) := s.draw
    let i := n % l.length
    match l[i]? with
    | none => (l ++ [e], s)
    | some v => (l.eraseIdx i ++ [e], gatherDirty s v)

/-- Which of a core's two TLBs an access uses. -/
def coreTlb (c : Core) (acc : Acc) : List TlbEntry := if acc == .fetch then c.itlb else c.dtlb

/-- Replaces one of a core's two TLBs. -/
def setCoreTlb (c : Core) (acc : Acc) (l : List TlbEntry) : Core :=
  if acc == .fetch then { c with itlb := l } else { c with dtlb := l }

/-- Capacity of a core's TLB (10, "TLBs"). -/
def coreTlbCap (acc : Acc) : Nat := if acc == .fetch then 64 else 256

/-- Puts an entry into a core's TLB. -/
def coreInsert (s : State) (c : Nat) (acc : Acc) (e : TlbEntry) : State :=
  let (l, s) := tlbInsert s (coreTlb (s.core c) acc) (coreTlbCap acc) e
  s.modCore c fun x => setCoreTlb x acc l

/-- Sets the dirty flag of the covering entry at the first write to a page whose dirty bit is 0 (10 R199). -/
def markDirty (s : State) (c asid va : Nat) : State :=
  s.modCore c fun x =>
    { x with dtlb := x.dtlb.map fun e =>
        if e.asid == asid && va / 2 ^ e.lg == e.va / 2 ^ e.lg && !bit e.pte 6 && !e.dirtied then
          { e with dirtied := true, dirtySince := s.kalends.toNat }
        else e }

/-- The translated address under a leaf that passed its checks. A dead page of HBM is read as zero (10 R203). -/
def physOf (pte : DWord) (lg va : Nat) : Except Nat Phys :=
  match target (bits pte 9 2) (leafPa pte lg va) with
  | none => .error 0x082
  | some (.hbm pa) => if bit pte 7 then .ok { at_ := .zero, cached := false }
    else .ok { at_ := .hbm pa, cached := bits pte 9 2 == 0 && bit pte 11 }
  | some t => .ok { at_ := t, cached := bits pte 9 2 == 0 && bit pte 11 }

/-- Ends a translation under a known leaf: the checks, the accessed and dirty bits, the entry in the core's TLB. -/
def finishLeaf (s : State) (c asid va : Nat) (acc : Acc) (e : TlbEntry) (inCore : Bool) : Except Nat Phys × State :=
  match leafCheck acc e.pte e.lg va with
  | some cause => (.error cause, s)
  | none =>
    let s := if inCore then s else coreInsert s c acc { e with dirtied := false }
    let s := if acc.writes then markDirty s c asid va else s
    (physOf e.pte e.lg va, s)

/-- Translation of a paged address through the TLBs of a core and of its die (10 R196 to R199). -/
def translatePaged (s : State) (c asid va : Nat) (acc : Acc) : Except Nat Phys × State :=
  match tlbFind (coreTlb (s.core c) acc) asid va with
  | some e => finishLeaf s c asid va acc e true
  | none =>
    match tlbFind (s.die (coreDie c)).tlb asid va with
    | some e => finishLeaf s c asid va acc e false
    | none =>
      match walk s asid va with
      | (.error cause, s) => (.error cause, s)
      | (.ok (lg, addr, pte), s) =>
        match leafCheck acc pte lg va with
        | some cause => (.error cause, s)
        | none =>
          let s := if bit pte 5 then s else pteOr s addr 0x20
          let e : TlbEntry :=
            { asid := asid, lg := lg, va := va / 2 ^ lg * 2 ^ lg, pte := pte ||| 0x20#64, pteAddr := addr,
              dirtied := false, dirtySince := 0 }
          let (l, s) := tlbInsert s (s.die (coreDie c)).tlb 16384 e
          let s := s.modDie (coreDie c) fun d => { d with tlb := l }
          finishLeaf s c asid va acc e false

/-- The heap triple of a context covers an address (10 R195). -/
def inTriple (x : Ctx) (va : Nat) : Bool :=
  decide (x.hbase.toNat ≤ va) && decide (va < x.hbase.toNat + x.hlimit.toNat)

/-- Translation of a virtual address by core `c` for a context (10 R195): the triple, then the pages. Addresses beyond
56 bits are the caller's 0x080. -/
def translate (s : State) (c asid va : Nat) (acc : Acc) : Except Nat Phys × State :=
  let x := s.ctx asid
  if acc != .fetch && inTriple x va then
    let pa := (va + x.hoff.toNat) % 2 ^ 52
    if pa < hbmEnd then (.ok { at_ := .hbm pa, cached := true }, s) else (.error 0x082, s)
  else translatePaged s c asid va acc

/-- Translation for an agent of the I/O die, which holds no TLB of its own: the triple, then a walk that sets the
accessed bit, and the dirty bit for a write (10 R198, R199; DESIGN CHOICE, log 8). -/
def translateIo (s : State) (asid va : Nat) (acc : Acc) : Except Nat Phys × State :=
  let x := s.ctx asid
  if acc != .fetch && inTriple x va then
    let pa := (va + x.hoff.toNat) % 2 ^ 52
    if pa < hbmEnd then (.ok { at_ := .hbm pa, cached := true }, s) else (.error 0x082, s)
  else
    match walk s asid va with
    | (.error cause, s) => (.error cause, s)
    | (.ok (lg, addr, pte), s) =>
      match leafCheck acc pte lg va with
      | some cause => (.error cause, s)
      | none =>
        let m := (if bit pte 5 then 0 else 0x20) + (if acc.writes && !bit pte 6 then 0x40 else 0)
        (physOf pte lg va, if m = 0 then s else pteOr s addr m)

/-- The address of a word of instruction memory, if a run-ahead fetch could read it: no fault, no accessed bit, no entry
(10 R206). -/
def peekFetch (s : State) (asid va : Nat) : Option Nat :=
  match (walk s asid va).1 with
  | .error _ => none
  | .ok (lg, _, pte) =>
    match leafCheck .fetch pte lg va with
    | some _ => none
    | none => match target (bits pte 9 2) (leafPa pte lg va) with
      | some (.hbm pa) => some pa
      | _ => none

/-- The bytes that HBM space holds at an address as a fetch sees them: the home line, else HBM. -/
def peekHbm (s : State) (pa n : Nat) : List Byte :=
  (List.range n).map fun i =>
    let a := lineOf (pa + i)
    match s.l2.get? a with
    | some h => BitVec.ofNat 8 (lineNum h.data ((pa + i) % 128) 1)
    | none => Mem.read s.mem (pa + i)

/-- The instruction word at an address, without a fault (used to look for a hint word before an address, 17 R312). -/
def peekWord (s : State) (asid va : Nat) : Option Word :=
  (peekFetch s asid va).map fun pa => BitVec.ofNat 32 (ofBytes (peekHbm s pa 4))

/-- The line as home holds it, without an access. -/
def peekLine (s : State) (a : Nat) : Line :=
  match s.l2.get? a with
  | some h => h.data
  | none => hbmLine s.mem a

/-- A line comes into a core's L1I of 512 lines; a full one loses a line that the specification does not name (log 3, log 9). -/
def fillL1i (s : State) (c a : Nat) : State :=
  let l := (s.core c).l1i.filter fun p => p.1 != a
  if l.length < 512 then s.modCore c fun k => { k with l1i := l ++ [(a, peekLine s a)] }
  else
    let (n, s) := s.draw
    s.modCore c fun k => { k with l1i := l.eraseIdx (n % l.length) ++ [(a, peekLine s a)] }

/-- The instruction word at an HBM address: from L1I, or from home through it. The specification does not say whether a fetch may
still give what L1I held before home changed: which of the two it gives is free (DESIGN CHOICE, log 9). -/
def fetchHbm (s : State) (c pa : Nat) : Except Nat Word × State :=
  let home := BitVec.ofNat 32 (ofBytes (peekHbm s pa 4))
  let fill (s : State) : Except Nat Word × State :=
    if poisoned s pa 4 then (.error 0x095, s) else (.ok home, fillL1i s c (lineOf pa))
  match (s.core c).l1i.find? fun p => p.1 == lineOf pa with
  | none => fill s
  | some p =>
    let held := BitVec.ofNat 32 (lineNum p.2 (pa % 128) 4)
    if held = home && !poisoned s pa 4 then (.ok home, s)
    else
      let (n, s) := s.draw
      if n % 2 = 0 then (.ok held, s) else fill s

/-- Fetches the instruction word that a split is about to issue (10 R206): the word, or the cause of the fetch fault. Code
lies in pages; a fetch that reaches no HBM address faults 0x082. A fetch changes no lease field (log 9). -/
def fetchWord (s : State) (c asid va : Nat) : Except Nat Word × State :=
  match translate s c asid va .fetch with
  | (.error cause, s) => (.error cause, s)
  | (.ok p, s) =>
    match p.at_ with
    | .hbm pa => fetchHbm s c pa
    | .zero => (.ok 0#32, s)
    | _ => (.error 0x082, s)

end Sys2Proof.Machine
end

