-- ==== Sys2Proof/Machine/Ops.lean ====
section
/-! DEFINITION. Shared operations of the meanings: performance counters, trace records, split merging, the fault queue,
and taking a trap and returning from one (14 R263 to R271; 15 R282 to R291; 06 R122, R126, R130). -/

namespace Sys2Proof.Machine

open Sys2Proof

/-! ### Performance counters -/

/-- Counts `n` of a counter event on a core for a context (15 R286); a wrap of a counter that records is noted. -/
def pmCount (s : State) (c asid code n : Nat) : State :=
  s.modCore c fun x =>
    (List.range 8).foldl (fun x k =>
      let ctl := x.pmctl.getD k 0#64
      if bit ctl 19 && bits ctl 0 8 == code && (!bit ctl 18 || bits ctl 8 10 == asid) then
        let v := (x.pmcnt.getD k 0#48).toNat + n
        { x with
          pmcnt := setAt x.pmcnt k (BitVec.ofNat 48 v)
          pmwrap := if 2 ^ 48 ≤ v && bit ctl 20 && bit ctl 18 then x.pmwrap ++ [k] else x.pmwrap }
      else x) x

/-! ### The sample buffer (15 R290, R291) -/

/-- Word 0 of a sample record of `n` words. -/
def sampleHeader (s : State) (type n : Nat) : DWord :=
  BitVec.ofNat 64 (0xC35A + (n - 1) * 2 ^ 16 + type * 2 ^ 19 + s.kalends.toNat % 2 ^ 32 * 2 ^ 32)

/-- A whole sample record. -/
def sampleRecord (s : State) (type : Nat) (ws : List DWord) : List DWord := sampleHeader s type (ws.length + 1) :: ws

/-- A sync record for the page at `wptr`. -/
def syncRecord (s : State) (wptr : Nat) : List DWord :=
  sampleRecord s 1 [s.kalends, BitVec.ofNat 64 (wptr % 2 ^ 32 / 4096)]

/-- The words written for one record at `wptr`: pad and sync records first where R291 asks for them. -/
def layRecord (s : State) (wptr : Nat) (r : List DWord) : List DWord :=
  let rest := (4096 - wptr % 4096) % 4096 / 8
  if wptr % 4096 = 0 then syncRecord s wptr ++ r
  else if r.length ≤ rest then r
  else sampleRecord s 0 (List.replicate (rest - 1) 0#64) ++ syncRecord s (wptr + 8 * rest) ++ r

/-- Writes a record to the sample buffer of a context, or counts it as lost (15 R291). -/
def writeSample (s : State) (asid type : Nat) (ws : List DWord) : State :=
  let x := s.ctx asid
  if !bit x.dbgctl 0 then s
  else
    let size := 2 ^ (bits x.sbBase 52 4 + 12)
    let base := bits x.sbBase 12 40 * 2 ^ 12
    let free := size - (x.sbWptr - x.sbRptr).toNat
    let w0 := x.sbWptr.toNat
    let lostSeq := if x.sbLost = 0#32 then [] else layRecord s w0 (sampleRecord s 2 [x.sbLost.setWidth 64])
    let seq := lostSeq ++ layRecord s (w0 + 8 * lostSeq.length) (sampleRecord s type ws)
    if 8 * seq.length ≤ free then
      let s := (seq.zipIdx).foldl (fun s p =>
        (writeHome s (base + (w0 + 8 * p.2) % size) (toBytes 8 p.1.toNat) 0#20 true false).2) s
      s.modCtx asid fun x => { x with sbWptr := x.sbWptr + BitVec.ofNat 32 (8 * seq.length), sbLost := 0#32 }
    else
      s.modCtx asid fun x => { x with sbLost := if x.sbLost = 0xFFFFFFFF#32 then x.sbLost else x.sbLost + 1#32 }

/-- Place of a warp in records: die, core in the cluster, block, warp (15 Table 15.1; 10 Table 10.6). -/
def placeBits (s : State) (c slot warp : Nat) : Nat :=
  let b := match s.block? c slot with | some b => b.number.toNat | none => 0
  coreDie c + c % 128 * 2 ^ 3 + b % 2 ^ 12 * 2 ^ 10 + warp % 32 * 2 ^ 22

/-- The place word of 15 Table 15.1. -/
def placeWord (s : State) (c slot warp : Nat) : DWord :=
  let g := match s.block? c slot with | some b => b.gcountB.toNat | none => 0
  BitVec.ofNat 64 (placeBits s c slot warp + g * 2 ^ 32)

/-- Context of a resident block. -/
def blockAsid (s : State) (c slot : Nat) : Nat := match s.block? c slot with | some b => b.asid | none => 0

/-- Writes a marker record (15 Table 15.5). -/
def writeMarker (s : State) (c slot warp : Nat) (pc : BitVec 64) (payload : Nat) : State :=
  writeSample s (blockAsid s c slot) 6 [placeWord s c slot warp, pc, BitVec.ofNat 64 payload]

/-- Folds a taken branch into a signature (15 R289). -/
def foldSig (sig target : BitVec 64) : BitVec 64 := ((sig <<< 1) ||| (sig >>> 63)) ^^^ target

/-- The signature-table entry of a warp whose `armed` bit is set, if any (15 R289). -/
def armedSig (s : State) (c slot warp : Nat) : Bool :=
  match s.block? c slot with
  | none => false
  | some b => (s.ctx b.asid).sigs.any fun p =>
      bits p.2.1 0 12 == b.number.toNat % 2 ^ 12 && bits p.2.1 12 5 == warp && bit p.2.1 17 && bit p.2.1 18

/-- A taken branch: the branch record of a warp whose entry is armed, when bt is set (15 R289). -/
def branchRecord (s : State) (c slot warp : Nat) (src dst : BitVec 64) : State :=
  let asid := blockAsid s c slot
  if bit (s.ctx asid).dbgctl 8 && armedSig s c slot warp then
    writeSample s asid 5 [placeWord s c slot warp, src, dst]
  else s

/-! ### Splits -/

/-- A split that gives up the hint words it has issued: it stops before the first of them (17 R312). -/
def Split.rewind (p : Split) : Split := { p with pc := p.pc - BitVec.ofNat 64 (4 * p.hints.length), hints := [] }

/-- Every split of a warp stops: one that stands between a hint and its instruction stops before the first hint; one that has
arrived at a rendezvous stays arrived (17 R312; 14 R272). -/
def Warp.rewound (w : Warp) : Warp := { w with splits := w.splits.map fun p => if p.rwait then p else p.rewind }

/-- The pending results and counts of two merged splits: position by position (06 R127). -/
def mergeHist : List (List (Reg × Nat)) → List (List (Reg × Nat)) → List (List (Reg × Nat))
  | [], b => b
  | a, [] => a
  | x :: a, y :: b => (x ++ y) :: mergeHist a b

/-- Absorbs split `q` into split `p`: lanes, execute mask, signature, pending results (06 R121, R127; 15 R289). -/
def Split.absorb (p q : Split) : Split :=
  { p with
    lanes := p.lanes ||| q.lanes
    em := p.em ||| q.em
    sig := p.sig ^^^ q.sig
    hist := mergeHist p.hist q.hist
    wins := p.wins ++ q.wins
    rem := p.rem ++ q.rem
    seen := tsMax p.seen q.seen }

/-- Absorbs a list of splits. -/
def Split.absorbAll (p : Split) (qs : List Split) : Split := qs.foldl Split.absorb p

/-- The split table after every valid split has merged into slot 0, which goes on as `lead` does: lanes all ones, depth 0,
every other entry invalid (06 R123, 02 R31). -/
def mergeAll (table : List Split) (lead : Nat) : List Split :=
  match table[lead]? with
  | none => table
  | some p =>
    let others := (table.zipIdx.filter fun q => q.2 != lead && q.1.valid).map (·.1)
    { p.absorbAll others with lanes := 0xFFFFFFFFFFFFFFFF#64, depth := 0, jwait := false, jtimer := 0, jdue := 0 } ::
      List.replicate 7 Split.empty

/-! ### The fault queue (14 R270) -/

/-- Records of a fault queue. -/
def Ctx.fqSize (x : Ctx) : Nat := if 6 ≤ x.fqLsize ∧ x.fqLsize ≤ 16 then 2 ^ x.fqLsize else 2 ^ 16

/-- The queue is full. -/
def Ctx.fqFull (x : Ctx) : Bool := (x.fqHead - x.fqTail).toNat == x.fqSize

/-- A record with its record number in word 5 (14 Table 14.2). -/
def withRseq (ws : List DWord) (r : BitVec 32) : List DWord :=
  setAt ws 5 (BitVec.ofNat 64 ((wordAt ws 5).toNat / 2 ^ 32 * 2 ^ 32 + r.toNat))

/-- Writes a record to HBM and advances head; answers the record number it took. -/
def fqWrite (s : State) (asid : Nat) (ws : List DWord) : BitVec 32 × State :=
  let x := s.ctx asid
  let r := x.fqHead
  let pa := bits x.fqBase 12 40 * 2 ^ 12 + 64 * (r.toNat % x.fqSize)
  let s := (writeHome s pa (bytesOf (withRseq ws r)) 0#20 true).2
  (r, s.modCtx asid fun x => { x with fqHead := x.fqHead + 1 })

/-- Sends a datagram of the command session: header, payload padded to 32 bytes, tag (16 R294, Table 16.1). Without a session
there is no key, and nothing is sent. -/
def sendDatagram (s : State) (kind : Nat) (payload : List Byte) : State :=
  match s.session with
  | none => s
  | some x =>
    let body := payload ++ List.replicate ((32 - payload.length % 32) % 32) 0#8
    let hdr := toBytes 4 (0x5336 + kind * 2 ^ 16) ++ toBytes 4 x.number.toNat ++ toBytes 8 (x.dseqOut + 1)
      ++ toBytes 8 body.length ++ toBytes 8 0
    let tag := toBytes 32 (Config.kmac256 x.keyOut (hdr ++ body)).toNat
    ({ s with session := some { x with dseqOut := x.dseqOut + 1 } }).send (.datagram kind (hdr ++ body ++ tag))

/-- A record is written to its queue; a host event is sent to the host in a notification datagram too (14 R279, 16 R296). -/
def postRecord (s : State) (asid : Nat) (ws : List DWord) (notify : Bool) : BitVec 32 × State :=
  let (r, s) := fqWrite s asid ws
  (r, if notify then sendDatagram s 2 (bytesOf (withRseq ws r)) else s)

/-- Sends a record to a context's fault queue; a full queue keeps it until there is room (14 R270). Event records want no
answer and are forgotten once written. -/
def queueRecord (s : State) (asid : Nat) (ws : List DWord) (who : Who) (notify : Bool := false) : State :=
  let x := s.ctx asid
  if x.fqFull || x.records.any (fun r => !r.written) then
    s.modCtx asid fun x =>
      { x with records := x.records ++ [{ words := ws, who := who, rseq := 0, written := false, notify := notify }] }
  else
    let (r, s) := postRecord s asid ws notify
    if who = .event then s
    else s.modCtx asid fun x =>
      { x with records := x.records ++ [{ words := withRseq ws r, who := who, rseq := r, written := true }] }

/-- The place of a record in the order in which the device writes those that wait: kinds 0 to 5, kind 6, kind 7 (14 R270). -/
def FaultRec.turn (r : FaultRec) : Nat := if recField r.words 0 9 3 ≤ 5 then 0 else recField r.words 0 9 3 - 5

/-- The record that a queue takes next. -/
def nextRecord (rs : List FaultRec) : Option (Nat × FaultRec) :=
  let of (k : Nat) : Option (Nat × FaultRec) := findIdx (fun r => !r.written && r.turn == k) rs
  ((of 0).or (of 1)).or (of 2)

/-- Writes records that waited for room, in order, while there is room (14 R270); `fuel` bounds the number written. -/
def flushRecords (s : State) (asid : Nat) : Nat → State
  | 0 => s
  | fuel + 1 =>
    let x := s.ctx asid
    if x.fqFull then s
    else
      match nextRecord x.records with
      | none => s
      | some (i, r) =>
        let (n, s) := postRecord s asid r.words r.notify
        let s := s.modCtx asid fun x =>
          { x with records := if r.who = .event then x.records.eraseIdx i
                              else setAt x.records i { r with words := withRseq r.words n, rseq := n, written := true } }
        flushRecords s asid fuel

/-- Removes the unanswered record with a record number. -/
def dropRecord (s : State) (asid : Nat) (r : BitVec 32) : State :=
  s.modCtx asid fun x => { x with records := x.records.filter fun q => !(q.written && q.rseq == r) }

/-- The ASID of the queue that takes events of no context: firmware's own, once it exists (14 R279). -/
def eventAsid (s : State) (asid : Option Nat) : Nat :=
  match asid with
  | some a => a
  | none => s.fwAsid.getD 0

/-- The 64-byte event record, kind 7 (14 R279). -/
def eventWords (s : State) (asid cause detail place : Nat) : List DWord :=
  [BitVec.ofNat 64 (cause + 7 * 2 ^ 9 + asid * 2 ^ 12), BitVec.ofNat 64 detail, 0#64, 0#64, BitVec.ofNat 64 place, 0#64,
    s.kalends, 0#64]

/-- A host event: its record in the queue, and a notification datagram (14 R279, 16 R296). -/
def hostEvent (s : State) (asid : Option Nat) (cause detail place : Nat) : State :=
  let a := eventAsid s asid
  queueRecord s a (eventWords s a cause detail place) .event true

/-! ### Traps -/

/-- The set number of a warp (02 R22). -/
def setOf (b : Block) (w : Nat) : Option Nat := (findIdx (fun m : List Nat => m.contains w) b.sets).map (·.1)

/-- resnext as 14 R265 fixes it by cause: arithmetic, 0x1E1, 0x1E2, 0x1F0–0x1FF. -/
def resnextOf (cause : Nat) : Bool :=
  (0x1C0 ≤ cause && cause ≤ 0x1C4) || cause == 0x1E1 || cause == 0x1E2 || (0x1F0 ≤ cause && cause ≤ 0x1FF)

/-- Faulting lanes of a member. -/
def TrapReq.lanesOf (t : TrapReq) (w : Nat) : Mask := t.lanes.getD w 0#64

/-- The words of the trap record (14 Table 14.2) of one member warp. TRAP is warp-uniform, though its record names lanes
(22 R428): every member takes it. When both instructions of a co-issue trap, `joint` keeps the one of the higher slot, which the
record names as its second entry (06 R130); lanes, address and resnext are those of the primary entry (DESIGN CHOICE, log 49). -/
def trapWords (s : State) (a : TrapAt) (t : TrapReq) (b : Block) (w : Warp) : List DWord :=
  let lanes := t.lanesOf a.warp
  let lane := (lowestLane lanes).getD 0
  let soft := decide (0x1F0 ≤ t.cause)
  let member := !soft && !a.members.isEmpty && lanes == 0#64 && t.lanes.any fun p => p.2 != 0#64
  let set := if a.sc = 2 then (setOf b a.warp).getD 0 else 0
  let second := match s.joint with
    | .kept a' t' => t'.cause * 2 ^ 22 + a'.split * 2 ^ 45 + 2 ^ 48
    | _ => 0
  let w0 := t.cause + 6 * 2 ^ 9 + b.asid * 2 ^ 12 + b2n t.resnext * 2 ^ 31 + a.sc * 2 ^ 32 + set * 2 ^ 34
    + b2n member * 2 ^ 37 + t.post % 16 * 2 ^ 38 + a.split * 2 ^ 42 + b2n w.frozen.isSome * 2 ^ 49 + second
  [BitVec.ofNat 64 w0, BitVec.ofNat 64 (t.va % 2 ^ 56), lanes, a.pc,
    BitVec.ofNat 64 (placeBits s a.core a.slot a.warp + w.quarter * 2 ^ 32), BitVec.ofNat 64 (lane * 2 ^ 32), s.kalends,
    BitVec.ofNat 64 ((if lanes = 0#64 then 0 else (w.itemage.lane lane).toNat) + b.gcountB.toNat * 2 ^ 32)]

/-- Whether a primary cause goes to the kernel's own handler by its class bit (14 Table 14.3). -/
def trapClass (k : DWord) (cause : Nat) (delivered : Bool) : Bool :=
  (0x040 ≤ cause && cause ≤ 0x07F && cause != 0x04A && bit k 24)
  || (delivered && bit k 25)
  || (0x1C0 ≤ cause && cause ≤ 0x1C4 && bit k 26)
  || (0x1F0 ≤ cause && cause ≤ 0x1FF && bit k 27)
  || (cause == 0x1E1 && bit k 28)

/-- A trap of this warp goes to its handler (14 R266). -/
def toHandler (b : Block) (w : Warp) (t : TrapReq) : Bool :=
  bits b.kernel.trap 0 24 != 0 && w.frozen.isNone && trapClass b.kernel.trap t.cause t.delivered

/-- Address of the kernel's entry: offset 0x40 of the object (17 R318). -/
def Kernel.entry (k : Kernel) : BitVec 64 := k.addr + 0x40#64

/-- A lookahead window that outlives a trap: a result that is not written yet, above all lanes held in the operand log, stays
pending (14 R267); no instruction is checked against it any more. -/
def Window.keepLog (x : Window) : Option Window :=
  match x.pend with
  | .done => none
  | p => some { x with left := 0, pend := p }

/-- A split whose checker and windows start empty again (14 R267, R269). -/
def Split.fresh (p : Split) : Split := { p with hist := [], wins := p.wins.filterMap Window.keepLog }

/-- The trapping split stops: with resnext clear before the first of its hint words, and marked to issue again without
a rendezvous when it trapped as a member of an instance (06 R126, 17 R312). -/
def stopSplit (p : Split) (a : TrapAt) (t : TrapReq) (lead : Nat) : Split :=
  let p := if t.resnext then { p with hints := [], rwait := false, redo := none, pc := a.pc + 4#64 }
    else { p.rewind with rwait := false,
                         redo := if a.members.isEmpty then p.redo
                                 else some { pc := a.pc, members := a.members, lead := lead, todo := [], deferred := [] } }
  { p with stall := .faultService, faultWait := false }

/-- The lead of an instance that traps: its lowest member (06 R117). -/
def leadOf (ms : List Nat) : Nat := ms.foldl (fun m x => if x < m then x else m) (ms.headD 0)

/-- Puts a warp into its handler (14 R267): the split table frozen, the record in specials 24 to 31, one split with the
record's lanes. The handler's instructions wait until every pending result other than those in the operand log has been
written (`handlerHeld` of the issue rules). -/
def enterHandler (b : Block) (w : Warp) (a : TrapAt) (ws : List DWord) : Warp :=
  let table := w.splits.zipIdx.map fun p => if p.2 = a.split then p.1 else if p.1.rwait then p.1 else p.1.rewind
  let p := (w.splits[a.split]?).getD Split.empty
  let lanes := wordAt ws 2
  let h : Split :=
    { Split.empty with
      lanes := p.lanes, em := if lanes = 0#64 then p.em else lanes, valid := true, landed := true, sig := p.sig
      rem := p.rem, seen := p.seen
      pc := b.kernel.entry + BitVec.ofNat 64 (4 * bits b.kernel.trap 0 24) }
  { w with frozen := some (table, a.split), tctx := ws, splits := h :: List.replicate 7 Split.empty,
           trapMembers := a.members }

/-- The other instruction of a co-issue that has trapped too: its split stops like the primary one (06 R130). -/
def stopSecond (w : Warp) : Joint → Warp
  | .kept a t => { w with splits := modAt w.splits a.split fun p => stopSplit p a t (leadOf a.members) }
  | _ => w

/-- The members that a suspended warp resumes with: a trap inside a handler leaves those of the handler's own trap (14 R269). -/
def keptMembers (w : Warp) (a : TrapAt) : List Nat := if w.frozen.isSome then w.trapMembers else a.members

/-- One member warp takes a trap (14 R265 to R271): to its handler, or to firmware with a record in the fault queue. The
other splits stop at their next instruction boundary (06 R130). -/
def trapMember (s : State) (a : TrapAt) (t : TrapReq) : State :=
  match s.block? a.core a.slot with
  | none => s
  | some b =>
    match b.warps[a.warp]? with
    | none => s
    | some w0 =>
      let w := stopSecond { w0 with splits := modAt w0.splits a.split fun p => stopSplit p a t (leadOf a.members) } s.joint
      let ws := trapWords s a t b w
      if toHandler b w t then s.modWarp a.core a.slot a.warp fun _ => enterHandler b w a ws
      else
        let s := s.modWarp a.core a.slot a.warp fun _ => { w.rewound with suspended := true, trapMembers := keptMembers w a }
        queueRecord s b.asid ws (.trap a.core a.slot a.warp a.split)

/-- Taking a trap: the one operation that every trapping instruction goes through. Every member of a set- or block-scope
instance is suspended and gets its own record (06 R126); otherwise the issuing warp alone. While the first of two co-issued
instructions issues, its trap is kept for the record of both (06 R130). -/
def takeTrap (s : State) (a : TrapAt) (t : TrapReq) : State :=
  let t := { t with resnext := t.resnext || resnextOf t.cause }
  if s.joint = .collect then { s with joint := .kept a t }
  else if a.members.isEmpty then { trapMember s a t with joint := .off }
  else a.members.foldl (fun s m => trapMember s { a with warp := m } t) s

/-- A word is a hint word (17 Table 17.1). -/
def isHint (w : Word) : Bool := bits w 26 6 == 0x3F

/-- A hint word stands at an address. -/
def hintAt (s : State) (asid : Nat) (pc : BitVec 64) : Bool :=
  match peekWord s asid pc.toNat with
  | some w => isHint w
  | none => false

/-- Where a split that resumes at a word goes on: at the first of the hint words that stand directly before it, at most two
(17 R312). -/
def resumeAt (s : State) (asid : Nat) (pc : BitVec 64) : BitVec 64 :=
  if hintAt s asid (pc - 4#64) then
    if hintAt s asid (pc - 8#64) then pc - 8#64 else pc - 4#64
  else pc

/-- A member that waits for the others of its trapped instance (14 R269): all go on together when none is left in its
handler or with firmware. -/
def releaseMembers (s : State) (c slot : Nat) (ms : List Nat) : State :=
  let ready := ms.all fun m =>
    match s.warp? c slot m with
    | some w => w.retired || w.rftWait || w.trapMembers != ms
    | none => true
  if ready then
    ms.foldl (fun s m => s.modWarp c slot m fun w =>
      if w.trapMembers = ms then { w with rftWait := false, trapMembers := [] } else w) s
  else s

/-- A trapped warp goes on: the trapping split resumes at `pc + 4 × resnext` (14 R269, R271). A warp that goes on inside its
handler waits for no other member. -/
def resumeTrap (s : State) (c slot warp split : Nat) (pc : BitVec 64) (resnext : Bool) : State :=
  match s.block? c slot with
  | none => s
  | some b =>
    let dest := resumeAt s b.asid (if resnext then pc + 4#64 else pc)
    let s := s.modWarp c slot warp fun w =>
      let w := { w with splits := (w.splits.map Split.fresh) }
      let w := { w with splits := modAt w.splits split fun p => { p with pc := dest, hints := [], landed := false } }
      { w with suspended := false, rftWait := w.frozen.isNone && !w.trapMembers.isEmpty, rftSince := s.cycle.toNat,
               rftLimit := (s.ctx b.asid).timeout }
    match s.warp? c slot warp with
    | some w => if w.trapMembers.isEmpty || w.frozen.isSome then s else releaseMembers s c slot w.trapMembers
    | none => s

/-- Return from a trap (14 R269): the frozen split table comes back, and the trapping split resumes by specials 24 and 27
as they stand; bits [1:0] and [63:56] of that pc are ignored (20 R397). The handler's own pod-remote accesses stay earlier accesses of
the split. -/
def returnTrap (s : State) (c slot warp : Nat) : State :=
  match s.warp? c slot warp with
  | none => s
  | some w =>
    match w.frozen with
    | none => s
    | some (table, k) =>
      let table := modAt table k fun p => { p with
        rem := w.splits.foldl (fun l q => l ++ q.rem.filter fun t => !p.rem.contains t) p.rem
        seen := w.splits.foldl (fun t q => tsMax t q.seen) p.seen }
      let s := s.modWarp c slot warp fun w => { w with frozen := none, splits := table }
      resumeTrap s c slot warp k (w.tctx.getD 3 0#64 &&& 0xFFFFFFFFFFFFFC#64) (bit (w.tctx.getD 0 0#64) 31)

/-- Takes an unanswered record of a context out of its list. -/
def findRecord (s : State) (asid : Nat) (p : FaultRec → Bool) : Option FaultRec :=
  (s.ctx asid).records.find? fun r => r.written && p r

/-! ### Power states (16 R298, R299) -/

/-- The budget that a power state sets, below which the power limits have lowered it (16 R298, R300). -/
def Die.stateBudget (x : Die) : Nat := 448 - x.cut

/-- The package leaves retention within its exit latency of 300 µs (16 R298, R299). -/
def wakePackage (s : State) : State :=
  if s.retention then
    (List.range 6).foldl (fun s d => s.modDie d fun x => { x with budget := x.stateBudget, wakeAt := s.kalends.toNat + 300000 })
      { s with retention := false }
  else s

/-- A gated die becomes active within its exit latency of 5 µs (16 R298, R299). -/
def ungateDie (s : State) (d : Nat) : State :=
  if (s.die d).gated then
    s.modDie d fun x => { x with gated := false, budget := x.stateBudget, wakeAt := s.kalends.toNat + 5000 }
  else s

end Sys2Proof.Machine
end

