-- ==== Sys2Proof/Machine/Flush.lean ====
section
/-! DEFINITION. The writes home of a core, and the order that a barrier over several cores makes (08 R160, R163; 13 R244;
18 R334). -/

namespace Sys2Proof.Machine

open Sys2Proof

/-- Replaces an L1D line. -/
def setL1 (s : State) (c a : Nat) (x : L1Line) : State := s.modCore c fun k => { k with l1d := k.l1d.put a x }

/-- Raises a core's lease time (08 Table 8.8). -/
def raisePts (s : State) (c : Nat) (t : BitVec 20) : State := s.modCore c fun k => { k with pts := tsMax k.pts t }

/-- The aligned 8-byte units that a word mask touches, as byte ranges of the line (13 R244). -/
def maskUnits (m : BitVec 32) : List (Nat × Nat) :=
  (List.range 16).filterMap fun u => if m.getLsbD (2 * u) || m.getLsbD (2 * u + 1) then some (8 * u, 8) else none

/-- Marks the home line of a `.strm` access: L2 replaces it first (09 Table 9.3). -/
def markStrm (s : State) (a : Nat) (strm : Bool) : State :=
  if strm then { s with l2 := modKey s.l2 a fun h => { h with strm := true } } else s

/-- One masked write home by a core: a write at home, after which the core's pts is the line's wts (08 R160, Table 8.8). The words
of a `.strm` store mark the line now (09 Table 9.3). -/
def writeWords (s : State) (c asid a : Nat) (m : BitVec 32) (d : Line) (release : Bool) : State :=
  let (w, s) := homeWrite s a (s.core c).pts (fun x => mergeWords x d m) (maskUnits m) release
  let s := (markStrm s a ((s.core c).strm.contains a)).modCore c fun k => { k with strm := k.strm.filter (· != a) }
  pmCount (s.modCore c fun k => { k with pts := w }) c asid 7 1

/-- Performs a core's writes home that are on their way, of one line or of all. -/
def drainWrites (s : State) (c : Nat) (only : Option Nat) (release : Bool) : State :=
  let mine (p : Nat × Miss) : Bool :=
    (match p.2 with | .write _ _ _ => true | _ => false) && (match only with | some a => p.1 == a | none => true)
  let todo := (s.core c).mshr.filter mine
  let s := s.modCore c fun k => { k with mshr := k.mshr.filter fun p => !mine p }
  todo.foldl (fun s p => match p.2 with | .write q m d => writeWords s c q p.1 m d release | _ => s) s

/-- Writes home the dirty words of one line, which stay valid and clean. -/
def flushLine (s : State) (c asid a : Nat) (release : Bool) : State :=
  let s := drainWrites s c (some a) release
  match (s.core c).l1d.get? a with
  | none => s
  | some x =>
    if x.dirty = 0#32 then s
    else writeWords (setL1 s c a { x with dirty := 0 }) c asid a x.dirty x.data release

/-- Writes home every dirty word of a core, and completes the writes that are on their way (08 R163). -/
def flushCore (s : State) (c asid : Nat) (release : Bool) : State :=
  let s := drainWrites s c none release
  ((s.core c).l1d.filter fun p => p.2.dirty != 0#32).foldl (fun s p => flushLine s c asid p.1 release) s

/-- The release actions of a core at a scope: at die scope or wider every dirty word goes home, and what was counted is
applied, as a release of its counters at device scope or wider (08 R163, 13 R244, R245). -/
def releaseCore (s : State) (c asid scope : Nat) : State :=
  if scope ≤ 1 then s else drainFlits (flushCore s c asid (decide (3 ≤ scope)))

/-- The order that a completed gang barrier makes among the cores of the gang's blocks (18 R334, scope die or device): every
core's writes go home, as at a release, and then no core reads at an older lease time than any of them has reached, as after an
acquire. Warps of one core share its L1D, and need nothing (08 R163). -/
def gangOrder (s : State) (asid : Nat) (cores : List Nat) : State :=
  if cores.length ≤ 1 then s
  else
    let s := drainFlits (cores.foldl (fun s c => flushCore s c asid true) s)
    let t := cores.foldl (fun t c => tsMax t (s.core c).pts) 0#20
    cores.foldl (fun s c => raisePts s c t) s

end Sys2Proof.Machine
end

