-- ==== Sys2Proof/Machine/Operands.lean ====
section
/-! DEFINITION. Vector operands: direct and indexed registers, widths, reading and writing lanes (05 R98 to R101, R105,
R106, R110; 17 R301, Table 17.12). -/

namespace Sys2Proof.Machine

open Sys2Proof

/-- A vector operand: the register field and the width in registers (05 R98, R101). -/
structure VOp where
  /-- field value, 0–63 -/
  f : Nat
  /-- registers -/
  w : Nat
deriving DecidableEq, Repr

/-- The operand that a field names, of a fixed width. -/
def vop (f : BitVec 6) (w : Nat) : VOp := { f := f.toNat, w := w }

/-- The operand is a direct register number (05 Table 5.1). -/
def VOp.direct (o : VOp) : Bool := o.f < 56

/-- The direct operand lies within D registers (05 R98). -/
def VOp.inBounds (o : VOp) (d : Nat) : Bool := !o.direct || decide (o.f + o.w ≤ d)

/-- Base, limit and index of an index register (05 Table 5.2). -/
def xBase (x : Word) : Nat := bits x 0 8
/-- Window length. -/
def xLimit (x : Word) : Nat := bits x 8 8
/-- Position in the window. -/
def xIndex (x : Word) : Nat := bits x 16 8

/-- The register number that an operand names in a lane, or the lane's fault (05 R100). -/
def resolve (x : Warp) (o : VOp) (l : Nat) : Except Nat Nat :=
  if o.direct then .ok o.f
  else
    let r := x.x (o.f - 56) l
    if xLimit r < xIndex r + o.w then .error 0x040
    else if (xBase r + xIndex r) % o.w ≠ 0 then .error 0x045
    else .ok (xBase r + xIndex r)

/-- The value of registers n to n + w − 1 in a lane, the lowest register in the lowest 32 bits (05 R101). -/
def readV (x : Warp) (n l : Nat) : Nat → Nat
  | 0 => 0
  | w + 1 => readV x n l w + (x.v (n + w) l).toNat * 2 ^ (32 * w)

/-- The operand's value in a lane; a lane that faults reads zero (05 R100: helper lanes). -/
def readOp (x : Warp) (o : VOp) (l : Nat) : Nat :=
  match resolve x o l with
  | .ok n => readV x n l o.w
  | .error _ => 0

/-- 32-bit word `i` of a value. -/
def word32 (a i : Nat) : Word := BitVec.ofNat 32 (a / 2 ^ (32 * i))

/-- Writes an operand in the lanes for which a value is given; a lane whose indexed operand faults is not written
(05 R100: helper lanes). -/
def Warp.putOp (x : Warp) (o : VOp) (out : Nat → Option Nat) : Warp :=
  if o.direct then
    { x with
      vregs := (List.range o.w).foldl (fun rs i =>
        modAt rs (o.f + i) fun v => Vec.of fun l =>
          match out l with
          | some a => word32 a i
          | none => v.lane l) x.vregs }
  else
    { x with
      vregs := x.vregs.zipIdx.map fun p => Vec.of fun l =>
        match out l, resolve x o l with
        | some a, .ok n => if n ≤ p.2 ∧ p.2 < n + o.w then word32 a (p.2 - n) else p.1.lane l
        | _, _ => p.1.lane l }

/-- Writes vector registers by number in each lane: lane `l` writes the words of `val` from register `n` on. -/
def Warp.putAt (x : Warp) (w : Nat) (out : Nat → Option (Nat × Nat)) : Warp :=
  { x with
    vregs := x.vregs.zipIdx.map fun p => Vec.of fun l =>
      match out l with
      | some (n, a) => if n ≤ p.2 ∧ p.2 < n + w then word32 a (p.2 - n) else p.1.lane l
      | none => p.1.lane l }

/-- Whether a lane is in a mask. -/
def inMask (m : Mask) (l : Nat) : Bool := m.getLsbD l

/-- The active lanes of a split that are not helper lanes (05 R106, 02 R34). -/
def Warp.lanesOn (x : Warp) (em : Mask) : List Nat := maskLanes (em &&& ~~~x.helper)

/-- The fault of a lane whose operands fault: that of the first of them in the instruction's order. R100 orders lanes and not the operands
of one lane (DESIGN CHOICE, log 67). -/
def laneFault (x : Warp) (l : Nat) : List VOp → Option Nat
  | [] => none
  | o :: r => match resolve x o l with
    | .error c => some c
    | .ok _ => laneFault x l r

/-- The operand faults of a warp's active non-helper lanes: lane and cause, lanes ascending. -/
def opFaults (x : Warp) (em : Mask) (ops : List VOp) : List (Nat × Nat) :=
  (x.lanesOn em).filterMap fun l => (laneFault x l ops).map fun c => (l, c)

/-- The trap of per-lane faults, given by member, lane and cause with members and lanes ascending: the primary cause is that
of the lowest faulting lane (05 R100, 14 R265). -/
def faultReq (fs : List (Nat × Nat × Nat)) : TrapReq :=
  { cause := match fs with | [] => 0 | p :: _ => p.2.2
    lanes := fs.foldl (fun t p => Tab.put t p.1 (Tab.getD t p.1 0#64 ||| laneBit p.2.1)) [] }

/-- The checker's view of a vector source: the registers of a direct operand, the index register of an indexed one
(06 R127). -/
def VOp.srcRegs (o : VOp) : List Reg :=
  if o.direct then (List.range o.w).map fun i => .v (o.f + i) else [.x (o.f - 56)]

/-- The checker's view of a vector destination: nothing for an indexed one, whose index register is a source. -/
def VOp.dstRegs (o : VOp) : List Reg := if o.direct then (List.range o.w).map fun i => .v (o.f + i) else []

/-- The index register that a destination reads. -/
def VOp.dstSrc (o : VOp) : List Reg := if o.direct then [] else [.x (o.f - 56)]

/-- Removes repeated elements. -/
def dedup {α : Type} [DecidableEq α] (l : List α) : List α := l.foldr (fun a r => if a ∈ r then r else a :: r) []

/-- The registers that an indexed operand resolves to in the active lanes (06 R128). -/
def VOp.resolved (o : VOp) (x : Warp) (em : Mask) : List Reg :=
  if o.direct then []
  else dedup ((maskLanes em).flatMap fun l =>
    match resolve x o l with
    | .ok n => (List.range o.w).map fun i => Reg.v (n + i)
    | .error _ => [])

/-- A pending destination has been written. -/
def Window.over (x : Window) : Bool := x.left == 0 && x.pend == .done

/-- A split issues one word: the checker takes its destinations with their class distance, and every window moves on by
one position (06 R127, R128). -/
def Split.step (p : Split) (dsts : List (Reg × Nat)) (win : Option Window) (cycle : Nat) : Split :=
  { p with
    hist := (dsts :: p.hist).take 5
    wins := ((p.wins.filter fun x => !x.over).map fun x => { x with left := x.left - 1 }) ++ win.toList
    stall := .issued
    operands := none
    lastIssue := cycle }

/-- A set bit of a scalar register's mask in a lane. -/
def sLane (d : DWord) (l : Nat) : Bool := d.getLsbD l

end Sys2Proof.Machine
end

