-- ==== Sys2Proof/Machine/Rendezvous.lean ====
section
/-! DEFINITION. Set, block and barrier rendezvous instances: opening, arrival, completion, expiry (06 R123 to R126; 02 R39;
18 R331 to R333). -/

namespace Sys2Proof.Machine

open Sys2Proof

/-- Which instance of a block: a set's, or the block's (06 R124). -/
inductive InstKey where
  | set (n : Nat)
  | block
deriving DecidableEq, Repr

/-- The open instance. -/
def Block.inst (b : Block) : InstKey → Option Inst
  | .set n => b.setInst.get? n
  | .block => b.blockInst

/-- Replaces or closes an instance. -/
def Block.setInstAt (b : Block) (k : InstKey) (i : Option Inst) : Block :=
  match k with
  | .set n => { b with setInst := match i with | some x => b.setInst.put n x | none => b.setInst.del n }
  | .block => { b with blockInst := i }

/-- The member warps of an instance (06 R115, R124). -/
def Block.membersOf (b : Block) : InstKey → List Nat
  | .set n => b.sets.getD n []
  | .block => List.range b.warps.length

/-- A new instance at an address, timed by the context's timeout (06 R124, R125); `goOn` for BARA. -/
def Inst.opened (pc : BitVec 64) (limit : Nat) (bar : Option Bool) (goOn : Bool := false) : Inst :=
  { pc := pc, arrived := [], elapsed := 0, limit := limit, bar := bar, goOn := goOn, blockArrived := false }

/-- The timeout of an instance has run out in an earlier cycle: it expires before anything else happens to it (06 R125). -/
def Inst.overdue (i : Inst) : Bool := decide (i.limit < i.elapsed)

/-- A split waits at an instance. -/
def Split.waitsAt (p : Split) (pc : BitVec 64) : Bool := p.valid && p.rwait && p.pc == pc && p.redo.isNone

/-- Every valid split that holds a live lane has reached the instruction, and some split has (06 R123). -/
def Warp.reached (w : Warp) (pc : BitVec 64) : Bool :=
  w.splits.any (·.waitsAt pc)
  && w.splits.all fun p => !p.valid || p.lanes &&& w.live == 0#64 || p.waitsAt pc

/-- A warp arrives: every valid split merges into slot 0 (06 R123). -/
def Warp.arrive (w : Warp) (pc : BitVec 64) : Warp :=
  match findIdx (fun p : Split => p.waitsAt pc) w.splits with
  | none => w
  | some (k, _) => { w with splits := mergeAll w.splits k }

/-- Every awaited member has arrived: members with a live lane that have not retired (02 R39). -/
def instDone (b : Block) (i : Inst) (ms : List Nat) : Bool :=
  !i.arrived.isEmpty && ms.all fun m =>
    match b.warps[m]? with
    | none => true
    | some w => w.retired || w.live == 0#64 || i.arrived.contains m

/-- A waiting split passes its barrier (18 R331): pc + 4, one more position issued. -/
def Split.passBar (p : Split) (cycle : Nat) : Split :=
  { p.step [] none cycle with pc := p.pc + 4#64, rwait := false, hints := [], landed := false }

/-- Every split of a warp that waits at a barrier's address passes it. -/
def Warp.passBar (w : Warp) (pc : BitVec 64) (cycle : Nat) : Warp :=
  { w with splits := w.splits.map fun q => if q.waitsAt pc then q.passBar cycle else q }

/-- Arrivals that have become due at an open instance; after a BARA the warp goes on at once (18 R331). -/
def arriveAll (b : Block) (k : InstKey) (i : Inst) (cycle : Nat) : Block × Inst :=
  (b.membersOf k).foldl (fun r m =>
    match r.1.warps[m]? with
    | none => r
    | some w =>
      if !w.retired && !r.2.arrived.contains m && w.reached i.pc then
        let w := w.arrive i.pc
        ({ r.1 with warps := setAt r.1.warps m (if i.goOn then w.passBar i.pc cycle else w) },
          { r.2 with arrived := r.2.arrived ++ [m] })
      else r) (b, i)

/-- A completed barrier: the warps that wait in BAR go on, and the phase counter of its level advances (18 R332). -/
def barComplete (b : Block) (i : Inst) (gang : Bool) (cycle : Nat) : Block :=
  { b with
    blockInst := none
    gcountB := if gang then b.gcountB else b.gcountB + 1
    gcountG := if gang then b.gcountG + 1 else b.gcountG
    warps := b.warps.zipIdx.map fun p =>
      if i.arrived.contains p.2 then p.1.passBar i.pc cycle else p.1 }

/-- A completed set- or block-scope instance: it closes, and its instruction is to issue once for the members that have
arrived, without a new rendezvous (06 R115, R117). -/
def scopeComplete (b : Block) (k : InstKey) (i : Inst) : Block :=
  let r : Reissue := { pc := i.pc, members := i.arrived, lead := leadOf i.arrived, todo := [], deferred := [] }
  let b := b.setInstAt k none
  { b with
    warps := b.warps.zipIdx.map fun p =>
      if i.arrived.contains p.2 then { p.1 with splits := modAt p.1.splits 0 fun q => { q with redo := some r } }
      else p.1 }

/-- A resident block is awaited by its gang: some warp that has not retired holds a live lane (18 R332). -/
def Block.awaited (b : Block) : Bool := b.warps.any fun w => !w.retired && w.live != 0#64

/-- The block waits at a gang-level barrier, block-arrived (18 R332). -/
def Block.atGang (b : Block) : Bool :=
  match b.blockInst with
  | some i => i.bar == some true && i.blockArrived && !i.overdue && !b.frozen
  | none => false

/-- A saved block of a gang is still awaited: it holds a live lane, and it waits for its restore (18 R332; 14 R272). -/
def savedAwaited (s : State) (grid : Nat) (gang : BitVec 32) : Bool :=
  match s.grids.get? grid with
  | none => false
  | some g => (g.restore ++ g.away).any fun v => v.block.gang == gang && v.block.awaited

/-- The cores that hold the block-arrived blocks of a gang. -/
def gangCores (s : State) (grid : Nat) (gang : BitVec 32) : List Nat :=
  ((s.blocks.filter fun p => p.2.grid == grid && p.2.gang == gang && p.2.atGang).map fun p => p.1 / 96).eraseDups

/-- Completes a gang phase when every awaited block of the gang is block-arrived (18 R332). What its warps did before they arrived
then happens before what they do next (18 R334). -/
def gangPhase (s : State) (grid : Nat) (gang : BitVec 32) : State :=
  let mine (b : Block) : Bool := b.grid == grid && b.gang == gang
  let bs := s.blocks.filter fun p => mine p.2
  if bs.any (fun p => p.2.atGang) && bs.all (fun p => !p.2.awaited || p.2.atGang) && !savedAwaited s grid gang then
    let s := match bs with
      | p :: _ => gangOrder s p.2.asid (gangCores s grid gang)
      | [] => s
    { s with blocks := s.blocks.map fun p =>
        if mine p.2 && p.2.atGang then
          match p.2.blockInst with
          | some i => (p.1, barComplete p.2 i true s.cycle.toNat)
          | none => p
        else p }
  else s

/-- Everything that an open instance may do now: arrivals that are due, and completion (02 R39; 06 R123). An overdue instance
only expires (06 R125). -/
def settle (s : State) (c slot : Nat) (k : InstKey) : State :=
  match s.block? c slot with
  | none => s
  | some b =>
    match b.inst k with
    | none => s
    | some i =>
      if i.overdue then s
      else
      let (b, i) := arriveAll b k i s.cycle.toNat
      if instDone b i (b.membersOf k) then
        match i.bar with
        | none => s.setBlock c slot (scopeComplete b k i)
        | some false => s.setBlock c slot (barComplete b i false s.cycle.toNat)
        | some true =>
          gangPhase (s.setBlock c slot (b.setInstAt k (some { i with blockArrived := true }))) b.grid b.gang
      else s.setBlock c slot (b.setInstAt k (some i))

/-- Every instance of a block may have become complete (02 R39: a member ceases to be awaited). -/
def settleAll (s : State) (c slot : Nat) : State :=
  let s := (List.range 8).foldl (fun s n => settle s c slot (.set n)) s
  let s := settle s c slot .block
  match s.block? c slot with
  | none => s
  | some b => gangPhase s b.grid b.gang

/-- A split stands at an XSHUF, which no barrier instance holds (13 R257). -/
def atXshuf (s : State) (asid : Nat) (p : Split) : Bool := (peekWord s asid p.pc.toNat).any fun w => bits w 26 6 == 0x13

/-- Splits held at a BARW of the instance, or at a block-scope instruction or barrier that R331 holds: they wait for its phase and
trap with its members, one of each warp (18 R333). -/
def heldWaiters (s : State) (b : Block) (i : Inst) : List (Nat × Nat × BitVec 64) :=
  if i.bar.isNone then []
  else b.warps.zipIdx.filterMap fun w =>
    if !i.arrived.contains w.2 then none
    else (findIdx (fun p : Split => p.valid && p.stall == .rendezvous && !p.rwait && !p.jwait && !atXshuf s b.asid p)
      w.1.splits).map fun p => (w.2, p.1, p.2.pc)

/-- A trap in every member that waits at an instance, which closes with no effect (06 R124, R125; 18 R333). Each member traps once:
at the split of `extra` that names it, else at its lowest split that waits. A member traps when one of its splits waits, also
before its other splits have arrived (DEDUCED, log 50). -/
def instTrap (s : State) (c slot : Nat) (k : InstKey) (cause : Nat) (extra : List (Nat × Nat × BitVec 64)) : State :=
  match s.block? c slot with
  | none => s
  | some b =>
    match b.inst k with
    | none => s
    | some i =>
      let sc := match k with | .set _ => 2 | .block => if i.bar.isSome then 1 else 3
      let waiters : List (Nat × Nat × BitVec 64) := (b.membersOf k).filterMap fun m =>
        match b.warps[m]? with
        | none => none
        | some w =>
          if extra.any fun e => e.1 == m then none
          else (findIdx (fun p : Split => p.waitsAt i.pc) w.splits).map fun q => (m, q.1, i.pc)
      let s := s.setBlock c slot (b.setInstAt k none)
      let s := s.modBlock c slot fun b => { b with warps := b.warps.map fun w =>
        { w with splits := w.splits.map fun p => if p.waitsAt i.pc then { p with rwait := false } else p } }
      (waiters ++ extra).foldl (fun s p =>
        takeTrap s { core := c, slot := slot, warp := p.1, split := p.2.1, pc := p.2.2, sc := sc } { cause := cause }) s

/-- The instance expires: every member and every held split traps 0x180 (06 R125; 18 R333). -/
def instTimeout (s : State) (c slot : Nat) (k : InstKey) (b : Block) (i : Inst) : State :=
  instTrap s c slot k 0x180 (heldWaiters s b i)

/-- An awaited member that has not arrived may still arrive in this cycle: its warp and its quarter have not issued yet
(06 R125, 04 R91). -/
def mayArrive (s : State) (c : Nat) (w : Warp) : Bool :=
  let cycle := s.cycle.toNat
  w.hot && !w.suspended && !w.rftWait && decide (w.mayAt ≤ cycle) && decide ((s.core c).quarterAt.getD w.quarter 0 ≤ cycle)

/-- The timeout of an open instance is due: it ran out in an earlier cycle, or runs out in this one and nobody can complete the
instance in this cycle any more (06 R125). -/
def instDue (s : State) (c : Nat) (b : Block) (k : InstKey) (i : Inst) : Bool :=
  !b.stopped && decide (i.limit ≤ i.elapsed) && (i.overdue || (b.membersOf k).all fun m =>
    match b.warps[m]? with
    | none => true
    | some w => w.retired || w.live == 0#64 || i.arrived.contains m || !mayArrive s c w)

end Sys2Proof.Machine
end

