-- ==== Sys2Proof/Machine/Issue.lean ====
section
/-! DEFINITION. How an instruction word issues: hints, the checks of Table 17.8 in their order, the contract checkers, the
rendezvous of set and block scope, and the one place where an effect is performed (06 R114 to R131; 17 R310 to R314). -/

namespace Sys2Proof.Machine

open Sys2Proof

/-! ### Hints (17 R311 to R314) -/

/-- KIND of a hint word. -/
def hintKind (w : Word) : Nat := bits w 22 4

/-- PAYLOAD of a hint word. -/
def hintPayload (w : Word) : Nat := bits w 0 22

/-- The payload of the bound hint of a kind. -/
def hintOf (hs : List Word) (kind : Nat) : Option Nat := (hs.find? fun w => hintKind w == kind).map hintPayload

/-- Payloads of the bound IMM hints, concatenated in address order, and the number of their bits (17 R314). -/
def immHint (hs : List Word) : Nat × Nat :=
  (hs.filter fun w => hintKind w == 0).foldl (fun r w => (r.1 * 2 ^ 22 + hintPayload w, r.2 + 22)) (0, 0)

/-- An immediate or offset of `n` low bits, widened by IMM hints and sign-extended (17 R314). -/
def immExt (hs : List Word) (low n : Nat) : Int :=
  let (h, k) := immHint hs
  sextInt (k + n) (h * 2 ^ n + low)

/-- What a memory instruction is to a MEMORD hint (09 R179). -/
inductive MemClass where
  | load | store | atomic | fence
deriving DecidableEq, Repr

/-- What an instruction accepts of an ARITH hint (17 R313). -/
structure ArithRule where
  /-- FCMP: no saturate, no stochastic -/
  cmp : Bool
  /-- its result is at most 16 bits wide: stochastic rounding is legal (07 R139) -/
  sr : Bool
deriving DecidableEq, Repr

/-- What the issue contract needs to know of an instruction. -/
structure Meta where
  /-- SC field -/
  sc : Nat
  /-- class distance of its destinations (06 Table 6.4); 0: long-latency or interlocked -/
  dist : Nat := 0
  /-- LA field of a long-latency instruction (06 R128) -/
  la : Option Nat := none
  /-- vector sources -/
  vin : List VOp := []
  /-- vector destinations -/
  vout : List VOp := []
  /-- scalar and index-register sources -/
  srcs : List Reg := []
  /-- scalar and index-register destinations -/
  dsts : List Reg := []
  /-- accepts IMM -/
  imm : Bool := false
  /-- accepts MEMORD, as this class; `.cu` allowed -/
  mem : Option (MemClass × Bool) := none
  /-- accepts ARITH -/
  arith : Option ArithRule := none
  /-- accepts STAMP -/
  stamp : Bool := false
  /-- accepts REMOTE -/
  remote : Bool := false
  /-- may be executed in a trap handler (14 R268) -/
  handler : Bool := true
  /-- major 0x29 other than RFT (14 R264) -/
  priv : Bool := false
  /-- makes an access, or is a fence, pipe, engine, handle, batch or network instruction (09 R193) -/
  access : Bool := false
deriving DecidableEq, Repr

/-- MEMORD payload rules (09 R179). -/
def memordOk (c : MemClass) (cuOk : Bool) (p : Nat) : Bool :=
  let order := p % 4
  let scope := p / 4 % 8
  let cu := p / 32 % 2
  let cache := p / 64 % 4
  p / 256 == 0 && scope ≤ 5 && cache != 3
  && (match c with
      | .load => order ≤ 1
      | .store => order == 0 || order == 2
      | .atomic => true
      | .fence => order != 0 && cu == 0 && cache == 0)
  && (cu == 0 || (c == .atomic && cuOk && order == 0))

/-- ARITH payload rules (17 R313). -/
def arithOk (r : ArithRule) (p : Nat) : Bool :=
  let b (i : Nat) : Bool := p / 2 ^ i % 2 == 1
  p / 128 == 0
  && (b 2 || p % 4 == 0)
  && (b 5 || !b 4)
  && !(b 2 && b 6)
  && !(r.cmp && (b 3 || b 6))
  && !(b 6 && !r.sr)

/-- A bound hint is of a kind that the instruction accepts, with a legal payload (17 R311, R313). -/
def hintOk (m : Meta) (w : Word) : Bool :=
  let p := hintPayload w
  match hintKind w with
  | 0 => m.imm
  | 1 => p % 4 != 3 && p / 8 == 0
  | 2 => match m.mem with
    | some (c, cu) => memordOk c cu p
    | none => false
  | 3 => match m.arith with
    | some r => arithOk r p
    | none => false
  | 4 => m.stamp && p / 64 == 0
  | 5 => true
  | 6 => m.remote && p < 768
  | _ => false

/-- The hint rules that are checked at the instruction: accepted kinds and payloads, and one hint of each kind but IMM
(17 R311). -/
def hintsOk (m : Meta) (hs : List Word) : Bool :=
  hs.all (hintOk m) && (match hs with
    | [a, b] => hintKind a != hintKind b || hintKind a == 0
    | _ => true)

/-! ### The instruction as it issues -/

/-- One instance of an instruction's issue. -/
structure Ix where
  /-- core -/
  core : Nat
  /-- block slot -/
  slot : Nat
  /-- split slot of every member -/
  split : Nat
  /-- members, ascending: the issuing warp, or those of the rendezvous that have arrived -/
  members : List Nat
  /-- lead (06 R117) -/
  lead : Nat
  /-- address of the instruction word -/
  pc : BitVec 64
  /-- SC -/
  sc : Nat
  /-- bound hint words -/
  hints : List Word
  /-- lanes that a re-issue still has to perform, by member (empty: all) (10 R201) -/
  todo : Tab Mask := []
  /-- faults of the first issue that wait: member, lane, cause, address (19 R376) -/
  deferred : List (Nat × Nat × Nat × Nat) := []
  /-- the members' issuing splits before the word -/
  saved : List (Nat × Split) := []
deriving DecidableEq, Repr

/-- What an effect answers: it is performed; it waits, with what changes meanwhile; or it traps after what it has done. -/
inductive Res where
  /-- performed -/
  | done (s : State)
  /-- not issued: the split stays before it, and `f` changes the state that stays -/
  | wait (r : Stall) (f : State → State)
  /-- trap -/
  | trap (t : TrapReq) (s : State)

/-- A member warp of an instance. -/
def Ix.warp? (x : Ix) (s : State) (m : Nat) : Option Warp := s.warp? x.core x.slot m

/-- A scalar register of the lead (17 Table 17.12: rs). -/
def Ix.rs (x : Ix) (s : State) (n : Nat) : DWord :=
  match x.warp? s x.lead with
  | some w => w.s n
  | none => 0#64

/-- Execute mask of a member's issuing split. -/
def Ix.em (x : Ix) (w : Warp) : Mask :=
  match w.splits[x.split]? with
  | some p => p.em
  | none => 0#64

/-- Changes every member. -/
def Ix.each (x : Ix) (s : State) (f : Nat → Warp → Warp) : State :=
  x.members.foldl (fun s m => s.modWarp x.core x.slot m (f m)) s

/-- Writes a scalar register in every member (17 Table 17.12: ws). -/
def Ix.ws (x : Ix) (s : State) (n : Nat) (v : DWord) : State := x.each s fun _ w => w.setS n v

/-- The block of an instance. -/
def Ix.block? (x : Ix) (s : State) : Option Block := s.block? x.core x.slot

/-- The context of an instance. -/
def Ix.asid (x : Ix) (s : State) : Nat := blockAsid s x.core x.slot

/-- Where its traps are taken. -/
def Ix.at_ (x : Ix) : TrapAt :=
  { core := x.core, slot := x.slot, warp := x.lead, split := x.split, pc := x.pc, sc := x.sc,
    members := if x.sc ≤ 1 then [] else x.members }

/-- The members with their warps. -/
def Ix.warps (x : Ix) (s : State) : List (Nat × Warp) :=
  x.members.filterMap fun m => (x.warp? s m).map fun w => (m, w)

/-- The active lanes of the instance in set-lane order: member and lane (05 R110; 17 Table 17.12: active). -/
def Ix.active (x : Ix) (s : State) : List (Nat × Nat) :=
  (x.warps s).flatMap fun p => (maskLanes (x.em p.2)).map fun l => (p.1, l)

/-- Whether a member's lane is a helper lane. -/
def Ix.isHelper (x : Ix) (s : State) (m l : Nat) : Bool :=
  match x.warp? s m with
  | some w => inMask w.helper l
  | none => false

/-! ### The checks -/

/-- Source fields as the checkers see them. -/
def Meta.reads (m : Meta) : List Reg := m.vin.flatMap VOp.srcRegs ++ m.vout.flatMap VOp.dstSrc ++ m.srcs

/-- Destination fields as the checkers see them. -/
def Meta.writes (m : Meta) : List Reg := m.vout.flatMap VOp.dstRegs ++ m.dsts

/-- A source names a destination still within its distance (06 R127). -/
def distanceBroken (p : Split) (m : Meta) : Bool :=
  p.hist.zipIdx.any fun e => e.1.any fun d => e.2 + 1 < d.2 && m.reads.contains d.1

/-- A read or a write of a pending destination inside its window (06 R128); indexed operands count by the registers they
resolve to (DEDUCED, log 10). -/
def lookaheadBroken (w : Warp) (p : Split) (m : Meta) : Bool :=
  let touched := m.reads ++ m.writes ++ (m.vin ++ m.vout).flatMap fun o => o.resolved w p.em
  p.wins.any fun x => x.left != 0 && x.regs.any fun r => touched.contains r

/-- Row 5 of Table 17.8: distance, then lookahead. -/
def contractCheck (w : Warp) (p : Split) (m : Meta) : Option Nat :=
  if distanceBroken p m then some 0x041
  else if lookaheadBroken w p m then some 0x042
  else none

/-- The split has reached position n + 1 of a window whose result is not written yet (06 R128). -/
def lookaheadWait (p : Split) : Bool := p.wins.any fun x => x.left == 0 && x.pend != .done

/-- A result of the split is held in the operand log (10 R201). -/
def logHeld (p : Split) : Bool := p.wins.any fun x => match x.pend with | .log _ _ => true | _ => false

/-- An instruction that R193 excludes waits while lanes of its split, or of the split whose trap the warp handles, are held
in the operand log. -/
def accessHeld (w : Warp) (p : Split) (m : Meta) : Bool :=
  m.access && (logHeld p || (match w.frozen with
    | some (table, k) => (match table[k]? with | some q => logHeld q | none => false)
    | none => false))

/-- A handler's first instruction waits until every pending result that is not in the operand log is written (14 R267). -/
def handlerHeld (w : Warp) : Bool :=
  match w.frozen with
  | none => false
  | some (table, _) => table.any fun p => p.wins.any fun x =>
      match x.pend with | .xshuf => true | .remote _ => true | _ => false

/-- Rows 1 to 3 of Table 17.8 for a split that reaches the word: the encoding and the hints, the landing rule (17 R312),
privilege (14 R264), what a handler must not execute (14 R268), set scope in no set (06 R116). `extra` is what an
instruction adds to row 1. -/
def firstCheck (i : Instr) (m : Meta) (extra : Bool) (s : State) (b : Block) (warp : Nat) (w : Warp) (p : Split) :
    Option Nat :=
  if !(i.wf && extra && hintsOk m p.hints) || (p.landed && hintAt s b.asid (p.pc - 4#64)) then some 0x001
  else if m.priv && !b.supervisor then some 0x1E3
  else if w.frozen.isSome && (!m.handler || 2 ≤ m.sc) then some 0x1E9
  else if m.sc == 2 && (setOf b warp).isNone then some 0x182
  else none

/-- A direct operand beyond the allocation (05 R98). -/
def boundsCheck (b : Block) (m : Meta) : Option Nat :=
  if (m.vin ++ m.vout).all fun o => o.inBounds b.kernel.d then none else some 0x043

/-- An EXIT of another split has issued and waits for the warp's pending results: no other split issues again, outside a trap handler
(18 R352). -/
def Warp.exitHolds (w : Warp) (k : Nat) : Bool :=
  w.frozen.isNone && match w.exiting with
    | none => false
    | some (j, pc) => j != k && match w.splits[j]? with
      | some q => q.valid && q.pc == pc
      | none => false

/-- The split at the port may issue: its block runs, its warp is hot and waits for nothing, the split is valid. -/
def canIssue (s : State) (p : Port) : Bool :=
  match s.block? p.core p.slot with
  | none => false
  | some b =>
    b.ready && !b.stopped && !b.frozen && !(s.core p.core).halted &&
    match b.warps[p.warp]? with
    | none => false
    | some w =>
      w.started && !w.retired && !w.suspended && !w.rftWait && !w.refillBlocked && w.hot && !w.restaging && !handlerHeld w &&
      !w.exitHolds p.split &&
      match w.splits[p.split]? with
      | none => false
      | some q => q.valid && !q.jwait && (!q.rwait || q.redo.isSome) && !q.faultWait

/-! ### Performing -/

/-- The window that a long-latency instruction opens (06 R128). -/
def openWindow (m : Meta) (w : Warp) (em : Mask) (pc : BitVec 64) : Option Window :=
  match m.la with
  | none => none
  | some n =>
    let regs := m.writes ++ m.vout.flatMap fun o => o.resolved w em
    if regs.isEmpty then none else some { regs := regs, left := n, pend := .done, pc := pc }

/-- Word of a SCHED hint's effect on its warp (17 Table 17.7). -/
def applySched (w : Warp) (hs : List Word) (cycle : Nat) : Warp :=
  match hintOf hs 1 with
  | some p => if p % 4 = 1 then { w with keepUntil := cycle + 256 } else if p % 4 = 2 then { w with swapFirst := true } else w
  | none => w

/-- An issuing split past its word: pc + 4, hints consumed, checker and windows moved on. -/
def Split.passed (m : Meta) (x : Ix) (cycle : Nat) (w : Warp) (p : Split) : Split :=
  { p.step (if m.dist = 0 then [] else m.writes.map fun r => (r, m.dist)) (openWindow m w p.em x.pc) cycle with
    pc := x.pc + 4#64, hints := [], landed := false, rwait := false, redo := none }

/-- A member passes the instruction word. -/
def passWord (m : Meta) (x : Ix) (cycle : Nat) (w : Warp) : Warp :=
  applySched { w with
    lastIssue := cycle
    swapFirst := false
    yielded := false
    splits := modAt w.splits x.split (Split.passed m x cycle w) } x.hints cycle

/-- A direct vector source lies in a group that the warp's slice does not hold: the region does not name it, or its copy still
runs (05 R102, R103). -/
def unstaged (m : Meta) (w : Warp) : Bool :=
  m.vin.any fun o => o.direct && (List.range o.w).any fun i => !bit w.staged ((o.f + i) / 4)

/-- Indexed vector operands (05 Table 5.3). -/
def indexedCount (m : Meta) : Nat := ((m.vin ++ m.vout).filter fun o => !o.direct).length

/-- Cycles in which an instruction's operands are delivered: the largest of their delays (05 R103, Table 5.3). -/
def operandDelay (m : Meta) (w : Warp) : Nat := if unstaged m w then 8 else if indexedCount m = 0 then 0 else 4

/-- The operands of the instruction at a split's pc are still to be delivered. -/
def operandsOut (s : State) (w : Warp) (q : Split) (m : Meta) : Bool :=
  operandDelay m w != 0 && (match q.operands with
    | some (pc, t) => pc != q.pc || decide (s.cycle.toNat < t)
    | none => true)

/-- The split waits for its operands, whose delivery begins if it has not begun: R103 does not say when it begins (05 R103; 15 Table
15.4; DEDUCED, log 71). -/
def awaitOperands (s : State) (p : Port) (w : Warp) (m : Meta) : State :=
  let t := s.cycle.toNat + operandDelay m w
  s.modSplit p.core p.slot p.warp p.split fun q =>
    { q with
      stall := .operandMiss
      operands := match q.operands with | some (pc, t') => some (if pc = q.pc then (pc, t') else (q.pc, t)) | none => some (q.pc, t) }

/-- What operand delivery counts for an instruction, which issues once for its members (05 Table 5.3; 06 R115). -/
def countOperands (m : Meta) (c asid : Nat) (ws : List Warp) (s : State) : State :=
  let s := if ws.any (unstaged m) then pmCount s c asid 3 1 else s
  if indexedCount m = 0 then s else pmCount s c asid 4 (indexedCount m)

/-- Every member passes the instruction word. -/
def advance (m : Meta) (x : Ix) (s : State) : State :=
  let s := countOperands m x.core (x.asid s) ((x.warps s).map (·.2)) s
  let s := x.each s fun _ w => passWord m x s.cycle.toNat w
  let s := s.modCore x.core fun c => { c with lastIssue := s.cycle.toNat }
  pmCount s x.core (x.asid s) 1 1

/-- The members' issuing splits as they were. -/
def savedSplits (x : Ix) (s : State) : List (Nat × Split) :=
  (x.warps s).filterMap fun p => (p.2.splits[x.split]?).map fun q => (p.1, q)

/-- Puts the issuing splits back: the instruction has not issued. -/
def restoreSplits (x : Ix) (saved : List (Nat × Split)) (f : Split → Split) (s : State) : State :=
  saved.foldl (fun s p => s.modSplit x.core x.slot p.1 x.split fun _ => f p.2) s

/-- The marker record of a TRACE hint (17 Table 17.7). -/
def traceMark (x : Ix) (s : State) : State :=
  match hintOf x.hints 5 with
  | none => s
  | some p =>
    if bit (s.ctx (x.asid s)).dbgctl 9 then writeMarker s x.core x.slot x.lead x.pc p else s

/-- An instruction that issues and then waits in place (a JOIN, a barrier) has issued when it begins to wait. -/
def issuedInPlace (x : Ix) (s : State) : State :=
  let cycle := s.cycle.toNat
  let s := x.each s fun _ w => applySched
    { w with lastIssue := cycle, swapFirst := false, yielded := false
             splits := modAt w.splits x.split fun p => { p with lastIssue := cycle } } x.hints cycle
  pmCount (traceMark x s) x.core (x.asid s) 1 1

/-- Performs an instruction whose checks have passed: every member passes the word, and the effect follows; a wait leaves
the splits before the word; a trap that does not resume at the next word finds them there too, and a TRACE hint has its record
all the same (19 R370). -/
def perform (m : Meta) (eff : Ix → State → Res) (x : Ix) (s : State) : State :=
  let saved := savedSplits x s
  match eff { x with saved := saved } (advance m x s) with
  | .done t => traceMark x t
  | .wait r f => f (restoreSplits x saved (fun p => { p with stall := r }) s)
  | .trap q t =>
    if q.resnext || resnextOf q.cause then takeTrap (traceMark x t) x.at_ q
    else takeTrap (restoreSplits x saved id (traceMark x t)) x.at_ q

/-- Row 4 of Table 17.8, then the effect. -/
def performChecked (m : Meta) (uniform : Ix → State → Option Nat) (eff : Ix → State → Res) (x : Ix) (b : Block)
    (s : State) : State :=
  match (boundsCheck b m).or (uniform x s) with
  | some c => takeTrap s x.at_ { cause := c }
  | none => perform m eff x s

/-- A split shows a stall reason and does not issue. -/
def showStall (s : State) (p : Port) (r : Stall) : State :=
  s.modSplit p.core p.slot p.warp p.split fun q => { q with stall := r }

/-- An instruction of lane or warp scope (06 R114). -/
def issueAlone (m : Meta) (uniform : Ix → State → Option Nat) (eff : Ix → State → Res) (s : State) (b : Block) (w : Warp)
    (q : Split) (x : Ix) : State :=
  match ((boundsCheck b m).or (uniform x s)).or (contractCheck w q m) with
  | some c => takeTrap s x.at_ { cause := c }
  | none =>
    if accessHeld w q m then showStall s s.port .lookahead
    else if operandsOut s w q m then awaitOperands s s.port w m
    else perform m eff x s

/-- The members of a completed instance that are still to issue its instruction (06 R126), in ascending order. -/
def redoMembers (s : State) (c slot : Nat) (r : Reissue) : List (Nat × Split) :=
  match s.block? c slot with
  | none => []
  | some b => (List.range b.warps.length).filterMap fun m =>
    if !r.members.contains m then none
    else match b.warps[m]? with
      | none => none
      | some w => match w.splits[0]? with
        | none => none
        | some q => if !w.retired && q.redo == some r then some (m, q) else none

/-- Issues the instruction of a completed instance once, when every member that is to issue it stands at it. -/
def issueRedo (m : Meta) (uniform : Ix → State → Option Nat) (eff : Ix → State → Res) (s : State) (x : Ix) (r : Reissue) :
    State :=
  let ms := redoMembers s x.core x.slot r
  if ms.isEmpty || ms.any (fun p => !p.2.rwait || p.2.pc != r.pc) then s
  else
    let names := ms.map (·.1)
    let lead := if names.contains r.lead || !r.todo.isEmpty then r.lead else leadOf names
    match s.block? x.core x.slot with
    | none => s
    | some b =>
      performChecked m uniform eff
        { x with members := names, lead := lead, split := 0, todo := r.todo, deferred := r.deferred } b s

/-- The instance that a set- or block-scope instruction of a warp belongs to (06 R124). -/
def instKey (b : Block) (sc warp : Nat) : InstKey := if sc = 2 then .set ((setOf b warp).getD 0) else .block

/-- A split waits at an instance (06 R123). -/
def waitAt (s : State) (p : Port) : State :=
  s.modSplit p.core p.slot p.warp p.split fun q => { q with rwait := true, stall := .rendezvous }

/-- A split reaches a set- or block-scope instruction, or a barrier with level `bar` (`goOn` for BARA): it waits at the open
instance or opens one; another address is a mismatch (06 R124); a warp that has arrived at an open barrier instance waits, not
issued (18 R331). An overdue instance expires first (06 R125). -/
def reach (s : State) (p : Port) (b : Block) (q : Split) (k : InstKey) (bar : Option Bool) (goOn : Bool := false) : State :=
  let limit := (s.ctx b.asid).timeout
  match b.inst k with
  | none =>
    settle (waitAt (s.setBlock p.core p.slot (b.setInstAt k (some (Inst.opened q.pc limit bar goOn)))) p) p.core p.slot k
  | some i =>
    if i.overdue then instTimeout s p.core p.slot k b i
    else if i.bar.isSome && i.arrived.contains p.warp then showStall s p .rendezvous
    else if i.pc = q.pc then settle (waitAt s p) p.core p.slot k
    else instTrap s p.core p.slot k 0x181 [(p.warp, p.split, q.pc)]

/-- An instruction of set or block scope (06 R115, R123, R126): arrival, and, once its instance has completed, one issue for
all its members. A re-issued instruction does not rendezvous again. -/
def issueMember (m : Meta) (uniform : Ix → State → Option Nat) (eff : Ix → State → Res) (s : State) (b : Block) (w : Warp)
    (q : Split) (x : Ix) : State :=
  match q.redo with
  | some r =>
    if r.pc = q.pc then issueRedo m uniform eff (waitAt s s.port) x r
    else s.modSplit s.port.core s.port.slot s.port.warp s.port.split fun q => { q with redo := none }
  | none =>
    match contractCheck w q m with
    | some c => takeTrap s { x.at_ with members := [] } { cause := c }
    | none =>
      if accessHeld w q m then showStall s s.port .lookahead
      else if operandsOut s w q m then awaitOperands s s.port w m
      else
        let p := s.port
        let s := reach s p b q (instKey b x.sc p.warp) none
        match s.split? p.core p.slot p.warp 0 with
        | none => s
        | some q => match q.redo with
          | some r => issueRedo m uniform eff s x r
          | none => s

/-- The scalar that a bound STAMP hint names is a source (19 R370). -/
def Meta.withStamp (m : Meta) (hs : List Word) : Meta :=
  match hintOf hs 4 with
  | some p => if m.stamp then { m with srcs := m.srcs ++ [.s (p % 64)] } else m
  | none => m

/-- The issue of an instruction word by the split at the port. `extra` is what the instruction adds to row 1 of Table 17.8,
`uniform` its warp-uniform operand faults (row 4), `eff` its effect with its per-lane faults (row 7). -/
def issue (i : Instr) (m : Meta) (extra : Block → Split → Bool) (uniform : Ix → State → Option Nat)
    (eff : Ix → State → Res) (s : State) : State :=
  let p := s.port
  if !canIssue s p then s
  else
    match s.block? p.core p.slot, s.warp? p.core p.slot p.warp, s.split? p.core p.slot p.warp p.split with
    | some b, some w, some q =>
      let x : Ix := { core := p.core, slot := p.slot, split := p.split, members := [p.warp], lead := p.warp, pc := q.pc,
                      sc := m.sc, hints := q.hints }
      let m := m.withStamp q.hints
      if lookaheadWait q then showStall s p .lookahead
      else
        match firstCheck i m (extra b q) s b p.warp w q with
        | some c => takeTrap s { x.at_ with members := [] } { cause := c }
        | none =>
          if m.sc ≤ 1 then
            match q.redo with
            | some r =>
              issueAlone m uniform eff s b w q (if r.pc = q.pc then { x with todo := r.todo, deferred := r.deferred } else x)
            | none => issueAlone m uniform eff s b w q x
          else issueMember m uniform eff s b w q x
    | _, _, _ => s

/-- No addition to row 1. -/
def noExtra : Block → Split → Bool := fun _ _ => true

/-- No warp-uniform operand fault of its own. -/
def noUniform : Ix → State → Option Nat := fun _ _ => none

/-- A hint word issues: it is bound to the next word, and takes a position; a third one in a row traps at its own address
(17 R311). -/
def bindHint (word : Word) (s : State) : State :=
  let p := s.port
  if !canIssue s p then s
  else
    match s.block? p.core p.slot, s.split? p.core p.slot p.warp p.split with
    | some b, some q =>
      let at_ : TrapAt := { core := p.core, slot := p.slot, warp := p.warp, split := p.split, pc := q.pc, sc := 0 }
      if lookaheadWait q then showStall s p .lookahead
      else if 2 ≤ q.hints.length || (q.landed && hintAt s b.asid (q.pc - 4#64)) then
        takeTrap s at_ { cause := 0x001 }
      else
        let cycle := s.cycle.toNat
        let s := s.modWarp p.core p.slot p.warp fun w =>
          { w with
            lastIssue := cycle
            splits := modAt w.splits p.split fun q =>
              { q.step [] none cycle with pc := q.pc + 4#64, hints := q.hints ++ [word], landed := false } }
        let s := s.modCore p.core fun c => { c with lastIssue := cycle }
        pmCount s p.core b.asid 1 1
    | _, _ => s

/-- A word that is no instruction traps 0x001 (17 R304, R310 row 1). Its record carries the word's SC, where the format has one
(17 R301). -/
def illegalWord (word : Word) (s : State) : State :=
  let p := s.port
  if !canIssue s p then s
  else
    match s.split? p.core p.slot p.warp p.split with
    | some q =>
      if lookaheadWait q then showStall s p .lookahead
      else
        takeTrap s { core := p.core, slot := p.slot, warp := p.warp, split := p.split, pc := q.pc
                     sc := if isHint word then 0 else bits word 24 2 } { cause := 0x001 }
    | none => s

end Sys2Proof.Machine
end

