-- ==== Sys2Proof/Machine/Cache.lean ====
section
/-! DEFINITION. The accesses of a core: L1D, writes home, acquire and release actions, commutative updates, scratch, and
one access to a translated address (08 R157 to R167; 09 R180; 13 R241). -/

namespace Sys2Proof.Machine

open Sys2Proof

/-! ### L1D -/

/-- Words of a line that a byte range touches. -/
def wordMask (o n : Nat) : BitVec 32 := BitVec.ofNat 32 ((2 ^ ((o + n + 3) / 4) - 1) / 2 ^ (o / 4) * 2 ^ (o / 4))

/-- Usable words: dirty, or valid with pts ≤ lrts (08 R159). -/
def L1Line.usable (x : L1Line) (pts : BitVec 20) : BitVec 32 :=
  if pts.toNat ≤ x.lrts.toNat then x.dirty ||| x.valid else x.dirty

/-- A line just allocated. -/
def L1Line.empty : L1Line := { valid := 0, dirty := 0, lrts := 0, data := 0, since := 0 }

/-- Makes room for a line in its set of 8 ways: a line that the specification does not name leaves (log 3), its dirty words
written home (08 R159, R160). -/
def l1Room (s : State) (c asid a : Nat) : State :=
  let mine := (s.core c).l1d.filter fun p => p.1 % 128 == a % 128
  if mine.any (fun p => p.1 == a) || mine.length < 8 then s
  else
    let (n, s) := s.draw
    match mine[n % mine.length]? with
    | none => s
    | some v =>
      let s := flushLine s c asid v.1 false
      s.modCore c fun k => { k with l1d := k.l1d.del v.1 }

/-- Lease length of a context (08 R162). -/
def leaseOf (s : State) (asid : Nat) : Nat := (s.ctx asid).lease

/-- Merges a line served at home into L1D: every word that is not dirty (08 R160). -/
def mergeFill (s : State) (c asid a : Nat) (d : Line) (wts rts : BitVec 20) : State :=
  let s := l1Room s c asid a
  let x := ((s.core c).l1d.get? a).getD L1Line.empty
  let s := setL1 s c a { x with data := mergeWords d x.data x.dirty, valid := 0xFFFFFFFF#32, lrts := rts }
  raisePts s c wts

/-- A merging fill (08 R160): a read event at home. -/
def fillLine (s : State) (c asid a : Nat) : State :=
  let s := drainWrites s c (some a) false
  let (h, s) := homeRead s a (s.core c).pts (leaseOf s asid) false
  pmCount (mergeFill s c asid a h.data h.wts h.rts) c asid 6 1

/-- A range of bytes of a line hits in a core's L1D. -/
def l1Hit (s : State) (c a o n : Nat) : Bool :=
  match (s.core c).l1d.get? a with
  | none => false
  | some x => wordMask o n &&& ~~~(x.usable (s.core c).pts) == 0#32

/-- A load through L1D (08 R160). -/
def l1Load (s : State) (c asid a o n : Nat) : Nat × State :=
  let s := if l1Hit s c a o n then pmCount s c asid 5 1 else fillLine s c asid a
  match (s.core c).l1d.get? a with
  | some x => (lineNum x.data o n, s)
  | none => (0, s)

/-- A store through L1D: a narrow store to a word that is not usable fills first (08 R160). -/
def l1Store (s : State) (c asid a o n v : Nat) : State :=
  let s := if n < 4 && !l1Hit s c a o n then fillLine s c asid a else l1Room s c asid a
  let x := ((s.core c).l1d.get? a).getD L1Line.empty
  let m := wordMask o n
  setL1 s c a { x with
    data := lineSet x.data o n v, valid := x.valid ||| m, dirty := x.dirty ||| m
    since := if x.dirty = 0#32 then s.cycle.toNat else x.since }

/-- A `.strm` store in L1D marks its home line once its words are written home. -/
def noteStrm (s : State) (c a : Nat) (strm : Bool) : State :=
  if strm && !(s.core c).strm.contains a then s.modCore c fun k => { k with strm := a :: k.strm } else s

/-- A load performed at home: the core's own dirty words of the line go home first, and the read event raises pts
(08 Table 8.8, R163). -/
def loadHome (s : State) (c asid a o n : Nat) : Nat × State :=
  let s := flushLine s c asid a false
  let (h, s) := homeRead s a (s.core c).pts (leaseOf s asid) false
  (lineNum h.data o n, raisePts s c h.wts)

/-- A store performed at home (08 Table 8.8). -/
def storeHome (s : State) (c asid a o n v : Nat) (release : Bool) : State :=
  let s := flushLine s c asid a release
  let (w, s) := homeWrite s a (s.core c).pts (fun d => lineSet d o n v) [(o, n)] release
  pmCount (s.modCore c fun k => { k with pts := w }) c asid 7 1

/-! ### Release and acquire -/

/-- Warp number under which the pod-remote accesses of an operation wait. -/
def engineWarp : Nat := 0x40

/-- The split has earlier pod-remote accesses of a sort that are not complete. -/
def remotePending (s : State) (c slot warp split : Nat) (f : RemPend → Bool) : Bool :=
  match s.split? c slot warp split with
  | none => false
  | some q => q.rem.any fun t => match s.remPend.get? t with
    | some r => f r
    | none => false

/-- The split has pod-remote writes that are not complete (09 R192). -/
def remoteWrites (s : State) (c slot warp split : Nat) : Bool := remotePending s c slot warp split fun r => r.kind != 0

/-- A fence merges every line of which the core holds a partial whose scope it covers (08 R167, 19 R363). -/
def mergeCovered (s : State) (c scope : Nat) : State :=
  (((s.core c).partials.filter fun p => decide (p.scope ≤ scope)).map (·.line)).foldl mergeLine s

/-! ### Atomics and commutative updates -/

/-- The new value of an atomic (18 R327): operator, old value, operand. AOP 13 is not among them. -/
def atomicOp (aop : Nat) (old x : Nat) : Nat :=
  match aop with
  | 2 => (Fmt.bf16.bin .rne (Fmt.bf16.addV .rne) (old % 2 ^ 16) (x % 2 ^ 16)).1
  | 12 => x % 2 ^ 32
  | 14 => (old + x) % 2 ^ 64
  | 15 => x % 2 ^ 64
  | n => (cuCombine n (BitVec.ofNat 32 old) (BitVec.ofNat 32 x)).toNat

/-- Access size of an atomic (17 Table 17.6). -/
def atomicSize (aop : Nat) : Nat := if aop = 2 then 2 else if aop = 14 ∨ aop = 15 then 8 else 4

/-- The value that an atomic leaves, if it writes: cas compares with the high word of its operand (18 R327). -/
def atomicNew (aop old x : Nat) : Option Nat :=
  if aop = 13 then (if old = x / 2 ^ 32 % 2 ^ 32 then some (x % 2 ^ 32) else none) else some (atomicOp aop old x)

/-- An atomic at home by a core: the line's dirty words go home and lose their valid bits, then the read event, and the
write event if it writes (08 R160, R162; 18 R327). -/
def atomicHome (s : State) (c asid a o : Nat) (aop x : Nat) (release : Bool) : Nat × State :=
  let dirty := match (s.core c).l1d.get? a with | some l => l.dirty | none => 0#32
  let s := flushLine s c asid a release
  let s := match (s.core c).l1d.get? a with
    | some l => setL1 s c a { l with valid := l.valid &&& ~~~dirty }
    | none => s
  let n := atomicSize aop
  let (h, s) := homeRead s a (s.core c).pts (leaseOf s asid) false
  let s := raisePts s c h.wts
  let old := lineNum h.data o n
  match atomicNew aop old x with
  | none => (old, s)
  | some v =>
    let (w, s) := homeWrite s a (s.core c).pts (fun d => lineSet d o n v) [(o, n)] release
    (old, s.modCore c fun k => { k with pts := w })

/-- Adds one element update to a partial. -/
def Partial.add (p : Partial) (idx : Nat) (v : Word) (scope : Nat) : Partial :=
  { p with
    scope := if scope < p.scope then scope else p.scope
    elems := p.elems.put idx (match p.elems.get? idx with | some u => cuCombine p.op u v | none => v) }

/-- Adds an update to a list of partials of one holder, opening the line's partial if it holds none. -/
def addPartial (ps : List Partial) (a op idx : Nat) (v : Word) (scope : Nat) : List Partial :=
  if ps.any (fun p => p.line == a) then ps.map fun p => if p.line = a then p.add idx v scope else p
  else ps ++ [{ line := a, op := op, scope := scope, elems := [(idx, v)] }]

/-- Brings a line into commutative-update state for an operator: partials of another operator merge first (08 R167). -/
def openCu (s : State) (a op : Nat) : State :=
  let s := if (linePartials s a).any (fun p => p.op != op) then mergeLine s a else s
  let (h, s) := fetchLine s a
  { s with l2 := s.l2.put a { h with cu := true } }

/-- A `.cu` update by a core at byte `o` of a line (08 R166): the core's own dirty words of the line go home first, and a
65th partial line merges the oldest. -/
def cuUpdate (s : State) (c asid a o op x scope : Nat) : State :=
  let s := flushLine s c asid a false
  let s := openCu s a op
  let ps := (s.core c).partials
  let s :=
    if ps.any (fun p => p.line == a) || ps.length < 64 then s
    else match ps with
      | [] => s
      | p :: _ => pmCount (mergeLine s p.line) c asid 13 1
  let v : Word := if op = 2 then bf16ToF32 x else BitVec.ofNat 32 x
  s.modCore c fun k => { k with partials := addPartial k.partials a op (o / cuSize op) v scope }

/-- A `.cu` update by an engine of a die (8: the I/O die) (08 R166). -/
def cuUpdateDie (s : State) (die a o op x scope : Nat) : State :=
  let s := openCu s a op
  let v : Word := if op = 2 then bf16ToF32 x else BitVec.ofNat 32 x
  if die < 6 then s.modDie die fun d => { d with partials := addPartial d.partials a op (o / cuSize op) v scope }
  else { s with ioPartials := addPartial s.ioPartials a op (o / cuSize op) v scope }

/-! ### Scratch -/

/-- The slot of the block whose allocation holds a range of a core's scratch, if any (08 R158). -/
def scratchOwner (s : State) (c o n : Nat) : Option Block :=
  ((s.blocks.filter fun p => p.1 / 96 == c && decide (p.2.scrBase ≤ o) && decide (o + n ≤ p.2.scrBase + p.2.scrSize)).map
    (·.2)).head?

/-- Reads scratch bytes of a core as a number. -/
def scratchNum (s : State) (c o n : Nat) : Nat := Mem.num (s.core c).scratch o n

/-- Writes scratch bytes of a core on behalf of core `c`, whose lease time an acquire of the scratch takes on (09 R181; DESIGN
CHOICE, log 54). -/
def scratchStore (s : State) (c k o n v : Nat) : State :=
  let t := (s.core c).pts
  s.modCore k fun x => { x with scratch := Mem.store x.scratch o n v, scrTs := tsMax x.scrTs t }

/-- Lease time that an acquire of a counter by a core takes on: that of its releases at device scope or wider, of those at die scope
on the core's die, and of the core's own operations that have added to it (13 R245; 09 R181, R189). -/
def counterTs (s : State) (c ctr : Nat) : BitVec 20 :=
  tsMax (tsMax (s.ctrTs.getD ctr 0#20) ((s.die (coreDie c)).ctrTs.getD ctr 0#20)) ((s.core c).opTs.getD ctr 0#20)

/-- A release update of a counter by an agent of core `c` at a scope, or an update that only the core's own block takes on
(09 R189). -/
def ctrReleaseAt (s : State) (c ctr scope : Nat) (rel : Bool) (t : BitVec 20) : State :=
  let raise (l : Tab (BitVec 20)) : Tab (BitVec 20) := l.put ctr (tsMax (l.getD ctr 0#20) t)
  if rel && decide (3 ≤ scope) then { s with ctrTs := raise s.ctrTs }
  else if rel && scope == 2 then s.modDie (coreDie c) fun d => { d with ctrTs := raise d.ctrTs }
  else s.modCore c fun k => { k with opTs := raise k.opTs }

/-! ### One access to a translated address -/

/-- How an access is performed (09 Table 9.3). -/
structure How where
  /-- order: 0 relaxed, 1 acquire, 2 release, 3 acq_rel -/
  order : Nat
  /-- scope code -/
  scope : Nat
  /-- commutative update -/
  cu : Bool
  /-- cache policy -/
  cache : Nat
deriving DecidableEq, Repr

/-- A relaxed access with the default policy. -/
def How.relaxed : How := { order := 0, scope := 0, cu := false, cache := 0 }

/-- The MEMORD hint's meaning, or the default (09 R179). -/
def howOf (hs : List Word) : How :=
  match hintOf hs 2 with
  | some p => { order := p % 4, scope := p / 4 % 8, cu := p / 32 % 2 == 1, cache := p / 64 % 4 }
  | none => .relaxed

/-- The access is an acquire that is performed at home (08 R163). -/
def How.acquires (h : How) : Bool := h.order % 2 == 1 && decide (2 ≤ h.scope)

/-- The access is a release with release actions (08 R163). -/
def How.releases (h : How) : Bool := decide (2 ≤ h.order) && decide (2 ≤ h.scope)

/-- A context that runs firmware may reach the firmware-only areas (08 Table 8.1, 10 R202). -/
def isFirmware (s : State) (asid : Nat) : Bool := (s.ctx asid).firmware

/-- Control word at an offset of the operand log's control area (10 R202): valid until the entry is answered, busy while its
replay runs. What lies between a quarter's 16 words and the next quarter's reads zero (DEDUCED, log 53). -/
def logControl (s : State) (c off : Nat) : Nat :=
  if 16 ≤ off % 0x100 / 8 then 0
  else match (s.core c).oplog.get? (off / 0x100 * 16 + off % 0x100 / 8) with
    | some e => if e.busy then 2 else 1
    | none => 0

/-- Bytes of the control area. -/
def logControlNum (s : State) (c off n : Nat) : Nat :=
  ((List.range (n / 8 + 1)).foldl (fun v i => v + logControl s c (off / 8 * 8 + 8 * i) * 2 ^ (64 * i)) 0)
    / 2 ^ (8 * (off % 8)) % 2 ^ (8 * n)

/-- 32-bit words of a vector in lane order. -/
def vecBytes (v : Vec) : List Byte := lanes.flatMap fun l => toBytes 4 (v.lane l).toNat

/-- The image of an operand-log entry (10 Table 10.5). -/
def LogEntry.image (e : LogEntry) : List Byte :=
  let h0 := match e.hints with | a :: _ => a.toNat | [] => 0
  let h1 := match e.hints with | _ :: b :: _ => b.toNat | _ => 0
  toBytes 8 (e.word.toNat + h0 * 2 ^ 32) ++ toBytes 8 (h1 + e.hints.length * 2 ^ 32 + e.cause * 2 ^ 34)
    ++ toBytes 8 e.base.toNat ++ toBytes 8 e.lanes.toNat ++ vecBytes e.addr ++ e.data.flatMap vecBytes

/-- Bytes of the operand-log area of a window; an entry that holds nothing reads zero (10 R202). -/
def logAreaNum (s : State) (c off n : Nat) : Nat :=
  match (s.core c).oplog.get? (off / 0x10000 * 16 + off % 0x10000 / 0x1000) with
  | some e => ofBytes ((e.image.drop (off % 0x1000)).take n)
  | none => 0

/-- The context owns a trigger counter (13 R241). -/
def ownsCounter (s : State) (asid ctr : Nat) : Bool :=
  match s.ctrOwner.get? ctr with
  | some o => o.valid && o.asid == asid
  | none => false

/-- The causes of a load or engine read at a translated address that no leaf raises (08 R154, R157; 13 R241; 14 Table
14.9). -/
def readCause (s : State) (asid n : Nat) (t : Target) : Option Nat :=
  match t with
  | .hbm pa => if poisoned s pa n then some 0x095 else none
  | .regFrame _ _ => some 0x088
  | .tileFrame _ _ => some 0x088
  | .logEntry _ _ => if isFirmware s asid then none else some 0x088
  | .logCtl _ _ => if isFirmware s asid then none else some 0x088
  | .pipeRegion _ => if isFirmware s asid then none else some 0x088
  | .counters off =>
    if n != 8 then some 0x088
    else if !ownsCounter s asid (off / 8) then some 0x14A else none
  | .scratch c o => match scratchOwner s c o n with
    | some b => if b.asid == asid then none else some 0x089
    | none => some 0x089
  | .remote _ _ => none
  | .zero => none

/-- The causes of a store or atomic at a translated address that no leaf raises. -/
def writeCause (s : State) (asid n : Nat) (t : Target) : Option Nat :=
  match t with
  | .counters _ => some 0x088
  | t => readCause s asid n t

/-- Reads `n` bytes at a target whose causes have been checked, for a lane of core `c`. The pipe region's image has no stated
layout: its bytes are free (log 11). -/
def loadAt (s : State) (c asid n : Nat) (p : Phys) (h : How) : Nat × State :=
  match p.at_ with
  | .hbm pa =>
    let a := lineOf pa
    let o := pa % 128
    let (v, s) := if p.cached && !h.acquires && h.cache != 1 then l1Load s c asid a o n else loadHome s c asid a o n
    (v, markStrm s a (h.cache == 2))
  | .scratch k o => (scratchNum s k o n, if h.acquires then raisePts s c (s.core k).scrTs else s)
  | .counters off =>
    ((s.counters.getD (off / 8) 0#64).toNat,
      if h.acquires then raisePts s c (counterTs s c (off / 8)) else s)
  | .logEntry k off => (logAreaNum s k off n, s)
  | .logCtl k off => (logControlNum s k off n, s)
  | .pipeRegion _ => let (v, s) := s.draw; (v % 2 ^ (8 * n), s)
  | _ => (0, s)

/-- The answer that a write to a control word of the operand log gives, as the turn that comes next (10 R202); a write beyond a
quarter's 16 words has no effect. -/
def logAnswer (s : State) (c off v : Nat) : State :=
  let q := off / 0x100
  let j := off % 0x100 / 8
  let act := v % 4
  let push (byRecord : Bool) (n : Nat) : State :=
    if act = 0 then s else { s with agenda := .answer byRecord act c q n :: s.agenda }
  if off % 8 ≠ 0 ∨ 16 ≤ j then s
  else if v / 4 % 2 = 1 then (if j ≠ 0 ∨ v / 8 % 2 ^ 29 ≠ 0 then s else push true (v / 2 ^ 32))
  else if v / 8 ≠ 0 then s
  else push false j

/-- Writes `n` bytes at a target whose causes have been checked. -/
def storeAt (s : State) (c asid n v : Nat) (p : Phys) (h : How) : State :=
  match p.at_ with
  | .hbm pa =>
    let a := lineOf pa
    let o := pa % 128
    if p.cached && !h.releases && h.cache != 1 then noteStrm (l1Store s c asid a o n v) c a (h.cache == 2)
    else
      let t := markStrm (storeHome s c asid a o n v (h.releases && decide (3 ≤ h.scope))) a (h.cache == 2)
      if h.releases then drainFlits t else t
  | .scratch k o => scratchStore s c k o n v
  | .logCtl k off => if n = 8 then logAnswer s k off v else s
  | _ => s

/-- An atomic at a target whose causes have been checked: the old value. A `.cu` atomic that reaches scratch is performed as
an ordinary one (08 R166). -/
def atomicAt (s : State) (c asid aop x : Nat) (p : Phys) (h : How) : Nat × State :=
  let n := atomicSize aop
  match p.at_ with
  | .hbm pa =>
    if h.cu then (0, markStrm (cuUpdate s c asid (lineOf pa) (pa % 128) aop x h.scope) (lineOf pa) (h.cache == 2))
    else
      let (v, s) := atomicHome s c asid (lineOf pa) (pa % 128) aop x (h.releases && decide (3 ≤ h.scope))
      let s := markStrm s (lineOf pa) (h.cache == 2)
      (v, if h.releases then drainFlits s else s)
  | .scratch k o =>
    let old := scratchNum s k o n
    let s := if h.acquires then raisePts s c (s.core k).scrTs else s
    match atomicNew aop old x with
    | some v => (old, scratchStore s c k o n v)
    | none => (old, s)
  | _ => (0, s)

end Sys2Proof.Machine
end

