-- ==== Sys2Proof/Machine/Sched.lean ====
section
/-! DEFINITION. Between the instructions: fetching the word at a split's pc, the fetch fault, the default choice of who
moves next, and the passing of time (10 R206; 04 R91; 06 R120, R121, R125; 16 R297). -/

namespace Sys2Proof.Machine

open Sys2Proof

/-! ### Translation fault records -/

/-- The 64-byte translation fault record (10 Table 10.6): cause, kind, address, lanes, pc, and the place with the log entry
or nolog. -/
def faultWords (s : State) (c slot warp cause kind va : Nat) (lanes : Mask) (pc : BitVec 64) (log : Option Nat) :
    List DWord :=
  let q := match s.warp? c slot warp with | some w => w.quarter | none => 0
  let l := match log with | some j => j * 2 ^ 27 | none => 2 ^ 31
  [BitVec.ofNat 64 (cause + kind * 2 ^ 9 + blockAsid s c slot * 2 ^ 12), BitVec.ofNat 64 (va % 2 ^ 56), lanes, pc,
    BitVec.ofNat 64 (placeBits s c slot warp + l + q * 2 ^ 32), 0#64, s.kalends, 0#64]

/-- A split meets a translation fault that no log entry holds: the record goes to firmware, and the split waits for its
answer, before the first of its hint words (10 R201, R206; 17 R312). -/
def noLogFault (s : State) (p : Port) (cause kind va : Nat) (faulting todo : Mask) (pc : BitVec 64) : State :=
  let ws := faultWords s p.core p.slot p.warp cause kind va faulting pc none
  let s := s.modSplit p.core p.slot p.warp p.split fun q =>
    { (if q.rwait then q else q.rewind) with faultWait := true, stall := .faultService }
  queueRecord s (blockAsid s p.core p.slot) ws (.noLog p.core p.slot p.warp p.split todo)

/-! ### Fetch -/

/-- What the turn of the split at the port comes to. -/
inductive Fetched where
  /-- no word is issued: the split does not issue now, or its fetch faults -/
  | stays (s : State)
  /-- the word to issue -/
  | word (w : Word) (s : State)

/-- The word that the split at the port is about to issue (10 R206). -/
def fetchTurn (s : State) : Fetched :=
  let p := s.port
  if !canIssue s p then .stays s
  else
    match s.block? p.core p.slot, s.split? p.core p.slot p.warp p.split with
    | some b, some q =>
      if lookaheadWait q then .stays (showStall s p .lookahead)
      else
        match fetchWord s p.core b.asid q.pc.toNat with
        | (.ok w, s) => .word w s
        | (.error cause, s) => .stays (noLogFault s p cause 3 q.pc.toNat 0#64 q.em q.pc)
    | _, _ => .stays s

/-- A word that the decoder rejects: a hint word of a known kind whose payload is reserved binds, and traps at the
instruction it precedes; every other word traps at once (17 R304, R311). -/
def oddWord (w : Word) (s : State) : State := if isHint w && decide (hintKind w ≤ 6) then bindHint w s else illegalWord w s

/-! ### Who moves next -/

/-- A wait of the next instruction: the reasons for which an instruction is tried again and not issued. -/
def Stall.waits : Stall → Bool
  | .emptyPipe | .fullPipe | .leave | .rendezvous | .batch | .handle | .operandMiss | .lookahead | .memory | .matrixFull | .engineFull => true
  | _ => false

/-- Every place of a split that may issue, by core, block slot, warp and split slot. -/
def runnable (s : State) : List Port :=
  s.blocks.flatMap fun p => p.2.warps.zipIdx.flatMap fun w => w.1.splits.zipIdx.filterMap fun q =>
    let t : Port := { core := p.1 / 96, slot := p.1 % 96, warp := w.2, split := q.2 }
    if canIssue s t then some t else none

/-- The position of a port in the order of `runnable`. -/
def Port.rank (p : Port) : Nat := ((p.core * 96 + p.slot) * 32 + p.warp) * 8 + p.split

/-- The runnable split after the present port, and round again (log 2). -/
def nextPort (s : State) : Option Port :=
  match (runnable s).find? fun p => decide (s.port.rank < p.rank) with
  | some p => some p
  | none => (runnable s).head?

/-! ### Time -/

/-- Timers of a split: a JOIN timer counts down to 0, where its timeout is due; `jdue` counts the cycles from there (06 R121). -/
def Split.tick (n : Nat) (q : Split) : Split :=
  if !(q.valid && q.jwait) then q
  else if q.jdue != 0 then { q with jdue := q.jdue + n }
  else if q.jtimer = 0#32 then q
  else if q.jtimer.toNat ≤ n then { q with jtimer := 0, jdue := 1 + (n - q.jtimer.toNat) }
  else { q with jtimer := q.jtimer - BitVec.ofNat 32 n }

/-- The groups that lie wholly within `d` direct registers: the others are never staged (05 R102). -/
def groupsWithin (d : Nat) : BitVec 14 := BitVec.ofNat 14 (2 ^ (d / 4) - 1)

/-- The groups of the region that are still to be copied (05 R102). -/
def Warp.copying (w : Warp) (d : Nat) : BitVec 14 := w.region &&& groupsWithin d &&& ~~~w.staged

/-- A copy of a region goes on: one group of four warp-registers a cycle, in ascending order (04 R92; 05 R102). -/
def Warp.stage (w : Warp) (d : Nat) : Nat → Warp
  | 0 => w
  | n + 1 =>
    match lowBit (w.copying d).toNat 0 14 with
    | none => w
    | some g => Warp.stage { w with staged := w.staged ||| BitVec.ofNat 14 (2 ^ g) } d n

/-- Counts cycles on an open instance (06 R125). -/
def Inst.tick (n : Nat) (i : Inst) : Inst := { i with elapsed := i.elapsed + n }

/-- Timers of a block. A stop by debug pauses the rendezvous timers, and the ones that share their limit (06 R125). -/
def Block.tick (n : Nat) (b : Block) : Block :=
  let b : Block := { b with warps := b.warps.map fun (w : Warp) => if w.hot then w.stage b.kernel.d (min n 14) else w }
  if b.stopped || b.frozen then
    { b with warps := b.warps.map fun w =>
        { w with
          refillSince := w.refillSince.map (· + n)
          rftSince := if w.rftWait then w.rftSince + n else w.rftSince
          xshuf := w.xshuf.map fun x => { x with since := x.since + n } } }
  else
    { b with
      setInst := b.setInst.map fun p => (p.1, p.2.tick n)
      blockInst := b.blockInst.map (Inst.tick n)
      warps := b.warps.map fun w => { w with splits := w.splits.map (Split.tick n) } }

/-- The contexts with a leave request of a core that waits (15 Table 15.8 code 10). -/
def leaveWaits (s : State) (c : Nat) : List Nat :=
  dedup (((s.die (coreDie c)).reqs.filter fun r => r.core == c && !r.granted).map fun r => blockAsid s c r.slot)

/-- Cycle counters of the cores (15 Table 15.8 codes 0, 10, 15). A counter with a context filter counts the cycles of a
core on which that context has a block, and for code 10 a request that waits. -/
def countCycles (s : State) (n : Nat) : State :=
  s.cores.foldl (fun s p =>
    let asids := dedup ((s.blocks.filter fun b => b.1 / 96 == p.1).map fun b => b.2.asid)
    let count (s : State) (code : Nat) (asids : List Nat) : State :=
      s.modCore p.1 fun x =>
        (List.range 8).foldl (fun x k =>
          let ctl := x.pmctl.getD k 0#64
          if bit ctl 19 && bits ctl 0 8 == code && (!bit ctl 18 || asids.contains (bits ctl 8 10)) then
            let v := (x.pmcnt.getD k 0#48).toNat + n
            { x with
              pmcnt := setAt x.pmcnt k (BitVec.ofNat 48 v)
              pmwrap := if 2 ^ 48 ≤ v && bit ctl 20 && bit ctl 18 then x.pmwrap ++ [k] else x.pmwrap }
          else x) x
    let s := count s 0 asids
    let waits := leaveWaits s p.1
    let s := if waits.isEmpty then s else count s 10 waits
    if s.rebasing then count s 15 asids else s) s

/-- Core cycles and nanoseconds pass: `cycle` advances, kalends advances at its disciplined rate and never steps (16 R297),
and the timers count. -/
def passTime (s : State) (cycles ns : Nat) : State :=
  let gained : Int := s.ratefrac + (ns : Int) * s.rate
  let ticks : Int := (ns : Int) + gained.fdiv 1000000
  let s := countCycles s cycles
  { s with
    cycle := s.cycle + BitVec.ofNat 64 cycles
    kalends := s.kalends + BitVec.ofInt 64 ticks
    ratefrac := gained.fmod 1000000
    rebasing := s.rebasing && cycles == 0
    blocks := s.blocks.map fun p => (p.1, p.2.tick cycles) }

end Sys2Proof.Machine
end

