-- ==== Sys2Proof/Machine/PipeHome.lean ====
section
/-! DEFINITION. Pipe homes: sequence numbers, grants, commits, delivery, frees, end-of-stream, and the waking of blocked
REFILLs (03 R50 to R70). -/

namespace Sys2Proof.Machine

open Sys2Proof

/-! ### Slots and headers -/

/-- Memory scope code of a pipe's scope (03 Table 3.4, 09 Table 9.2). -/
def Pipe.memScope (p : Pipe) : Nat := p.scope + 2

/-- The slot of a number. Numbers wrap modulo 2^48; the model counts on, so that live numbers compare as the window of 2^47 has them
(03 R51). -/
def Pipe.slotOf (p : Pipe) (n : Nat) : Nat := n % 2 ^ 48 % p.depth

/-- Address of the slot of a number (03 R50, R51). -/
def Pipe.addrOf (p : Pipe) (n : Nat) : BitVec 64 := p.array + BitVec.ofNat 64 (p.slotOf n * p.ssize)

/-- The number that 48 bits name, in the window about the oldest live one (03 R51). -/
def Pipe.lift (p : Pipe) (seq : Nat) : Nat :=
  let d := (seq % 2 ^ 48 + 2 ^ 48 - p.base % 2 ^ 48) % 2 ^ 48
  if d < 2 ^ 47 then p.base + d else p.base + d - 2 ^ 48

/-- The slot index that an address names (20 R389). -/
def Pipe.slotIndex (p : Pipe) (a : BitVec 64) : Option Nat :=
  let o := a.toNat - p.array.toNat
  if p.array.toNat ≤ a.toNat ∧ o % p.ssize = 0 ∧ o / p.ssize < p.depth then some (o / p.ssize) else none

/-- State of a number (03 Table 3.6); none: free, or not yet grantable, or freed in order. -/
def Pipe.st? (p : Pipe) (n : Nat) : Option SeqState := (p.slots.get? n).map (·.st)

/-- A number with no header of its own yet. -/
def Slot.blank (st : SeqState) : Slot := { st := st, hdr := 0, cts := 0, spilled := false, returns := 0, mirrored := false }

/-- Changes the state of a number, giving it an entry if it has none. -/
def Pipe.setSt (p : Pipe) (n : Nat) (st : SeqState) : Pipe :=
  { p with slots := p.slots.put n { (p.slots.getD n (Slot.blank st)) with st := st } }

/-- Changes the entry of a number. -/
def Pipe.modSlot (p : Pipe) (n : Nat) (f : Slot → Slot) : Pipe := { p with slots := modKey p.slots n f }

/-- The first 56 bytes of a header. -/
def headerBytes (h : BitVec 512) : List Byte := (toBytes 64 h.toNat).take 56

/-- A header with its CRC (03 Table 3.5). -/
def sealHeader (h : BitVec 512) : BitVec 512 :=
  let low := h.toNat % 2 ^ 448
  BitVec.ofNat 512 (low + (crc32c (headerBytes (BitVec.ofNat 512 low))).toNat * 2 ^ 448)

/-- The CRC of a header matches (03 R50). -/
def headerOk (h : BitVec 512) : Bool := bits h 448 32 == (crc32c (headerBytes h)).toNat

/-- Stamp of a header. -/
def headerStamp (h : BitVec 512) : DWord := BitVec.ofNat 64 (bits h 0 64)

/-- Where a commit comes from: core, block number and warp (0x1F for an engine) (03 Table 3.5). -/
structure Producer where
  core : Nat
  block : Nat
  warp : Nat
deriving DecidableEq, Repr

/-- The header of a commit (03 Table 3.5). -/
def mkHeader (s : State) (stamp : DWord) (n length : Nat) (eos ostamp : Bool) (w : Producer) : BitVec 512 :=
  sealHeader (BitVec.ofNat 512 (stamp.toNat + n % 2 ^ 48 * 2 ^ 64 + length * 2 ^ 128 + b2n eos * 2 ^ 160 + b2n ostamp * 2 ^ 163
    + s.rank % 2 ^ 10 * 2 ^ 192 + coreDie w.core * 2 ^ 202 + w.core % 128 * 2 ^ 205 + w.block % 2 ^ 12 * 2 ^ 212
    + w.warp % 32 * 2 ^ 224))

/-! ### Counts (03 R54, R55, Table 3.9) -/

/-- Numbers that may be granted. -/
def Pipe.free (p : Pipe) : Nat := p.base + p.depth - p.nextGrant

/-- Numbers in a state. -/
def Pipe.count (p : Pipe) (f : SeqState → Bool) : Nat := (p.slots.filter fun q => f q.2.st).length

/-- The number is filled. -/
def SeqState.isFilled (st : SeqState) : Bool := st == .filled || st == .retained

/-- Filled, not yet delivered; the end-of-stream header is no filled slot. -/
def Pipe.filled (p : Pipe) : Nat :=
  (p.slots.filter fun q => q.2.st.isFilled && some q.1 != p.eosSeq).length

/-- Reserved, not committed (03 Table 3.9). A commit on its way is not yet filled at the home. -/
def Pipe.reservedCount (p : Pipe) : Nat :=
  p.count fun st => match st with | .reserved _ _ _ => true | .committing => true | .away h => !h | _ => false

/-- Delivered, not freed. -/
def Pipe.heldCount (p : Pipe) : Nat := p.count fun st => match st with | .held _ _ => true | .item _ _ => true | .away h => h | _ => false

/-- The status word of QSTAT (03 Table 3.9). -/
def Pipe.status (p : Pipe) : DWord :=
  BitVec.ofNat 64 (p.filled % 2 ^ 13 + p.free % 2 ^ 13 * 2 ^ 13 + p.reservedCount % 2 ^ 13 * 2 ^ 26
    + p.heldCount % 2 ^ 13 * 2 ^ 39 + b2n p.closed * 2 ^ 52 + b2n p.eos * 2 ^ 53
    + b2n (p.slots.any fun q => q.2.spilled) * 2 ^ 54)

/-! ### Freeing and the head -/

/-- Numbers freed in order leave (03 R55); `fuel` bounds their number. -/
def Pipe.settleBase (p : Pipe) : Nat → Pipe
  | 0 => p
  | f + 1 => match p.st? p.base with
    | some .freed => Pipe.settleBase { p with slots := p.slots.del p.base, base := p.base + 1 } f
    | _ => p

/-- Frees a number (03 R55). -/
def Pipe.release (p : Pipe) (n : Nat) : Pipe :=
  ({ p.setSt n .freed with frees := p.frees + 1 }).settleBase (p.depth + 1)

/-- A header with another stamp. -/
def restamp (h : BitVec 512) (v : DWord) : BitVec 512 := sealHeader (((h >>> 64) <<< 64) ||| v.setWidth 512)

/-- Delivery reaches the end-of-stream header, which carries the stamp of the last slot delivered before it (03 R64, R66). -/
def Pipe.reachEos (p : Pipe) : Pipe :=
  if p.eos then p else { p.modSlot p.head (fun x => { x with hdr := restamp x.hdr p.lastStamp }) with eos := true }

/-- Moves the head past delivered and void numbers; a void one is freed there, and the end-of-stream header ends delivery
(03 R53, R64). A home whose pipe has a mirror home delivers nothing itself (03 R69). -/
def Pipe.advance (p : Pipe) : Nat → Pipe
  | 0 => p
  | f + 1 =>
    if p.scope = 2 && p.nearSide then p
    else if p.eosSeq = some p.head then p.reachEos
    else if p.nextGrant ≤ p.head then p
    else
      match p.st? p.head with
      | some .void => Pipe.advance { p.release p.head with head := p.head + 1 } f
      | some (.held _ _) => Pipe.advance { p with head := p.head + 1 } f
      | some (.item _ _) => Pipe.advance { p with head := p.head + 1 } f
      | some (.away true) => Pipe.advance { p with head := p.head + 1 } f
      | some .freed => Pipe.advance { p with head := p.head + 1 } f
      | none => if p.head < p.base then Pipe.advance { p with head := p.base } f else p
      | _ => p

/-- Settles the head after a change at the home. -/
def Pipe.settle (p : Pipe) : Pipe := p.advance (2 * p.depth + 2)

/-- A number becomes void (03 R53). -/
def Pipe.voidNum (p : Pipe) (n : Nat) : Pipe := (p.setSt n .void).settle

/-! ### Grants (03 R56) -/

/-- Size of a grant block. -/
def Pipe.grantSize (p : Pipe) : Nat := let g := if 1 ≤ p.depth / 4 then p.depth / 4 else 1; if g < 8 then g else 8

/-- A core's grant entry of a pipe. -/
def Core.grant (c : Core) (p : Nat) : Grant := c.grants.getD p { nums := [], asked := false, coming := [], last := 0 }

/-- The home grants a core up to `g` numbers, which set out for it (03 R55, R56). -/
def grantTo (s : State) (key c : Nat) : State :=
  match s.pipes.get? key with
  | none => s
  | some p =>
    let k := if p.free < p.grantSize then p.free else p.grantSize
    if p.closed || k = 0 then s
    else
      let ns := (List.range k).map (p.nextGrant + ·)
      let p := ns.foldl (fun p n => p.setSt n (.granted c)) { p with nextGrant := p.nextGrant + k }
      let s := { s with pipes := s.pipes.put key { p with wanted := p.wanted.filter (· != c) } }
      s.modCore c fun x =>
        let g := x.grant key
        { x with grants := x.grants.put key { g with coming := g.coming ++ ns, asked := false } }

/-- Numbers on their way arrive at a core (03 R56). -/
def grantArrive (s : State) (key c : Nat) : State :=
  s.modCore c fun x =>
    let g := x.grant key
    if g.coming.isEmpty then x
    else { x with grants := x.grants.put key { g with nums := g.nums ++ g.coming, coming := [], last := s.kalends.toNat } }

/-- A core asks the home for its next block (03 R56); with none free it stands in line. -/
def askGrant (s : State) (key c : Nat) : State :=
  let s := s.modCore c fun x => { x with grants := x.grants.put key { x.grant key with asked := true } }
  match s.pipes.get? key with
  | none => s
  | some p =>
    if p.free = 0 then
      s.modPipe key fun p => { p with wanted := if p.wanted.contains c then p.wanted else p.wanted ++ [c] }
    else grantTo s key c

/-- Serves the cores that stand in line while numbers are free. -/
def serveWanted (s : State) (key : Nat) : State :=
  match s.pipes.get? key with
  | none => s
  | some p => p.wanted.foldl (fun s c => grantTo s key c) s

/-! ### Waking blocked REFILLs (02 R33) -/

/-- A core is marked for handoff, or a halt of it is pending (02 R46; 19 R366). -/
def Core.assignsNothing (c : Core) : Bool := c.handoff.isSome || !c.haltOps.isEmpty || c.halted

/-- Ends the blocking of a warp's REFILL: it issues again. -/
def Warp.wake (w : Warp) : Warp := { w with refillBlocked := false }

/-- Wakes every REFILL that blocks on a pipe. -/
def wakeRefills (s : State) (key : Nat) : State :=
  let gs := (s.grids.filter fun g => g.2.qpipe == some key).map (·.1)
  { s with blocks := s.blocks.map fun p =>
      if gs.contains p.2.grid then (p.1, { p.2 with warps := p.2.warps.map Warp.wake }) else p }

/-- Replaces a pipe after a change at its home: the head settles, cores in line are served, blocked REFILLs wake. -/
def putPipe (s : State) (key : Nat) (p : Pipe) : State :=
  wakeRefills (serveWanted { s with pipes := s.pipes.put key p.settle } key) key

/-- A core returns its unreserved numbers of a pipe, which become void (03 R56). -/
def returnGrants (s : State) (c key : Nat) : State :=
  let g := (s.core c).grant key
  let ns := g.nums ++ g.coming
  let s := s.modCore c fun x => { x with grants := x.grants.del key }
  match s.pipes.get? key with
  | none => s
  | some p =>
    let p := ns.foldl (fun p n => p.voidNum n) { p with wanted := p.wanted.filter (· != c) }
    putPipe s key p

/-- A core returns the numbers of every pipe, or of every pipe of one context. -/
def returnAllGrants (s : State) (c : Nat) (asid : Option Nat) : State :=
  let keys := ((s.core c).grants.map (·.1)).filter fun k => match asid with | some a => pipeAsid k == a | none => true
  keys.foldl (fun s k => returnGrants s c k) s

/-- Some warp of a core holds a pipe bound as producer (03 R56). -/
def boundProducer (s : State) (c key : Nat) : Bool :=
  s.blocks.any fun b => b.1 / 96 == c && b.2.warps.any fun w =>
    !w.retired && w.qregs.any fun q => match q with | some x => x.pipe == key && !x.consumer | none => false

/-- Returns the grants of pipes that no warp of a core still holds bound as producer (03 R56). -/
def dropUnbound (s : State) (c : Nat) : State :=
  ((s.core c).grants.map (·.1)).foldl (fun s k => if boundProducer s c k then s else returnGrants s c k) s

/-! ### Commit, delivery, free -/

/-- A commit sets out for the home (03 R60, R66): the header is written there, and cts is the committer's lease time. -/
def sendCommit (s : State) (key n : Nat) (hdr : BitVec 512) (cts : BitVec 20) : State :=
  s.modPipe key fun p =>
    { (p.setSt n .committing).modSlot n (fun x => { x with hdr := hdr, cts := cts }) with
      inflight := p.inflight ++ [n], endTs := tsMax p.endTs cts }

/-- The header with the spilled flag (03 R67). -/
def markSpilled (h : BitVec 512) : BitVec 512 := sealHeader (h ||| (1#512 <<< 162))

/-- Numbers whose data the reservation holds: the oldest undelivered or held ones (03 R67). -/
def Pipe.residentNums (p : Pipe) : List Nat :=
  ((p.slots.filter fun q => match q.2.st with
    | .filled => true | .retained => true | .held _ _ => true | .item _ _ => true | .away h => h | _ => false).map (·.1)).take p.resident

/-- A commit arrives at the home: the number is filled (03 R52, R70). -/
def commitArrive (s : State) (key n : Nat) : State :=
  match s.pipes.get? key with
  | none => s
  | some p =>
    let p := { p.setSt n .filled with
               inflight := p.inflight.filter (· != n), commits := p.commits + 1, commitQ := p.commitQ ++ [n] }
    putPipe s key p

/-- The pipe delivers on this device: a pod-scope pipe delivers at its mirror home (03 R69). -/
def Pipe.delivers (p : Pipe) : Bool := p.scope != 2 || !p.nearSide

/-- A filled slot lies beyond the reservation and has not been written back yet (03 R67). -/
def Pipe.overflows (p : Pipe) (n : Nat) : Bool :=
  (match p.slots.get? n with | some x => !x.spilled | none => false) && p.eosSeq != some n && !p.residentNums.contains n

/-- A number may be delivered: it is filled, no spill of it waits for firmware, and beyond the reservation it has been written back:
every such slot spills (03 R67). -/
def Pipe.deliverable (p : Pipe) (n : Nat) : Bool :=
  p.st? n == some .filled && !p.spillWait.contains n && p.eosSeq != some n && !p.overflows n

/-- The number that QPOP or an assignment takes next, header checks aside (03 R60). -/
def Pipe.next? (p : Pipe) : Option Nat :=
  if !p.delivers then none
  else if p.unord then (p.commitQ.filter p.deliverable).head?
  else if p.deliverable p.head then some p.head else none

/-- A pending item, ahead of every other one when a failed block returned it (14 R277). -/
def Pipe.nextItem? (p : Pipe) : Option Nat :=
  match (p.returned.filter p.deliverable).head? with
  | some n => some n
  | none => p.next?

/-- The header of a number fails its check: it is retained for firmware (03 R50). -/
def retainSlot (s : State) (key n : Nat) : State := s.modPipe key fun p => p.setSt n .retained

/-- Delivers a number: its new state, the stamp for later end-of-stream headers, and the consumer core's lease time
(03 R60, R66; 08 R164). -/
def deliver (s : State) (c key n : Nat) (st : SeqState) : State :=
  match s.pipes.get? key with
  | none => s
  | some p =>
    let h := (p.slots.getD n (Slot.blank .filled))
    let p := { p.setSt n st with
               commitQ := p.commitQ.filter (· != n), returned := p.returned.filter (· != n), lastStamp := headerStamp h.hdr }
    raisePts { s with pipes := s.pipes.put key p.settle } c h.cts

/-- A core's merged free reports of a pipe set out for the home (03 R57). -/
def flushFrees (s : State) (c key : Nat) : State :=
  match (s.core c).frees.get? key with
  | none => s
  | some f =>
    let s := s.modCore c fun x => { x with frees := x.frees.del key }
    s.modPipe key fun p => { p with freeing := p.freeing ++ f.seqs }

/-- A consumer core frees a number: a release at the pipe's scope, whose lease time the next reservation of the slot takes on, then the
merged report (02 R27; 03 R57, R60; 09 Table 9.5). -/
def freeNumber (s : State) (c key n : Nat) : State :=
  match s.pipes.get? key with
  | none => s
  | some p =>
    let s := releaseCore s c (pipeAsid key) p.memScope
    let s := s.modCore c fun x =>
      let f := x.frees.getD key { seqs := [], since := s.kalends.toNat }
      { x with frees := x.frees.put key { f with seqs := f.seqs ++ [n] } }
    let ts := (s.core c).pts
    let s := s.modPipe key fun p => { p with freeTs := p.freeTs.put (p.slotOf n) ts }
    if 16 ≤ ((s.core c).frees.getD key { seqs := [], since := 0 }).seqs.length then flushFrees s c key else s

/-- A mirror home tells the home how many numbers have become free in order since its base was `old` (03 R69). -/
def tellFrees (s : State) (key old : Nat) : State :=
  match s.pipes.get? key with
  | none => s
  | some p => if p.scope = 2 && !p.nearSide && decide (old < p.base) then s.send (.frees p.peer p.peerPipe (p.base - old)) else s

/-- The home frees the reported numbers (03 R55, R57); at a mirror home the frees go on to the home (03 R69). -/
def freeArrive (s : State) (key : Nat) : State :=
  match s.pipes.get? key with
  | none => s
  | some p =>
    let ns := p.freeing
    if ns.isEmpty then s
    else
      tellFrees (putPipe s key (ns.foldl (fun p n => p.release n) { p with freeing := [] })) key p.base

/-- Closes a pipe at its home: the closed flag, and the recall of every grant (03 R64). A pod-scope close tells the peer's
mirror by the end-of-stream header. -/
def closePipe (s : State) (key : Nat) : State :=
  match s.pipes.get? key with
  | none => s
  | some p =>
    if p.closed then s
    else
      let s := { s with pipes := s.pipes.put key { p with closed := true } }
      ((s.cores.filter fun c => c.2.grants.has key).map (·.1)).foldl (fun s c => returnGrants s c key) s

/-- Every number below the next grantable one is committed or void (03 R64). -/
def Pipe.settledBelow (p : Pipe) : Bool :=
  p.slots.all fun q => match q.2.st with
    | .granted _ => false | .reserved _ _ _ => false | .committing => false | .away h => h | _ => true

/-- The stamp of the slot that a home would deliver last: of an unordered pipe the one committed last, else the highest-numbered
(03 R60, R66). -/
def Pipe.finalStamp (p : Pipe) : DWord :=
  let last := if p.unord then (p.commitQ.filter fun n => p.st? n == some .filled).getLast?
    else ((p.slots.filter fun q => q.2.st.isFilled).map (·.1)).getLast?
  match last with
  | some m => headerStamp (p.slots.getD m (Slot.blank .filled)).hdr
  | none => p.lastStamp

/-- A closed pipe takes its end-of-stream number (03 R64, R66). The producer fields of its header name no producer: Table 3.5 does not
say what they hold there, and they are die 0, core 0, block 0 and warp 0x1F (DESIGN CHOICE, log 64). -/
def takeEos (s : State) (key : Nat) : State :=
  match s.pipes.get? key with
  | none => s
  | some p =>
    if !p.closed || p.eosSeq.isSome || !p.settledBelow || p.free = 0 then s
    else
      let n := p.nextGrant
      let h := mkHeader s p.finalStamp n 0 true false { core := 0, block := 0, warp := 0x1F }
      let p := { (p.setSt n .filled).modSlot n (fun x => { x with hdr := h }) with nextGrant := n + 1, eosSeq := some n }
      putPipe s key p

/-- Voids the numbers that a warp holds reserved and has not committed (03 R53). -/
def voidReserved (s : State) (ns : List (Nat × Nat)) : State :=
  ns.foldl (fun s q => match s.pipes.get? q.1 with
    | none => s
    | some p => match p.st? q.2 with
      | some (.reserved _ _ _) => putPipe s q.1 (p.voidNum q.2)
      | _ => s) s

end Sys2Proof.Machine
end

