-- ==== Sys2Proof/Machine/Flow.lean ====
section
/-! DEFINITION. Branches, BRX, JOIN, NOP, YIELD, BPT and TRAP (18 R338 to R341; 06 R119 to R122; 20 R381, R396; 22 R428, R441). -/

namespace Sys2Proof.Machine

open Sys2Proof

/-! ### Transfers of control -/

/-- Every member's issuing split goes on at an address: a taken branch, folded into the signature (18 R340, 15 R289). -/
def Ix.jump (x : Ix) (s : State) (tgt : BitVec 64) : State :=
  let s := x.members.foldl (fun s m => branchRecord s x.core x.slot m x.pc tgt) s
  x.each s fun _ w =>
    { w with splits := modAt w.splits x.split fun p => { p with pc := tgt, landed := true, sig := foldSig p.sig tgt } }

/-- Target of a branch: pc + 4 × offset, modulo 2^56 (18 R340; 17 R314). -/
def branchTarget (x : Ix) (o : BitVec 14) : BitVec 64 :=
  BitVec.ofNat 64 ((x.pc + BitVec.ofInt 64 (4 * immExt x.hints o.toNat 14)).toNat % 2 ^ 56)

/-- What the contract needs of a branch. -/
def branchMeta (c : BitVec 2) (srcs : List (BitVec 6)) : Meta :=
  { sc := c.toNat, dist := 2, srcs := srcs.map fun r => .s r.toNat, imm := true }

/-- BRA: always taken (18 R340). -/
def execBra (c : BitVec 2) (o : BitVec 14) (s : State) : Host.Outcome State Fault Refusal :=
  .next (issue (.bra c o) (branchMeta c []) noExtra noUniform (fun x s => .done (x.jump s (branchTarget x o))) s)

/-- BRZ: taken when the lead's scalar is zero (18 R340). -/
def execBrz (c : BitVec 2) (r : BitVec 6) (o : BitVec 14) (s : State) : Host.Outcome State Fault Refusal :=
  .next (issue (.brz c r o) (branchMeta c [r]) noExtra noUniform
    (fun x s => .done (if x.rs s r.toNat = 0#64 then x.jump s (branchTarget x o) else s)) s)

/-- BRNZ: taken when the lead's scalar is not zero (18 R340). -/
def execBrnz (c : BitVec 2) (r : BitVec 6) (o : BitVec 14) (s : State) : Host.Outcome State Fault Refusal :=
  .next (issue (.brnz c r o) (branchMeta c [r]) noExtra noUniform
    (fun x s => .done (if x.rs s r.toNat = 0#64 then s else x.jump s (branchTarget x o))) s)

/-- CALL: the address of the next word to the scalar of every member, then the branch (18 R340). -/
def execCall (c : BitVec 2) (r : BitVec 6) (o : BitVec 14) (s : State) : Host.Outcome State Fault Refusal :=
  .next (issue (.call c r o) { branchMeta c [] with dsts := [.s r.toNat] } noExtra noUniform
    (fun x s => .done (x.jump (x.ws s r.toNat (x.pc + 4#64)) (branchTarget x o))) s)

/-- RET: the lead's scalar, without bits [63:56] and [1:0] (20 R396). -/
def execRet (c : BitVec 2) (r : BitVec 6) (s : State) : Host.Outcome State Fault Refusal :=
  .next (issue (.ret c r) { sc := c.toNat, dist := 2, srcs := [.s r.toNat] } noExtra noUniform
    (fun x s => .done (x.jump s (x.rs s r.toNat &&& 0x00FFFFFFFFFFFFFC#64))) s)

/-! ### BRX (06 R119) -/

/-- The lowest invalid entry of a split table. -/
def freeSplit (w : Warp) : Option Nat := (findIdx (fun p : Split => !p.valid) w.splits).map (·.1)

/-- The split table is full, or the divergence depth is 7, when a BRX would split (06 R119). -/
def brxFull (x : Ix) (s : State) (r : BitVec 6) : Option Nat :=
  match x.warp? s x.lead with
  | none => none
  | some w => match w.splits[x.split]? with
    | none => none
    | some p =>
      let tk := w.s r.toNat &&& p.em
      let nt := p.em &&& ~~~tk
      if tk != 0#64 && nt != 0#64 && ((freeSplit w).isNone || p.depth == 7) then some 0x049 else none

/-- Splits an issuing split: the taken lanes go to a new entry with the parent's signature, pending results and windows
(06 R119, R127; 15 R289). -/
def brxSplit (w : Warp) (k n : Nat) (tk : Mask) (tgt : BitVec 64) (cycle : Nat) : Warp :=
  match w.splits[k]? with
  | none => w
  | some p =>
    let new : Split :=
      { Split.empty with
        lanes := tk, em := tk, pc := tgt, depth := p.depth + 1, valid := true, landed := true, sig := foldSig p.sig tgt
        hist := p.hist, wins := p.wins, lastIssue := cycle, rem := p.rem, seen := p.seen }
    let old : Split := { p with lanes := p.lanes &&& ~~~tk, em := p.em &&& ~~~tk, depth := p.depth + 1 }
    { w with splits := setAt (setAt w.splits k old) n new }

/-- BRX (06 R119; 18 R341). -/
def execBrx (r : BitVec 6) (o : BitVec 14) (s : State) : Host.Outcome State Fault Refusal :=
  .next (issue (.brx r o) { branchMeta 1#2 [r] with handler := false } noExtra (fun x s => brxFull x s r)
    (fun x s =>
      match x.warp? s x.lead with
      | none => .done s
      | some w =>
        let em := x.em w
        let tk := w.s r.toNat &&& em
        let tgt := branchTarget x o
        if tk = 0#64 then .done s
        else if em &&& ~~~tk = 0#64 then .done (x.jump s tgt)
        else match freeSplit w with
          | none => .done s
          | some n =>
            let s := branchRecord s x.core x.slot x.lead x.pc tgt
            .done (s.modWarp x.core x.slot x.lead fun w => brxSplit w x.split n tk tgt s.cycle.toNat)) s)

/-! ### JOIN (06 R121) -/

/-- A split waits in a group. -/
def Split.inGroup (p : Split) (pc : BitVec 64) (depth : Nat) : Bool :=
  p.valid && p.jwait && p.pc == pc && p.depth == depth

/-- Merges a group into its lowest slot, past the JOIN word. -/
def mergeGroup (w : Warp) (pc : BitVec 64) (depth cycle : Nat) : Warp :=
  let mem := (w.splits.zipIdx.filter fun p => p.1.inGroup pc depth)
  match mem with
  | [] => w
  | (p, k) :: r =>
    let pass (q : Split) : Split :=
      { q.step [] none cycle with pc := pc + 4#64, hints := [], landed := false, jwait := false, jtimer := 0, jdue := 0 }
    let m : Split := { (pass p).absorbAll (r.map fun q => pass q.1) with depth := depth - 1 }
    { w with splits := w.splits.zipIdx.map fun q =>
        if q.2 = k then m else if q.1.inGroup pc depth then Split.empty else q.1 }

/-- The greatest depth of a warp's valid splits. -/
def Warp.maxDepth (w : Warp) : Nat := w.valid.foldl (fun d p => if d < p.2.depth then p.2.depth else d) 0

/-- The groups that are complete: every valid split of the greatest depth waits at a JOIN (06 R121). -/
def readyGroups (w : Warp) : List (BitVec 64 × Nat) :=
  let d := w.maxDepth
  let deep := (w.valid.map (·.2)).filter fun p => p.depth == d
  if !deep.isEmpty && deep.all (·.jwait) then dedup (deep.map fun p => (p.pc, d)) else []

/-- Every group that is complete merges (06 R121). -/
def joinSettle (w : Warp) (cycle : Nat) : Warp := (readyGroups w).foldl (fun w g => mergeGroup w g.1 g.2 cycle) w

/-- Groups whose timer ran out in an earlier cycle merge before anything else happens to them (06 R121). -/
def joinOverdue (w : Warp) (cycle : Nat) : Warp :=
  (dedup ((w.valid.filter fun p => p.2.jwait && decide (2 ≤ p.2.jdue)).map fun p => (p.2.pc, p.2.depth))).foldl
    (fun w g => mergeGroup w g.1 g.2 cycle) w

/-- A split arrives at a JOIN; the group's timer is the first arrival's (06 R121). -/
def joinArrive (w : Warp) (k : Nat) (limit : BitVec 32) (cycle : Nat) : Warp :=
  let w := joinOverdue w cycle
  match w.splits[k]? with
  | none => w
  | some p =>
    let waiting := w.splits.any fun q => q.inGroup p.pc p.depth
    let p := { p with jwait := true, stall := .joinWait, hints := [], jtimer := if waiting then 0 else limit, jdue := 0 }
    { w with splits := setAt w.splits k p }

/-- JOIN: no effect in an undiverged warp; otherwise the split waits for its group (06 R121). -/
def execJoin (r : BitVec 6) (s : State) : Host.Outcome State Fault Refusal :=
  .next (issue (.join r) { sc := 1, dist := 2, srcs := [.s r.toNat], handler := false } noExtra noUniform
    (fun x s =>
      match x.warp? s x.lead with
      | none => .done s
      | some w =>
        if w.valid.length ≤ 1 then .done s
        else .wait .joinWait fun s =>
          (issuedInPlace x s).modWarp x.core x.slot x.lead fun w =>
            joinSettle (joinArrive w x.split ((w.s r.toNat).setWidth 32) s.cycle.toNat) s.cycle.toNat) s)

/-! ### NOP, YIELD -/

/-- NOP: nothing but the program counter; under set or block scope the rendezvous (20 R381). -/
def execNop (c : BitVec 2) (s : State) : Host.Outcome State Fault Refusal :=
  .next (issue (.nop c) { sc := c.toNat, dist := 2 } noExtra noUniform (fun _ s => .done s) s)

/-- YIELD: the first swap candidate, whether it waits or not, until it is swapped or issues; not boosted until it issues (22 R441). -/
def execYield (c : BitVec 2) (s : State) : Host.Outcome State Fault Refusal :=
  .next (issue (.yield c) { sc := c.toNat, dist := 2 } noExtra noUniform
    (fun x s => .done (x.each s fun _ w => { w with swapFirst := true, yielded := true })) s)

/-! ### BPT, TRAP -/

/-- Members of the open rendezvous instance of a block, as the stop record gives it (15 Table 15.5): arrived members, scope,
set, address, cycles. -/
def stopInst (b : Block) : Nat × Nat × Nat × BitVec 64 × Nat :=
  let mask (i : Inst) : Nat := i.arrived.foldl (fun m w => m + 2 ^ w) 0
  match b.blockInst with
  | some i => (mask i, 3, 0, i.pc, i.elapsed)
  | none => match b.setInst with
    | (n, i) :: _ => (mask i, 2, n, i.pc, i.elapsed)
    | [] => (0, 0, 0, 0, 0)

/-- A split whose window waits for an XSHUF's data. -/
def Split.shuffles (p : Split) : Bool := p.valid && p.wins.any fun e => e.pend == .xshuf

/-- A split stands before the warp's XSHUF again, which has not issued. The words that it has issued after it under its lookahead
issue again (DEDUCED, log 51). -/
def Split.unshuffle (s : State) (asid : Nat) (x : XWait) (p : Split) : Split :=
  if p.shuffles then
    { p with pc := resumeAt s asid x.pc, hints := [], landed := false, wins := p.wins.filter fun e => e.pend != .xshuf }
  else p

/-- A warp whose XSHUF waits for its partner stops with it not issued (13 R257; 14 R272; 15 R283). -/
def unissueXshuf (s : State) (asid : Nat) (w : Warp) : Warp :=
  match w.xshuf with
  | none => w
  | some x =>
    if x.got.isSome then w
    else { w with
      xshuf := none
      splits := w.splits.map (Split.unshuffle s asid x)
      frozen := w.frozen.map fun f => (f.1.map (Split.unshuffle s asid x), f.2) }

/-- A warp halts at an instruction boundary: an instruction that waits has not issued, and its request for leave is withdrawn
(14 R272; 15 R283). -/
def haltWarp (s : State) (asid : Nat) (w : Warp) : Warp :=
  { (unissueXshuf s asid w).rewound with refillBlocked := false }

/-- The requests for leave of a block that are not granted are withdrawn. -/
def dropAsked (s : State) (c slot : Nat) : State :=
  s.modDie (coreDie c) fun d => { d with reqs := d.reqs.filter fun q => q.granted || !(q.core == c && q.slot == slot) }

/-- A block stops for a debugger: no warp issues, its core's unreserved grants of the context go back, one stop record, and
the debugger is told (15 R283). -/
def stopBlock (s : State) (c slot cause : Nat) : State :=
  match s.block? c slot with
  | none => s
  | some b =>
    if b.stopped then s
    else
      let (arr, sc, set, pc, el) := stopInst b
      let live := (b.warps.zipIdx.filter fun w => !w.1.retired && w.1.live != 0#64).foldl (fun m w => m + 2 ^ w.2) 0
      let place := BitVec.ofNat 64 (placeBits s c slot 0 + b.gcountB.toNat * 2 ^ 32)
      let s := (dropAsked s c slot).modBlock c slot fun b =>
        { b with stopped := true, warps := b.warps.map (haltWarp s b.asid) }
      let s := returnAllGrants s c (some b.asid)
      let s := writeSample s b.asid 8
        [place, BitVec.ofNat 64 (arr + sc * 2 ^ 32 + set * 2 ^ 34), pc, BitVec.ofNat 64 el,
          BitVec.ofNat 64 (b.gcountB.toNat + b.gcountG.toNat * 2 ^ 32), BitVec.ofNat 64 (live + cause * 2 ^ 32), s.kalends]
      s.send (.debugger c slot)

/-- A debugger holds the blocks of a context (15 Table 15.2 attach). -/
def attached (s : State) (asid : Nat) : Bool := bit (s.ctx asid).dbgctl 10

/-- BPT: the block stops after it when a debugger holds it; otherwise the breakpoint trap (18 R338). -/
def execBpt (s : State) : Host.Outcome State Fault Refusal :=
  .next (issue .bpt { sc := 1, dist := 2 } noExtra noUniform
    (fun x s =>
      if attached s (x.asid s) then .done (stopBlock s x.core x.slot 0x1E1) else .trap { cause := 0x1E1 } s) s)

/-- TRAP n: cause 0x1F0 + n, with the active lanes that are no helpers (22 R428). -/
def execTrap (c : BitVec 2) (n : BitVec 4) (s : State) : Host.Outcome State Fault Refusal :=
  .next (issue (.trap c n) { sc := c.toNat, dist := 2 } noExtra noUniform
    (fun x s => .trap
      { cause := 0x1F0 + n.toNat
        lanes := (x.warps s).foldl (fun t p => t.put p.1 (x.em p.2 &&& ~~~p.2.helper)) []
        resnext := true } s) s)

end Sys2Proof.Machine
end

