-- ==== Sys2Proof/Machine/Barrier.lean ====
section
/-! DEFINITION. BAR, BARA, BARW and SETDEF (18 R330 to R335; 21 R405 to R407). -/

namespace Sys2Proof.Machine

open Sys2Proof

/-! ### Barriers -/

/-- The level of a barrier: gang or block. -/
def gangLevel (v : BitVec 1) : Bool := v == 1#1

/-- BAR: arrives at the block's barrier instance and waits until it completes (18 R331). -/
def execBar (v : BitVec 1) (s : State) : Host.Outcome State Fault Refusal :=
  .next (issue (.bar v) { sc := 1, dist := 2 } noExtra noUniform
    (fun x s =>
      match x.block? s with
      | none => .done s
      | some b =>
        let held := match b.blockInst with | some i => i.bar.isSome && i.arrived.contains x.lead | none => false
        let p : Port := { core := x.core, slot := x.slot, warp := x.lead, split := x.split }
        .wait .rendezvous fun s =>
          match s.block? x.core x.slot, s.split? x.core x.slot x.lead x.split with
          | some b, some q => reach (if held then s else issuedInPlace x s) p b q .block (some (gangLevel v))
          | _, _ => s) s)

/-- BARA: arrives at the block's barrier instance and goes on at once when the warp has arrived (18 R331), which may be when an
EXITL empties its last other split with a live lane (`arriveAll`). -/
def execBara (v : BitVec 1) (s : State) : Host.Outcome State Fault Refusal :=
  .next (issue (.bara v) { sc := 1, dist := 2 } noExtra noUniform
    (fun x s =>
      match x.block? s with
      | none => .done s
      | some b =>
        let held := match b.blockInst with | some i => i.bar.isSome && i.arrived.contains x.lead | none => false
        let p : Port := { core := x.core, slot := x.slot, warp := x.lead, split := x.split }
        .wait .rendezvous fun s =>
          match s.block? x.core x.slot, s.split? x.core x.slot x.lead x.split with
          | some b, some q => reach (if held then s else issuedInPlace x s) p b q .block (some (gangLevel v)) true
          | _, _ => s) s)

/-- BARW: waits while the warp has arrived at an instance that has not completed (18 R331). -/
def execBarw (v : BitVec 1) (s : State) : Host.Outcome State Fault Refusal :=
  .next (issue (.barw v) { sc := 1, dist := 2 } noExtra noUniform
    (fun x s =>
      match x.block? s with
      | none => .done s
      | some b => match b.blockInst with
        | some i => if i.bar.isSome && i.arrived.contains x.lead then .wait .rendezvous id else .done s
        | none => .done s) s)

/-! ### SETDEF (21 R406, R407) -/

/-- The member list that SETDEF makes of a mask: warps of the block that have not retired. -/
def setMembers (b : Block) (m : DWord) : List Nat :=
  (List.range b.warps.length).filter fun w =>
    m.getLsbD w && match b.warps[w]? with | some x => !x.retired | none => false

/-- The sets after SETDEF: set `n` becomes the members, which leave every other set. -/
def redefine (sets : List (List Nat)) (n : Nat) (ms : List Nat) : List (List Nat) :=
  sets.zipIdx.map fun p => if p.2 = n then ms else p.1.filter fun w => !ms.contains w

/-- Warps whose set changed lose their arrival at their old set's open instance: the instruction is not issued (21 R407). -/
def leaveInsts (old new : List (List Nat)) (b : Block) : Block :=
  (List.range 8).foldl (fun b k =>
    let gone := (old.getD k []).filter fun w => !(new.getD k []).contains w
    match b.setInst.get? k with
    | none => b
    | some i =>
      { b with
        setInst := b.setInst.put k { i with arrived := i.arrived.filter fun w => !gone.contains w }
        warps := b.warps.zipIdx.map fun w =>
          if gone.contains w.2 then
            { w.1 with splits := w.1.splits.map fun p => if p.waitsAt i.pc then { p with rwait := false } else p }
          else w.1 }) b

/-- SETDEF in its block. -/
def defineSet (b : Block) (n : Nat) (m : DWord) : Block :=
  let new := redefine b.sets n (setMembers b m)
  { leaveInsts b.sets new b with sets := new }

/-- SETDEF.block: the lead's mask makes set n (21 R405, R406). -/
def execSetdef (r : BitVec 6) (n : BitVec 3) (s : State) : Host.Outcome State Fault Refusal :=
  .next (issue (.setdef r n) { sc := 3, dist := 2, srcs := [.s r.toNat], handler := false } noExtra noUniform
    (fun x s =>
      let m := x.rs s r.toNat
      .done (settleAll (s.modBlock x.core x.slot fun b => defineSet b n.toNat m) x.core x.slot)) s)

end Sys2Proof.Machine
end

