-- ==== Sys2Proof/Machine/Lanewise.lean ====
section
/-! DEFINITION. The shared effects of the vector instructions: one result per lane, with the per-lane operand faults of
05 R100, the flags and traps of 07 R141 and R143, and set-lane positions (05 R110). -/

namespace Sys2Proof.Machine

open Sys2Proof

/-! ### Values -/

/-- A value made of `w` 32-bit registers, register k holding `g k`. -/
def perReg (w : Nat) (g : Nat → Word) : Nat :=
  (List.range w).foldl (fun v k => v + (g k).toNat * 2 ^ (32 * k)) 0

/-- Element `i` of width `n` of a value. -/
def elemAt (n v i : Nat) : Nat := v / 2 ^ (n * i) % 2 ^ n

/-- A value made of `cnt` elements of width `n`, with the flags of all of them. -/
def perElem (n cnt : Nat) (g : Nat → Nat × Flags) : Nat × Flags :=
  (List.range cnt).foldl (fun r i => (r.1 + (g i).1 % 2 ^ n * 2 ^ (n * i), r.2.or (g i).2)) (0, {})

/-! ### Operand faults -/

/-- Operand faults of every member: member, lane and cause, in set-lane order (05 R100, R110). -/
def Ix.operandFaults (x : Ix) (s : State) (ops : List VOp) : List (Nat × Nat × Nat) :=
  (x.warps s).flatMap fun p => (opFaults p.2 (x.em p.2) ops).map fun q => (p.1, q.1, q.2)

/-- The effect of an instruction whose operands resolve in every active lane; otherwise no lane is written and the
per-lane trap is taken (05 R100, 06 R126). -/
def withOperands (ops : List VOp) (eff : Ix → State → Res) (x : Ix) (s : State) : Res :=
  let fs := x.operandFaults s ops
  if fs.isEmpty then eff x s else .trap (faultReq fs) s

/-! ### One result per active lane -/

/-- Writes a destination in the active lanes of every member. -/
def Ix.putLanes (x : Ix) (s : State) (dst : VOp) (f : Nat → Warp → Nat → Nat) : State :=
  x.each s fun m w => w.putOp dst fun l => if inMask (x.em w) l then some (f m w l) else none

/-- An element-wise instruction that raises no flag: each active lane computes `f` from its member's registers. -/
def lanewise (dst : VOp) (srcs : List VOp) (f : Warp → Nat → Nat) : Ix → State → Res :=
  withOperands (srcs ++ [dst]) fun x s => .done (x.putLanes s dst fun _ w l => f w l)

/-! ### Floating point -/

/-- How a floating-point instruction rounds, flushes and saturates (07 R138, R142; 17 R313). -/
structure FSet where
  /-- mode code -/
  mode : Nat
  /-- flush -/
  ftz : Bool
  /-- saturate -/
  sat : Bool
  /-- stochastic -/
  sr : Bool
deriving DecidableEq, Repr

/-- The lead's fpm (07 R138). -/
def Ix.fpm (x : Ix) (s : State) : BitVec 8 :=
  match x.warp? s x.lead with
  | some w => w.fpm
  | none => 0#8

/-- The settings of an instance: an ARITH hint, else the lead's fpm (17 R313). -/
def Ix.fset (x : Ix) (s : State) : FSet :=
  let fpm := x.fpm s
  let p := (hintOf x.hints 3).getD 0
  { mode := if p.testBit 2 then p % 4 else bits fpm 0 2
    ftz := if p.testBit 5 then p.testBit 4 else bit fpm 2
    sat := p.testBit 3
    sr := p.testBit 6 }

/-- The environment of one rounding that would use the random bits `r` (07 R139). -/
def FSet.env (e : FSet) (r : Nat) : FEnv :=
  { mode := if e.sr then .sr r else RMode.ofCode e.mode, ftz := e.ftz, sat := e.sat }

/-- The seed after `n` roundings (07 R139). -/
def srAfter (x : Word) : Nat → Word
  | 0 => x
  | n + 1 => srNext (srAfter x n)

/-- The random bits of a lane's rounding number `i` (07 R139). -/
def srDraw (w : Warp) (l i : Nat) : Nat := srBits (srAfter (w.rseed.lane l) (i + 1))

/-- Advances the seeds of the active lanes, helper lanes included, by `n` roundings (07 R139). -/
def Warp.advanceSeed (w : Warp) (em : Mask) (n : Nat) : Warp :=
  { w with rseed := Vec.of fun l => if inMask em l then srAfter (w.rseed.lane l) n else w.rseed.lane l }

/-- Flags that the lanes of a member raise: lane and flags. -/
abbrev LaneFlags := List (Nat × Flags)

/-- The flag bits of a list of lanes. -/
def flagBits (l : LaneFlags) : BitVec 8 := l.foldl (fun r p => r ||| p.2.toBits) 0#8

/-- Lanes that raise a flag which `en` enables. -/
def raisers (l : LaneFlags) (en : BitVec 8) : LaneFlags := l.filter fun p => p.2.toBits &&& en != 0#8

/-- Accrues the flags of every member's active non-helper lanes, and takes the arithmetic trap of the enabled ones, after
all results are written (07 R141, R143; 06 R126). `before` names each member's flags. -/
def accrue (x : Ix) (before : List (Nat × LaneFlags)) (s : State) : Res :=
  let en : BitVec 8 := (x.fpm s >>> 3) &&& 0x1F#8
  let t := before.foldl (fun t p =>
    t.modWarp x.core x.slot p.1 fun w => { w with fpflags := w.fpflags ||| flagBits p.2 }) s
  let bad := (before.map fun p => (p.1, raisers p.2 en)).filter fun p => !p.2.isEmpty
  match bad with
  | [] => .done t
  | p :: _ =>
    .trap { cause := 0x1C0 + ((lowBit (flagBits p.2 &&& en).toNat 0 5).getD 0)
            lanes := bad.map fun q => (q.1, lanesMask (q.2.map (·.1)))
            resnext := true } t

/-- The flags of every member's active non-helper lanes. -/
def Ix.laneFlags (x : Ix) (s : State) (f : Warp → Nat → Flags) : List (Nat × LaneFlags) :=
  (x.warps s).map fun p => (p.1, (p.2.lanesOn (x.em p.2)).map fun l => (l, f p.2 l))

/-- A floating-point element-wise instruction: each active lane computes a value and flags from its member's registers, the
settings and its random bits; `draws` roundings advance the seeds under stochastic rounding. -/
def lanewiseF (dst : VOp) (srcs : List VOp) (draws : Nat) (f : FSet → (Nat → Nat) → Warp → Nat → Nat × Flags) :
    Ix → State → Res :=
  withOperands (srcs ++ [dst]) fun x s =>
    let e := x.fset s
    let g (w : Warp) (l : Nat) : Nat × Flags := f e (srDraw w l) w l
    let fl := x.laneFlags s fun w l => (g w l).2
    let t := x.putLanes s dst fun _ w l => (g w l).1
    let t := if e.sr then x.each t fun _ w => w.advanceSeed (x.em w) draws else t
    accrue x fl t

/-! ### Set-lane positions (05 R110) -/

/-- The member warps that the set-lane numbers of an instance count, absent ones included: the issuing warp, the set, or the
block. -/
def Ix.places (x : Ix) (s : State) : List Nat :=
  if x.sc ≤ 1 then [x.lead]
  else
    match x.block? s with
    | none => []
    | some b => if x.sc = 2 then b.sets.getD ((setOf b x.lead).getD 0) [] else List.range b.warps.length

/-- Set-lane number of a member's lane. -/
def Ix.position (x : Ix) (s : State) (m l : Nat) : Nat :=
  match findIdx (fun q : Nat => q == m) (x.places s) with
  | some (i, _) => 64 * i + l
  | none => l

/-- The member and lane at a set-lane number, if the lane is active (05 R110). -/
def Ix.activeAt (x : Ix) (s : State) (p : Nat) : Option (Warp × Nat) :=
  match (x.places s)[p / 64]? with
  | none => none
  | some m =>
    if x.members.contains m then
      match x.warp? s m with
      | some w => if inMask (x.em w) (p % 64) then some (w, p % 64) else none
      | none => none
    else none

/-- Mask of the set-lane numbers that an operand scalar carries: 6 bits under warp scope, 11 under set and block scope. -/
def Ix.posMask (x : Ix) : Nat := if x.sc ≤ 1 then 64 else 2048

end Sys2Proof.Machine
end

