-- ==== Sys2Proof/Machine/Integer.lean ====
section
/-! DEFINITION. The integer groups, majors 0x01 and 0x02 (19 R371, R372; 07 R137). -/

namespace Sys2Proof.Machine

open Sys2Proof

/-- An integer instruction of major 0x01: `w` independent 32-bit operations (19 R371, R372). `readD`: D is a source. -/
def int32 (i : Instr) (c w : BitVec 2) (d a b : BitVec 6) (dist : Nat) (readD : Bool) (f : Word → Word → Word → Word)
    (s : State) : State :=
  let n := wdWidth w
  let vd := vop d n
  let va := vop a n
  let vb := vop b n
  issue i { sc := c.toNat, dist := dist, vin := if readD then [va, vb, vd] else [va, vb], vout := [vd] } noExtra noUniform
    (lanewise vd [va, vb] fun x l => perReg n fun k =>
      f (word32 (readOp x va l) k) (word32 (readOp x vb l) k) (word32 (readOp x vd l) k)) s

/-- A one-source instruction on `w` registers. -/
def unary32 (i : Instr) (c : BitVec 2) (n : Nat) (d a : BitVec 6) (f : Word → Word) (s : State) : State :=
  let vd := vop d n
  let va := vop a n
  issue i { sc := c.toNat, dist := 2, vin := [va], vout := [vd] } noExtra noUniform
    (lanewise vd [va] fun x l => perReg n fun k => f (word32 (readOp x va l) k)) s

/-- An integer instruction of major 0x02: one operation on 64-bit pairs (19 R371, R372). -/
def int64 (i : Instr) (c : BitVec 2) (d a b : BitVec 6) (dist : Nat) (readD : Bool) (f : DWord → DWord → DWord → DWord)
    (s : State) : State :=
  let vd := vop d 2
  let va := vop a 2
  let vb := vop b 2
  issue i { sc := c.toNat, dist := dist, vin := if readD then [va, vb, vd] else [va, vb], vout := [vd] } noExtra noUniform
    (lanewise vd [va, vb] fun x l =>
      (f (BitVec.ofNat 64 (readOp x va l)) (BitVec.ofNat 64 (readOp x vb l)) (BitVec.ofNat 64 (readOp x vd l))).toNat) s

/-- High half of the signed product (19 Table 19.8). -/
def mulhI {n : Nat} (a b : BitVec n) : BitVec n := BitVec.ofInt n ((a.toInt * b.toInt) / 2 ^ n)

/-- High half of the unsigned product (19 Table 19.8). -/
def mulhN {n : Nat} (a b : BitVec n) : BitVec n := BitVec.ofNat n (a.toNat * b.toNat / 2 ^ n)

/-- Signed value clamped to the width (07 R137). -/
def clampI (n : Nat) (x : Int) : BitVec n := BitVec.ofInt n (clamp (-(2 ^ (n - 1))) (2 ^ (n - 1) - 1) x)

/-- The smaller, as signed. -/
def minI {n : Nat} (a b : BitVec n) : BitVec n := if a.toInt ≤ b.toInt then a else b

/-- The smaller, as unsigned. -/
def minN {n : Nat} (a b : BitVec n) : BitVec n := if a.toNat ≤ b.toNat then a else b

/-- The larger, as signed. -/
def maxI {n : Nat} (a b : BitVec n) : BitVec n := if a.toInt ≤ b.toInt then b else a

/-- The larger, as unsigned. -/
def maxN {n : Nat} (a b : BitVec n) : BitVec n := if a.toNat ≤ b.toNat then b else a

/-- The magnitude of a signed value; the most negative one gives itself (19 Table 19.8). -/
def absI {n : Nat} (a : BitVec n) : BitVec n := if a.toInt < 0 then -a else a

/-- Saturating unsigned sum (19 Table 19.8). -/
def satAddN {n : Nat} (a b : BitVec n) : BitVec n :=
  if 2 ^ n ≤ a.toNat + b.toNat then BitVec.allOnes n else a + b

/-- Unsigned difference, at least zero (19 Table 19.8). -/
def satSubN {n : Nat} (a b : BitVec n) : BitVec n := if a.toNat < b.toNat then 0#n else a - b

/-- IADD, 32 bits: a + b (19 R371, R372). -/
def execIadd32 (c w : BitVec 2) (d a b : BitVec 6) (s : State) : Host.Outcome State Fault Refusal :=
  .next (int32 (.iadd32 c w d a b) c w d a b 2 false (fun a b _ => a + b) s)

/-- ISUB, 32 bits: a − b (19 R371, R372). -/
def execIsub32 (c w : BitVec 2) (d a b : BitVec 6) (s : State) : Host.Outcome State Fault Refusal :=
  .next (int32 (.isub32 c w d a b) c w d a b 2 false (fun a b _ => a - b) s)

/-- IMUL, 32 bits: a × b (19 R371, R372). -/
def execImul32 (c w : BitVec 2) (d a b : BitVec 6) (s : State) : Host.Outcome State Fault Refusal :=
  .next (int32 (.imul32 c w d a b) c w d a b 3 false (fun a b _ => a * b) s)

/-- IMULHI, 32 bits: high half of the signed product (19 R371, R372). -/
def execImulhI32 (c w : BitVec 2) (d a b : BitVec 6) (s : State) : Host.Outcome State Fault Refusal :=
  .next (int32 (.imulhI32 c w d a b) c w d a b 3 false (fun a b _ => mulhI a b) s)

/-- IMULHN, 32 bits: high half of the unsigned product (19 R371, R372). -/
def execImulhN32 (c w : BitVec 2) (d a b : BitVec 6) (s : State) : Host.Outcome State Fault Refusal :=
  .next (int32 (.imulhN32 c w d a b) c w d a b 3 false (fun a b _ => mulhN a b) s)

/-- IMAD, 32 bits: a × b + c, where c is the old D (19 R371, R372). -/
def execImad32 (c w : BitVec 2) (d a b : BitVec 6) (s : State) : Host.Outcome State Fault Refusal :=
  .next (int32 (.imad32 c w d a b) c w d a b 3 true (fun a b c => a * b + c) s)

/-- IMINI, 32 bits: the smaller, signed (19 R371, R372). -/
def execIminI32 (c w : BitVec 2) (d a b : BitVec 6) (s : State) : Host.Outcome State Fault Refusal :=
  .next (int32 (.iminI32 c w d a b) c w d a b 2 false (fun a b _ => minI a b) s)

/-- IMINN, 32 bits: the smaller, unsigned (19 R371, R372). -/
def execIminN32 (c w : BitVec 2) (d a b : BitVec 6) (s : State) : Host.Outcome State Fault Refusal :=
  .next (int32 (.iminN32 c w d a b) c w d a b 2 false (fun a b _ => minN a b) s)

/-- IMAXI, 32 bits: the larger, signed (19 R371, R372). -/
def execImaxI32 (c w : BitVec 2) (d a b : BitVec 6) (s : State) : Host.Outcome State Fault Refusal :=
  .next (int32 (.imaxI32 c w d a b) c w d a b 2 false (fun a b _ => maxI a b) s)

/-- IMAXN, 32 bits: the larger, unsigned (19 R371, R372). -/
def execImaxN32 (c w : BitVec 2) (d a b : BitVec 6) (s : State) : Host.Outcome State Fault Refusal :=
  .next (int32 (.imaxN32 c w d a b) c w d a b 2 false (fun a b _ => maxN a b) s)

/-- IABS.i32: −a if a is negative, else a (19 R371, R372). -/
def execIabs32 (c w : BitVec 2) (d a : BitVec 6) (s : State) : Host.Outcome State Fault Refusal :=
  .next (unary32 (.iabs32 c w d a) c (wdWidth w) d a absI s)

/-- IADDSI, 32 bits: the signed sum, clamped (19 R371, R372). -/
def execIaddsI32 (c w : BitVec 2) (d a b : BitVec 6) (s : State) : Host.Outcome State Fault Refusal :=
  .next (int32 (.iaddsI32 c w d a b) c w d a b 2 false (fun a b _ => clampI 32 (a.toInt + b.toInt)) s)

/-- IADDSN, 32 bits: the unsigned sum, clamped (19 R371, R372). -/
def execIaddsN32 (c w : BitVec 2) (d a b : BitVec 6) (s : State) : Host.Outcome State Fault Refusal :=
  .next (int32 (.iaddsN32 c w d a b) c w d a b 2 false (fun a b _ => satAddN a b) s)

/-- ISUBSI, 32 bits: the signed difference, clamped (19 R371, R372). -/
def execIsubsI32 (c w : BitVec 2) (d a b : BitVec 6) (s : State) : Host.Outcome State Fault Refusal :=
  .next (int32 (.isubsI32 c w d a b) c w d a b 2 false (fun a b _ => clampI 32 (a.toInt - b.toInt)) s)

/-- ISUBSN, 32 bits: the unsigned difference, clamped (19 R371, R372). -/
def execIsubsN32 (c w : BitVec 2) (d a b : BitVec 6) (s : State) : Host.Outcome State Fault Refusal :=
  .next (int32 (.isubsN32 c w d a b) c w d a b 2 false (fun a b _ => satSubN a b) s)

/-- IADD, 64 bits: a + b (19 R371, R372). -/
def execIadd64 (c : BitVec 2) (d a b : BitVec 6) (s : State) : Host.Outcome State Fault Refusal :=
  .next (int64 (.iadd64 c d a b) c d a b 2 false (fun a b _ => a + b) s)

/-- ISUB, 64 bits: a − b (19 R371, R372). -/
def execIsub64 (c : BitVec 2) (d a b : BitVec 6) (s : State) : Host.Outcome State Fault Refusal :=
  .next (int64 (.isub64 c d a b) c d a b 2 false (fun a b _ => a - b) s)

/-- IMUL, 64 bits: a × b (19 R371, R372). -/
def execImul64 (c : BitVec 2) (d a b : BitVec 6) (s : State) : Host.Outcome State Fault Refusal :=
  .next (int64 (.imul64 c d a b) c d a b 3 false (fun a b _ => a * b) s)

/-- IMULHI, 64 bits: high half of the signed product (19 R371, R372). -/
def execImulhI64 (c : BitVec 2) (d a b : BitVec 6) (s : State) : Host.Outcome State Fault Refusal :=
  .next (int64 (.imulhI64 c d a b) c d a b 3 false (fun a b _ => mulhI a b) s)

/-- IMULHN, 64 bits: high half of the unsigned product (19 R371, R372). -/
def execImulhN64 (c : BitVec 2) (d a b : BitVec 6) (s : State) : Host.Outcome State Fault Refusal :=
  .next (int64 (.imulhN64 c d a b) c d a b 3 false (fun a b _ => mulhN a b) s)

/-- IMAD, 64 bits: a × b + c, where c is the old D (19 R371, R372). -/
def execImad64 (c : BitVec 2) (d a b : BitVec 6) (s : State) : Host.Outcome State Fault Refusal :=
  .next (int64 (.imad64 c d a b) c d a b 3 true (fun a b c => a * b + c) s)

/-- IMINI, 64 bits: the smaller, signed (19 R371, R372). -/
def execIminI64 (c : BitVec 2) (d a b : BitVec 6) (s : State) : Host.Outcome State Fault Refusal :=
  .next (int64 (.iminI64 c d a b) c d a b 2 false (fun a b _ => minI a b) s)

/-- IMINN, 64 bits: the smaller, unsigned (19 R371, R372). -/
def execIminN64 (c : BitVec 2) (d a b : BitVec 6) (s : State) : Host.Outcome State Fault Refusal :=
  .next (int64 (.iminN64 c d a b) c d a b 2 false (fun a b _ => minN a b) s)

/-- IMAXI, 64 bits: the larger, signed (19 R371, R372). -/
def execImaxI64 (c : BitVec 2) (d a b : BitVec 6) (s : State) : Host.Outcome State Fault Refusal :=
  .next (int64 (.imaxI64 c d a b) c d a b 2 false (fun a b _ => maxI a b) s)

/-- IMAXN, 64 bits: the larger, unsigned (19 R371, R372). -/
def execImaxN64 (c : BitVec 2) (d a b : BitVec 6) (s : State) : Host.Outcome State Fault Refusal :=
  .next (int64 (.imaxN64 c d a b) c d a b 2 false (fun a b _ => maxN a b) s)

/-- IABS.i64: −a if a is negative, else a (19 R371, R372). -/
def execIabs64 (c : BitVec 2) (d a : BitVec 6) (s : State) : Host.Outcome State Fault Refusal :=
  let vd := vop d 2
  let va := vop a 2
  .next (issue (.iabs64 c d a) { sc := c.toNat, dist := 2, vin := [va], vout := [vd] } noExtra noUniform
    (lanewise vd [va] fun x l => (absI (BitVec.ofNat 64 (readOp x va l))).toNat) s)

/-- IADDSI, 64 bits: the signed sum, clamped (19 R371, R372). -/
def execIaddsI64 (c : BitVec 2) (d a b : BitVec 6) (s : State) : Host.Outcome State Fault Refusal :=
  .next (int64 (.iaddsI64 c d a b) c d a b 2 false (fun a b _ => clampI 64 (a.toInt + b.toInt)) s)

/-- IADDSN, 64 bits: the unsigned sum, clamped (19 R371, R372). -/
def execIaddsN64 (c : BitVec 2) (d a b : BitVec 6) (s : State) : Host.Outcome State Fault Refusal :=
  .next (int64 (.iaddsN64 c d a b) c d a b 2 false (fun a b _ => satAddN a b) s)

/-- ISUBSI, 64 bits: the signed difference, clamped (19 R371, R372). -/
def execIsubsI64 (c : BitVec 2) (d a b : BitVec 6) (s : State) : Host.Outcome State Fault Refusal :=
  .next (int64 (.isubsI64 c d a b) c d a b 2 false (fun a b _ => clampI 64 (a.toInt - b.toInt)) s)

/-- ISUBSN, 64 bits: the unsigned difference, clamped (19 R371, R372). -/
def execIsubsN64 (c : BitVec 2) (d a b : BitVec 6) (s : State) : Host.Outcome State Fault Refusal :=
  .next (int64 (.isubsN64 c d a b) c d a b 2 false (fun a b _ => satSubN a b) s)

end Sys2Proof.Machine
end

