-- ==== Sys2Proof/Machine/BitOps.lean ====
section
/-! DEFINITION. The bit operations, major 0x03 (18 R322, R323; 20 R384; 21 R410, R411; 22 R434, R440). -/

namespace Sys2Proof.Machine

open Sys2Proof

/-- Position and length of a control operand (18 R323). -/
def bfPos (b : Word) : Nat := bits b 0 5

/-- Length, clipped to the word (18 R323). -/
def bfLen (b : Word) : Nat := if 32 - bfPos b < bits b 8 6 then 32 - bfPos b else bits b 8 6

/-- BFX.n in a lane (18 R323). -/
def bfxNWord (a b : Word) : Word := BitVec.ofNat 32 (a.toNat / 2 ^ bfPos b % 2 ^ bfLen b)

/-- BFX.i in a lane: length 0 gives 0 (18 R323). -/
def bfxIWord (a b : Word) : Word := BitVec.ofInt 32 (sextInt (bfLen b) (a.toNat / 2 ^ bfPos b))

/-- BFI in a lane (18 R323). -/
def bfiWord (a b c : Word) : Word :=
  let m : Word := BitVec.ofNat 32 ((2 ^ bfLen b - 1) * 2 ^ bfPos b)
  (c &&& ~~~m) ||| ((a <<< bfPos b) &&& m)

/-- Rotation to the left, amount modulo 32 (20 R384). -/
def rotWord (a b : Word) : Word := a.rotateLeft (bits b 0 5)

/-- AND: a and b (18 R322, R323). -/
def execAnd (c w : BitVec 2) (d a b : BitVec 6) (s : State) : Host.Outcome State Fault Refusal :=
  .next (int32 (.and c w d a b) c w d a b 2 false (fun a b _ => a &&& b) s)

/-- OR: a or b (20 R384). -/
def execOr (c w : BitVec 2) (d a b : BitVec 6) (s : State) : Host.Outcome State Fault Refusal :=
  .next (int32 (.or c w d a b) c w d a b 2 false (fun a b _ => a ||| b) s)

/-- XOR: a xor b (22 R440). -/
def execXor (c w : BitVec 2) (d a b : BitVec 6) (s : State) : Host.Outcome State Fault Refusal :=
  .next (int32 (.xor c w d a b) c w d a b 2 false (fun a b _ => a ^^^ b) s)

/-- ANDN: a and not b (18 R322, R323). -/
def execAndn (c w : BitVec 2) (d a b : BitVec 6) (s : State) : Host.Outcome State Fault Refusal :=
  .next (int32 (.andn c w d a b) c w d a b 2 false (fun a b _ => a &&& ~~~b) s)

/-- SHL: a << b[4:0] (21 R410, R411). -/
def execShl (c : BitVec 2) (d a b : BitVec 6) (s : State) : Host.Outcome State Fault Refusal :=
  .next (int32 (.shl c d a b) c 0#2 d a b 2 false (fun a b _ => a <<< bits b 0 5) s)

/-- SHRN: a >> b[4:0], zeros in (21 R410, R411). -/
def execShrN (c : BitVec 2) (d a b : BitVec 6) (s : State) : Host.Outcome State Fault Refusal :=
  .next (int32 (.shrN c d a b) c 0#2 d a b 2 false (fun a b _ => a >>> bits b 0 5) s)

/-- SHRI: a >> b[4:0], copies of the sign in (21 R410, R411). -/
def execShrI (c : BitVec 2) (d a b : BitVec 6) (s : State) : Host.Outcome State Fault Refusal :=
  .next (int32 (.shrI c d a b) c 0#2 d a b 2 false (fun a b _ => a.sshiftRight (bits b 0 5)) s)

/-- ROT: a rotated left by b[4:0] (20 R384). -/
def execRot (c : BitVec 2) (d a b : BitVec 6) (s : State) : Host.Outcome State Fault Refusal :=
  .next (int32 (.rot c d a b) c 0#2 d a b 2 false (fun a b _ => rotWord a b) s)

/-- POPC: number of bits set (20 R384). -/
def execPopc (c : BitVec 2) (d a : BitVec 6) (s : State) : Host.Outcome State Fault Refusal :=
  .next (unary32 (.popc c d a) c 1 d a (fun a => BitVec.ofNat 32 (popCount a)) s)

/-- CLZ: number of leading zero bits (18 R323). -/
def execClz (c : BitVec 2) (d a : BitVec 6) (s : State) : Host.Outcome State Fault Refusal :=
  .next (unary32 (.clz c d a) c 1 d a (fun a => BitVec.ofNat 32 (leadZeros a)) s)

/-- BREV: the bits in reverse order (18 R323). -/
def execBrev (c : BitVec 2) (d a : BitVec 6) (s : State) : Host.Outcome State Fault Refusal :=
  .next (unary32 (.brev c d a) c 1 d a (reverseBits) s)

/-- BFXN: a field of a, zero-extended (18 R323). -/
def execBfxN (c : BitVec 2) (d a b : BitVec 6) (s : State) : Host.Outcome State Fault Refusal :=
  .next (int32 (.bfxN c d a b) c 0#2 d a b 2 false (fun a b _ => bfxNWord a b) s)

/-- BFXI: a field of a, sign-extended (18 R323). -/
def execBfxI (c : BitVec 2) (d a b : BitVec 6) (s : State) : Host.Outcome State Fault Refusal :=
  .next (int32 (.bfxI c d a b) c 0#2 d a b 2 false (fun a b _ => bfxIWord a b) s)

/-- BFI: a inserted as a field of the old D (18 R323). -/
def execBfi (c : BitVec 2) (d a b : BitVec 6) (s : State) : Host.Outcome State Fault Refusal :=
  .next (int32 (.bfi c d a b) c 0#2 d a b 2 true (fun a b c => bfiWord a b c) s)

/-- VSEL: (a and m) or (b and not m), where m is the old D (22 R434). -/
def execVsel (c w : BitVec 2) (d a b : BitVec 6) (s : State) : Host.Outcome State Fault Refusal :=
  .next (int32 (.vsel c w d a b) c w d a b 2 true (fun a b m => (a &&& m) ||| (b &&& ~~~m)) s)

end Sys2Proof.Machine
end

