-- ==== Sys2Proof/Machine/Collective.lean ====
section
/-! DEFINITION. The warp collectives, major 0x12 (20 R392 to R394; 21 R402, R403, R408, R409; 18 R337; 22 R432). Their
results are interlocked: the checker records no destination (17 R304). -/

namespace Sys2Proof.Machine

open Sys2Proof

/-- The value of A at a set-lane number, 0 where no active lane stands. -/
def activeValue (x : Ix) (s : State) (va : VOp) (p : Nat) : Nat :=
  match x.activeAt s p with
  | some (w, l) => readOp w va l
  | none => 0

/-- A permutation: each active lane receives A at the source position that `src` gives; sources are captured first. -/
def permute (i : Instr) (c w : BitVec 2) (d a : BitVec 6) (more : List VOp) (srcs : List Reg)
    (src : Ix → State → Warp → Nat → Nat → Nat) (s : State) : State :=
  let n := wdWidth w
  let vd := vop d n
  let va := vop a n
  issue i { sc := c.toNat, vin := va :: more, srcs := srcs, vout := [vd] } noExtra noUniform
    (withOperands (va :: more ++ [vd]) fun x s =>
      .done (x.putLanes s vd fun m w l => activeValue x s va (src x s w (x.position s m l) l))) s

/-- SHFL: the source position lies in each lane of B (21 R408, R409). -/
def execShfl (c w : BitVec 2) (d a b : BitVec 6) (s : State) : Host.Outcome State Fault Refusal :=
  let vb := vop b 1
  .next (permute (.shfl c w d a b) c w d a [vb] [] (fun x _ q _ l => readOp q vb l % x.posMask) s)

/-- SHFLX: the source position is the lane's position xor a scalar (21 R408, R409). -/
def execShflx (c w : BitVec 2) (d a b : BitVec 6) (s : State) : Host.Outcome State Fault Refusal :=
  .next (permute (.shflx c w d a b) c w d a [] [.s b.toNat]
    (fun x s _ p _ => Nat.xor p ((x.rs s b.toNat).toNat % x.posMask)) s)

/-- BCAST: one source position for every lane (18 R337). -/
def execBcast (c w : BitVec 2) (d a b : BitVec 6) (s : State) : Host.Outcome State Fault Refusal :=
  .next (permute (.bcast c w d a b) c w d a [] [.s b.toNat]
    (fun x s _ _ _ => (x.rs s b.toNat).toNat % x.posMask) s)

/-- QXCH: the source lies in the same quad (20 R392). -/
def execQxch (c w : BitVec 2) (d a b : BitVec 6) (s : State) : Host.Outcome State Fault Refusal :=
  .next (permute (.qxch c w d a b) c w d a [] []
    (fun _ _ _ p _ => if b.toNat = 3 then p - p % 4 else p - p % 4 + Nat.xor (p % 4) (b.toNat + 1)) s)

/-- Identity of a reduce operator (17 Table 17.5). -/
def reduceIdentity (op : Nat) : Nat :=
  match op with
  | 1 => 0x80000000
  | 2 => 0x80008000
  | 3 => 0x80008000
  | 4 => 0x7FFFFFFF
  | 5 => 0xFFFFFFFF
  | 6 => 0x7F800000
  | 7 => 0x80000000
  | 9 => 0xFF800000
  | 10 => 0xFFFFFFFF
  | 14 => 0x8000000000000000
  | _ => 0

/-- A packed sum, each element rounded RNE (20 R394). -/
def packedAdd (f : Fmt) (a b : Nat) : Nat :=
  (perElem 16 2 fun j => f.bin .rne (f.addV .rne) (elemAt 16 a j) (elemAt 16 b j)).1

/-- A 32-bit operator of Table 17.5 on values. -/
def comb32 (f : Word → Word → Word) (a b : Nat) : Nat := (f (BitVec.ofNat 32 a) (BitVec.ofNat 32 b)).toNat

/-- comb(op, a, b) of 20 R394. -/
def reduceComb (op a b : Nat) : Nat :=
  match op with
  | 0 => comb32 (cuCombine 0) a b
  | 1 => comb32 (cuCombine 1) a b
  | 2 => packedAdd .f16 a b
  | 3 => packedAdd .bf16 a b
  | 4 => comb32 (cuCombine 3) a b
  | 5 => comb32 (cuCombine 4) a b
  | 6 => comb32 (cuCombine 5) a b
  | 7 => comb32 (cuCombine 6) a b
  | 8 => comb32 (cuCombine 7) a b
  | 9 => comb32 (cuCombine 8) a b
  | 10 => comb32 (cuCombine 9) a b
  | 11 => comb32 (cuCombine 10) a b
  | 12 => comb32 (cuCombine 11) a b
  | 13 => (a + b) % 2 ^ 64
  | _ => (Fmt.f64.bin .rne (Fmt.f64.addV .rne) a b).1

/-- What a position contributes: A, or the identity where no active non-helper lane stands (20 R394, 21 R403). -/
def contribution (x : Ix) (s : State) (va : VOp) (op p : Nat) : Nat :=
  match x.activeAt s p with
  | some (w, l) => if inMask w.helper l then reduceIdentity op else readOp w va l
  | none => reduceIdentity op

/-- One level of the tree: neighbours combined. -/
def combPairs (op : Nat) : List Nat → List Nat
  | a :: b :: r => reduceComb op a b :: combPairs op r
  | l => l

/-- The tree over a power of two of positions, `n` levels (20 R394). -/
def combTree (op : Nat) (l : List Nat) : Nat → Nat
  | 0 => l.headD 0
  | n + 1 => combTree op (combPairs op l) n

/-- Levels of the tree above one warp: log2 of the smallest power of two at or above m (20 R394). -/
def memberLevels (m : Nat) : Nat := if m ≤ 1 then 0 else (m - 1).log2 + 1

/-- REDUCE (20 R393, R394). -/
def execReduce (c w : BitVec 2) (d a b : BitVec 6) (s : State) : Host.Outcome State Fault Refusal :=
  let n := wdWidth w
  let vd := vop d n
  let va := vop a n
  .next (issue (.reduce c w d a b) { sc := c.toNat, vin := [va], vout := [vd] } noExtra noUniform
    (withOperands [va, vd] fun x s =>
      let k := memberLevels (x.places s).length
      let r := combTree b.toNat ((List.range (64 * 2 ^ k)).map (contribution x s va b.toNat)) (6 + k)
      .done (x.putLanes s vd fun _ _ _ => r)) s)

/-- The prefixes of a scan: an inactive or helper position contributes nothing, so the prefix stands (21 R403). -/
def scanPrefixes (x : Ix) (s : State) (va : VOp) (op : Nat) : List Nat :=
  ((List.range (64 * (x.places s).length)).foldl (fun (r : List Nat × Nat) p =>
    let y := match x.activeAt s p with
      | some (w, l) => if inMask w.helper l then r.2 else reduceComb op r.2 (readOp w va l)
      | none => r.2
    (y :: r.1, y)) ([], reduceIdentity op)).1.reverse

/-- SCAN (21 R402, R403). -/
def execScan (c w : BitVec 2) (d a b : BitVec 6) (s : State) : Host.Outcome State Fault Refusal :=
  let n := wdWidth w
  let vd := vop d n
  let va := vop a n
  .next (issue (.scan c w d a b) { sc := c.toNat, vin := [va], vout := [vd] } noExtra noUniform
    (withOperands [va, vd] fun x s =>
      let r := scanPrefixes x s va b.toNat
      .done (x.putLanes s vd fun m _ l => r.getD (x.position s m l) 0)) s)

/-- A lane takes part in a vote: active and not a helper (22 R432). -/
def voters (x : Ix) (s : State) (va : VOp) : List (Nat × Nat × Nat) :=
  (x.warps s).flatMap fun p => (p.2.lanesOn (x.em p.2)).map fun l => (p.1, l, readOp p.2 va l)

/-- VOTE: ballot gives each member its own lanes, the other kinds one value to all (22 R432). -/
def execVote (c : BitVec 2) (d a b : BitVec 6) (s : State) : Host.Outcome State Fault Refusal :=
  let va := vop a 1
  .next (issue (.vote c d a b) { sc := c.toNat, vin := [va], dsts := [.s d.toNat] } noExtra noUniform
    (withOperands [va] fun x s =>
      let vs := voters x s va
      let all := vs.all fun v => v.2.2 != 0
      let any := vs.any fun v => v.2.2 != 0
      let uni := vs.all fun v => v.2.2 == (vs.map (·.2.2)).headD 0
      match b.toNat with
      | 0 => .done (x.each s fun m w => w.setS d.toNat
          (lanesMask ((vs.filter fun v => v.1 == m && v.2.2 != 0).map (·.2.1))))
      | 1 => .done (x.ws s d.toNat (BitVec.ofNat 64 (b2n all)))
      | 2 => .done (x.ws s d.toNat (BitVec.ofNat 64 (b2n any)))
      | _ => .done (x.ws s d.toNat (BitVec.ofNat 64 (b2n uni)))) s)

end Sys2Proof.Machine
end

