-- ==== Sys2Proof/Machine/Float.lean ====
section
/-! DEFINITION. The floating-point arithmetic groups, majors 0x05 to 0x08 (19 R354 to R358). -/

namespace Sys2Proof.Machine

open Sys2Proof

/-- A floating-point arithmetic instruction on elements of a format (19 R354, R355): each element of each register computes
`f` from a, b and c, the old D. `rounds`: the instruction rounds each element once. -/
def floatArith (i : Instr) (c : BitVec 2) (n : Nat) (d a b : BitVec 6) (fmt : Fmt) (dist : Nat) (useB useD rounds : Bool)
    (f : FEnv → Nat → Nat → Nat → Nat × Flags) (s : State) : State :=
  let vd := vop d n
  let va := vop a n
  let vb := vop b n
  let srcs := va :: ((if useB then [vb] else []) ++ (if useD then [vd] else []))
  let cnt := 32 * n / fmt.width
  issue i { sc := c.toNat, dist := dist, vin := srcs, vout := [vd],
            arith := some { cmp := false, sr := decide (fmt.width ≤ 16) } } noExtra noUniform
    (lanewiseF vd srcs (if rounds then cnt else 0) fun e r w l => perElem fmt.width cnt fun j =>
      f (e.env (r j)) (elemAt fmt.width (readOp w va l) j) (elemAt fmt.width (readOp w vb l) j)
        (elemAt fmt.width (readOp w vd l) j)) s

/-- FADD on one element (07 R144). -/
def faddElem (fmt : Fmt) (env : FEnv) (a b _c : Nat) : Nat × Flags := fmt.bin env (fmt.addV env) a b

/-- FSUB on one element (07 R144). -/
def fsubElem (fmt : Fmt) (env : FEnv) (a b _c : Nat) : Nat × Flags := fmt.bin env (fun x y => fmt.addV env x y.neg) a b

/-- FMUL on one element (07 R144). -/
def fmulElem (fmt : Fmt) (env : FEnv) (a b _c : Nat) : Nat × Flags := fmt.bin env (fmt.mulV env) a b

/-- FDIV on one element (07 R144). -/
def fdivElem (fmt : Fmt) (env : FEnv) (a b _c : Nat) : Nat × Flags := fmt.bin env (fmt.divV env) a b

/-- FFMA on one element: c is the old D (07 R144). -/
def ffmaElem (fmt : Fmt) (env : FEnv) (a b c : Nat) : Nat × Flags :=
  let (z, fz) := fmt.input env.ftz c
  let (r, fl) := fmt.bin env (fun x y => fmt.fmaV env x y z) a b
  (r, fl.or fz)

/-- An operand after the input flush, as a pattern (07 R142). -/
def Fmt.flushed (f : Fmt) (ftz : Bool) (x : Nat) : Nat × Flags :=
  let (v, fl) := f.input ftz x
  if fl.fz then (match v with | .fin n _ _ => f.signBit n | _ => x, fl) else (x, fl)

/-- A pattern is a NaN. -/
def Fmt.isNan (f : Fmt) (x : Nat) : Bool := match f.decode x with | .nan _ => true | _ => false

/-- A pattern is a signalling NaN. -/
def Fmt.isSnan (f : Fmt) (x : Nat) : Bool := match f.decode x with | .nan s => s | _ => false

/-- Order of the patterns that are not NaN, with −0 below +0 (19 R356). -/
def Fmt.key (f : Fmt) (x : Nat) : Int :=
  let code := x % 2 ^ (f.exp + f.man)
  if x / 2 ^ (f.exp + f.man) % 2 = 1 then -(code : Int) - 1 else (code : Int)

/-- FMIN and FMAX on one element (19 R356). -/
def fminmaxElem (isMax : Bool) (fmt : Fmt) (env : FEnv) (a b _c : Nat) : Nat × Flags :=
  let (x, fx) := fmt.flushed env.ftz a
  let (y, fy) := fmt.flushed env.ftz b
  let r :=
    if fmt.isNan x then (if fmt.isNan y then fmt.cnan else y)
    else if fmt.isNan y then x
    else if decide (fmt.key x < fmt.key y) == isMax then y else x
  (r, (fx.or fy).or { nv := fmt.isSnan x || fmt.isSnan y })

/-- FABS and FNEG on one element (19 R356). -/
def fsignElem (neg : Bool) (fmt : Fmt) (env : FEnv) (a _b _c : Nat) : Nat × Flags :=
  let (x, fx) := fmt.flushed env.ftz a
  let sgn := 2 ^ (fmt.exp + fmt.man)
  if fmt.isNan x then (fmt.cnan, fx)
  else (if neg then (if x / sgn % 2 = 1 then x - sgn else x + sgn) else x % sgn, fx)

/-- FSCALE on one element: a × 2^n, n the low 32 bits of b as i32; a scale beyond ±4000 acts as that bound (19 R357). -/
def fscaleElem (fmt : Fmt) (env : FEnv) (a b _c : Nat) : Nat × Flags :=
  let n := clamp (-4000) 4000 (sextInt 32 b)
  let (v, fv) := fmt.input env.ftz a
  let (r, fr) : Nat × Flags :=
    match v with
    | .nan s => fmt.nanOf s
    | .inf s => (fmt.infCode s, {})
    | .fin s m e => if m = 0 then (fmt.signBit s, {}) else fmt.roundFin env s m (e + n) false
  (r, fv.or fr)

/-- FRND on one element: rounded to an integral value (19 R357). -/
def frndElem (fmt : Fmt) (env : FEnv) (a _b _c : Nat) : Nat × Flags :=
  let (v, fv) := fmt.input env.ftz a
  let (r, fr) : Nat × Flags :=
    match v with
    | .nan s => fmt.nanOf s
    | .inf s => (fmt.infCode s, {})
    | .fin s m e =>
      if 0 ≤ e then (fmt.roundFin .rne s m e false).1 |> (·, {})
      else
        let (r, nx) := roundInt env.mode s m e
        ((fmt.roundFin .rne s r 0 false).1, { nx := nx })
  (r, fv.or fr)

/-- The class bit of a flushed pattern (19 Table 19.3). -/
def Fmt.classBit (f : Fmt) (x : Nat) : Nat :=
  match f.decode x with
  | .nan s => if s then 8 else 9
  | .inf n => if n then 0 else 7
  | .fin n m _ =>
    if m = 0 then (if n then 3 else 4)
    else if m < 2 ^ f.man then (if n then 2 else 5)
    else (if n then 1 else 6)

/-- FCLASS on one element (19 R357). -/
def fclassElem (fmt : Fmt) (env : FEnv) (a _b _c : Nat) : Nat × Flags :=
  let (x, fx) := fmt.flushed env.ftz a
  (2 ^ fmt.classBit x, fx)

/-- FADD, f32: round(a + b) (19 R355; 07 R144). -/
def execFaddF32 (c w : BitVec 2) (d a b : BitVec 6) (s : State) : Host.Outcome State Fault Refusal :=
  .next (floatArith (.faddF32 c w d a b) c (wdWidth w) d a b .f32 3 true false true (faddElem .f32) s)

/-- FSUB, f32: round(a − b) (19 R355; 07 R144). -/
def execFsubF32 (c w : BitVec 2) (d a b : BitVec 6) (s : State) : Host.Outcome State Fault Refusal :=
  .next (floatArith (.fsubF32 c w d a b) c (wdWidth w) d a b .f32 3 true false true (fsubElem .f32) s)

/-- FMUL, f32: round(a × b) (19 R355; 07 R144). -/
def execFmulF32 (c w : BitVec 2) (d a b : BitVec 6) (s : State) : Host.Outcome State Fault Refusal :=
  .next (floatArith (.fmulF32 c w d a b) c (wdWidth w) d a b .f32 3 true false true (fmulElem .f32) s)

/-- FFMA, f32: round(a × b + c), one rounding (19 R355; 07 R144). -/
def execFfmaF32 (c w : BitVec 2) (d a b : BitVec 6) (s : State) : Host.Outcome State Fault Refusal :=
  .next (floatArith (.ffmaF32 c w d a b) c (wdWidth w) d a b .f32 3 true true true (ffmaElem .f32) s)

/-- FMIN, f32: the smaller (19 R356). -/
def execFminF32 (c w : BitVec 2) (d a b : BitVec 6) (s : State) : Host.Outcome State Fault Refusal :=
  .next (floatArith (.fminF32 c w d a b) c (wdWidth w) d a b .f32 3 true false false (fminmaxElem false .f32) s)

/-- FMAX, f32: the larger (19 R356). -/
def execFmaxF32 (c w : BitVec 2) (d a b : BitVec 6) (s : State) : Host.Outcome State Fault Refusal :=
  .next (floatArith (.fmaxF32 c w d a b) c (wdWidth w) d a b .f32 3 true false false (fminmaxElem true .f32) s)

/-- FABS, f32: sign cleared (19 R356). -/
def execFabsF32 (c w : BitVec 2) (d a : BitVec 6) (s : State) : Host.Outcome State Fault Refusal :=
  .next (floatArith (.fabsF32 c w d a) c (wdWidth w) d a 0#6 .f32 3 false false false (fsignElem false .f32) s)

/-- FNEG, f32: sign inverted (19 R356). -/
def execFnegF32 (c w : BitVec 2) (d a : BitVec 6) (s : State) : Host.Outcome State Fault Refusal :=
  .next (floatArith (.fnegF32 c w d a) c (wdWidth w) d a 0#6 .f32 3 false false false (fsignElem true .f32) s)

/-- FSCALE, f32: round(a × 2^n) (19 R357). -/
def execFscaleF32 (c w : BitVec 2) (d a b : BitVec 6) (s : State) : Host.Outcome State Fault Refusal :=
  .next (floatArith (.fscaleF32 c w d a b) c (wdWidth w) d a b .f32 3 true false true (fscaleElem .f32) s)

/-- FDIV, f32: round(a ÷ b) (19 R355; 07 R144). -/
def execFdivF32 (c w : BitVec 2) (d a b : BitVec 6) (s : State) : Host.Outcome State Fault Refusal :=
  .next (floatArith (.fdivF32 c w d a b) c (wdWidth w) d a b .f32 6 true false true (fdivElem .f32) s)

/-- FCLASS, f32: class mask (19 R357). -/
def execFclassF32 (c w : BitVec 2) (d a : BitVec 6) (s : State) : Host.Outcome State Fault Refusal :=
  .next (floatArith (.fclassF32 c w d a) c (wdWidth w) d a 0#6 .f32 3 false false false (fclassElem .f32) s)

/-- FRND, f32: a rounded to an integral value (19 R357). -/
def execFrndF32 (c w : BitVec 2) (d a : BitVec 6) (s : State) : Host.Outcome State Fault Refusal :=
  .next (floatArith (.frndF32 c w d a) c (wdWidth w) d a 0#6 .f32 3 false false true (frndElem .f32) s)

/-- FADD, f64: round(a + b) (19 R355; 07 R144). -/
def execFaddF64 (c : BitVec 2) (d a b : BitVec 6) (s : State) : Host.Outcome State Fault Refusal :=
  .next (floatArith (.faddF64 c d a b) c 2 d a b .f64 6 true false true (faddElem .f64) s)

/-- FSUB, f64: round(a − b) (19 R355; 07 R144). -/
def execFsubF64 (c : BitVec 2) (d a b : BitVec 6) (s : State) : Host.Outcome State Fault Refusal :=
  .next (floatArith (.fsubF64 c d a b) c 2 d a b .f64 6 true false true (fsubElem .f64) s)

/-- FMUL, f64: round(a × b) (19 R355; 07 R144). -/
def execFmulF64 (c : BitVec 2) (d a b : BitVec 6) (s : State) : Host.Outcome State Fault Refusal :=
  .next (floatArith (.fmulF64 c d a b) c 2 d a b .f64 6 true false true (fmulElem .f64) s)

/-- FFMA, f64: round(a × b + c), one rounding (19 R355; 07 R144). -/
def execFfmaF64 (c : BitVec 2) (d a b : BitVec 6) (s : State) : Host.Outcome State Fault Refusal :=
  .next (floatArith (.ffmaF64 c d a b) c 2 d a b .f64 6 true true true (ffmaElem .f64) s)

/-- FMIN, f64: the smaller (19 R356). -/
def execFminF64 (c : BitVec 2) (d a b : BitVec 6) (s : State) : Host.Outcome State Fault Refusal :=
  .next (floatArith (.fminF64 c d a b) c 2 d a b .f64 6 true false false (fminmaxElem false .f64) s)

/-- FMAX, f64: the larger (19 R356). -/
def execFmaxF64 (c : BitVec 2) (d a b : BitVec 6) (s : State) : Host.Outcome State Fault Refusal :=
  .next (floatArith (.fmaxF64 c d a b) c 2 d a b .f64 6 true false false (fminmaxElem true .f64) s)

/-- FABS, f64: sign cleared (19 R356). -/
def execFabsF64 (c : BitVec 2) (d a : BitVec 6) (s : State) : Host.Outcome State Fault Refusal :=
  .next (floatArith (.fabsF64 c d a) c 2 d a 0#6 .f64 6 false false false (fsignElem false .f64) s)

/-- FNEG, f64: sign inverted (19 R356). -/
def execFnegF64 (c : BitVec 2) (d a : BitVec 6) (s : State) : Host.Outcome State Fault Refusal :=
  .next (floatArith (.fnegF64 c d a) c 2 d a 0#6 .f64 6 false false false (fsignElem true .f64) s)

/-- FSCALE, f64: round(a × 2^n) (19 R357). -/
def execFscaleF64 (c : BitVec 2) (d a b : BitVec 6) (s : State) : Host.Outcome State Fault Refusal :=
  .next (floatArith (.fscaleF64 c d a b) c 2 d a b .f64 6 true false true (fscaleElem .f64) s)

/-- FDIV, f64: round(a ÷ b) (19 R355; 07 R144). -/
def execFdivF64 (c : BitVec 2) (d a b : BitVec 6) (s : State) : Host.Outcome State Fault Refusal :=
  .next (floatArith (.fdivF64 c d a b) c 2 d a b .f64 6 true false true (fdivElem .f64) s)

/-- FCLASS, f64: class mask (19 R357). -/
def execFclassF64 (c : BitVec 2) (d a : BitVec 6) (s : State) : Host.Outcome State Fault Refusal :=
  .next (floatArith (.fclassF64 c d a) c 2 d a 0#6 .f64 6 false false false (fclassElem .f64) s)

/-- FRND, f64: a rounded to an integral value (19 R357). -/
def execFrndF64 (c : BitVec 2) (d a : BitVec 6) (s : State) : Host.Outcome State Fault Refusal :=
  .next (floatArith (.frndF64 c d a) c 2 d a 0#6 .f64 6 false false true (frndElem .f64) s)

/-- FADD, f16x2: round(a + b) (19 R355; 07 R144). -/
def execFaddF16x2 (c w : BitVec 2) (d a b : BitVec 6) (s : State) : Host.Outcome State Fault Refusal :=
  .next (floatArith (.faddF16x2 c w d a b) c (wdWidth w) d a b .f16 3 true false true (faddElem .f16) s)

/-- FSUB, f16x2: round(a − b) (19 R355; 07 R144). -/
def execFsubF16x2 (c w : BitVec 2) (d a b : BitVec 6) (s : State) : Host.Outcome State Fault Refusal :=
  .next (floatArith (.fsubF16x2 c w d a b) c (wdWidth w) d a b .f16 3 true false true (fsubElem .f16) s)

/-- FMUL, f16x2: round(a × b) (19 R355; 07 R144). -/
def execFmulF16x2 (c w : BitVec 2) (d a b : BitVec 6) (s : State) : Host.Outcome State Fault Refusal :=
  .next (floatArith (.fmulF16x2 c w d a b) c (wdWidth w) d a b .f16 3 true false true (fmulElem .f16) s)

/-- FFMA, f16x2: round(a × b + c), one rounding (19 R355; 07 R144). -/
def execFfmaF16x2 (c w : BitVec 2) (d a b : BitVec 6) (s : State) : Host.Outcome State Fault Refusal :=
  .next (floatArith (.ffmaF16x2 c w d a b) c (wdWidth w) d a b .f16 3 true true true (ffmaElem .f16) s)

/-- FMIN, f16x2: the smaller (19 R356). -/
def execFminF16x2 (c w : BitVec 2) (d a b : BitVec 6) (s : State) : Host.Outcome State Fault Refusal :=
  .next (floatArith (.fminF16x2 c w d a b) c (wdWidth w) d a b .f16 3 true false false (fminmaxElem false .f16) s)

/-- FMAX, f16x2: the larger (19 R356). -/
def execFmaxF16x2 (c w : BitVec 2) (d a b : BitVec 6) (s : State) : Host.Outcome State Fault Refusal :=
  .next (floatArith (.fmaxF16x2 c w d a b) c (wdWidth w) d a b .f16 3 true false false (fminmaxElem true .f16) s)

/-- FABS, f16x2: sign cleared (19 R356). -/
def execFabsF16x2 (c w : BitVec 2) (d a : BitVec 6) (s : State) : Host.Outcome State Fault Refusal :=
  .next (floatArith (.fabsF16x2 c w d a) c (wdWidth w) d a 0#6 .f16 3 false false false (fsignElem false .f16) s)

/-- FNEG, f16x2: sign inverted (19 R356). -/
def execFnegF16x2 (c w : BitVec 2) (d a : BitVec 6) (s : State) : Host.Outcome State Fault Refusal :=
  .next (floatArith (.fnegF16x2 c w d a) c (wdWidth w) d a 0#6 .f16 3 false false false (fsignElem true .f16) s)

/-- FADD, bf16x2: round(a + b) (19 R355; 07 R144). -/
def execFaddBf16x2 (c w : BitVec 2) (d a b : BitVec 6) (s : State) : Host.Outcome State Fault Refusal :=
  .next (floatArith (.faddBf16x2 c w d a b) c (wdWidth w) d a b .bf16 3 true false true (faddElem .bf16) s)

/-- FSUB, bf16x2: round(a − b) (19 R355; 07 R144). -/
def execFsubBf16x2 (c w : BitVec 2) (d a b : BitVec 6) (s : State) : Host.Outcome State Fault Refusal :=
  .next (floatArith (.fsubBf16x2 c w d a b) c (wdWidth w) d a b .bf16 3 true false true (fsubElem .bf16) s)

/-- FMUL, bf16x2: round(a × b) (19 R355; 07 R144). -/
def execFmulBf16x2 (c w : BitVec 2) (d a b : BitVec 6) (s : State) : Host.Outcome State Fault Refusal :=
  .next (floatArith (.fmulBf16x2 c w d a b) c (wdWidth w) d a b .bf16 3 true false true (fmulElem .bf16) s)

/-- FFMA, bf16x2: round(a × b + c), one rounding (19 R355; 07 R144). -/
def execFfmaBf16x2 (c w : BitVec 2) (d a b : BitVec 6) (s : State) : Host.Outcome State Fault Refusal :=
  .next (floatArith (.ffmaBf16x2 c w d a b) c (wdWidth w) d a b .bf16 3 true true true (ffmaElem .bf16) s)

/-- FMIN, bf16x2: the smaller (19 R356). -/
def execFminBf16x2 (c w : BitVec 2) (d a b : BitVec 6) (s : State) : Host.Outcome State Fault Refusal :=
  .next (floatArith (.fminBf16x2 c w d a b) c (wdWidth w) d a b .bf16 3 true false false (fminmaxElem false .bf16) s)

/-- FMAX, bf16x2: the larger (19 R356). -/
def execFmaxBf16x2 (c w : BitVec 2) (d a b : BitVec 6) (s : State) : Host.Outcome State Fault Refusal :=
  .next (floatArith (.fmaxBf16x2 c w d a b) c (wdWidth w) d a b .bf16 3 true false false (fminmaxElem true .bf16) s)

/-- FABS, bf16x2: sign cleared (19 R356). -/
def execFabsBf16x2 (c w : BitVec 2) (d a : BitVec 6) (s : State) : Host.Outcome State Fault Refusal :=
  .next (floatArith (.fabsBf16x2 c w d a) c (wdWidth w) d a 0#6 .bf16 3 false false false (fsignElem false .bf16) s)

/-- FNEG, bf16x2: sign inverted (19 R356). -/
def execFnegBf16x2 (c w : BitVec 2) (d a : BitVec 6) (s : State) : Host.Outcome State Fault Refusal :=
  .next (floatArith (.fnegBf16x2 c w d a) c (wdWidth w) d a 0#6 .bf16 3 false false false (fsignElem true .bf16) s)

end Sys2Proof.Machine
end

