-- ==== Sys2Proof/Machine/Scalar.lean ====
section
/-! DEFINITION. The scalar groups, majors 0x14 to 0x17 without MFS and MTS (21 R398 to R404, R412). -/

namespace Sys2Proof.Machine

open Sys2Proof

/-- A scalar instruction: the sources are the lead's, and the result goes to the same register of every member (21 R398,
R399). -/
def scalarOp (i : Instr) (c : BitVec 2) (d : BitVec 6) (srcs : List (BitVec 6)) (dist : Nat) (imm : Bool)
    (f : Ix → (Nat → DWord) → DWord) (s : State) : State :=
  issue i { sc := c.toNat, dist := dist, srcs := srcs.map fun n => .s n.toNat, dsts := [.s d.toNat], imm := imm } noExtra noUniform
    (fun x s => .done (x.ws s d.toNat (f x (x.rs s)))) s

/-- A scalar instruction of two sources. -/
def scalar2 (i : Instr) (c : BitVec 2) (d a b : BitVec 6) (dist : Nat) (f : DWord → DWord → DWord) (s : State) : State :=
  scalarOp i c d [a, b] dist false (fun _ rs => f (rs a.toNat) (rs b.toNat)) s

/-- A scalar immediate instruction: the immediate is sign-extended to 64 bits (21 R400, R401). -/
def scalarImm (i : Instr) (c : BitVec 2) (d : BitVec 6) (imm : BitVec 12) (dist : Nat) (readD : Bool)
    (f : DWord → DWord → DWord) (s : State) : State :=
  scalarOp i c d (if readD then [d] else []) dist true
    (fun x rs => f (rs d.toNat) (BitVec.ofInt 64 (immExt x.hints imm.toNat 12))) s

/-- Number of the lowest bit set, 64 for zero (21 Table 21.1). -/
def findFirst (a : DWord) : DWord := BitVec.ofNat 64 ((lowestLane a).getD 64)

/-- SADD: a + b (21 R398, R399). -/
def execSadd (c : BitVec 2) (d a b : BitVec 6) (s : State) : Host.Outcome State Fault Refusal :=
  .next (scalar2 (.sadd c d a b) c d a b 2 (fun a b => a + b) s)

/-- SSUB: a − b (21 R398, R399). -/
def execSsub (c : BitVec 2) (d a b : BitVec 6) (s : State) : Host.Outcome State Fault Refusal :=
  .next (scalar2 (.ssub c d a b) c d a b 2 (fun a b => a - b) s)

/-- SMUL: a × b (21 R398, R399). -/
def execSmul (c : BitVec 2) (d a b : BitVec 6) (s : State) : Host.Outcome State Fault Refusal :=
  .next (scalar2 (.smul c d a b) c d a b 3 (fun a b => a * b) s)

/-- SAND: a and b (21 R398, R399). -/
def execSand (c : BitVec 2) (d a b : BitVec 6) (s : State) : Host.Outcome State Fault Refusal :=
  .next (scalar2 (.sand c d a b) c d a b 2 (fun a b => a &&& b) s)

/-- SOR: a or b (21 R398, R399). -/
def execSor (c : BitVec 2) (d a b : BitVec 6) (s : State) : Host.Outcome State Fault Refusal :=
  .next (scalar2 (.sor c d a b) c d a b 2 (fun a b => a ||| b) s)

/-- SXOR: a xor b (21 R398, R399). -/
def execSxor (c : BitVec 2) (d a b : BitVec 6) (s : State) : Host.Outcome State Fault Refusal :=
  .next (scalar2 (.sxor c d a b) c d a b 2 (fun a b => a ^^^ b) s)

/-- SANDN: a and not b (21 R398, R399). -/
def execSandn (c : BitVec 2) (d a b : BitVec 6) (s : State) : Host.Outcome State Fault Refusal :=
  .next (scalar2 (.sandn c d a b) c d a b 2 (fun a b => a &&& ~~~b) s)

/-- SSHL: a << b[5:0] (21 R398, R399). -/
def execSshl (c : BitVec 2) (d a b : BitVec 6) (s : State) : Host.Outcome State Fault Refusal :=
  .next (scalar2 (.sshl c d a b) c d a b 2 (fun a b => a <<< bits b 0 6) s)

/-- SSHRN: a >> b[5:0], zeros in (21 R398, R399). -/
def execSshrN (c : BitVec 2) (d a b : BitVec 6) (s : State) : Host.Outcome State Fault Refusal :=
  .next (scalar2 (.sshrN c d a b) c d a b 2 (fun a b => a >>> bits b 0 6) s)

/-- SSHRI: a >> b[5:0], copies of the sign in (21 R398, R399). -/
def execSshrI (c : BitVec 2) (d a b : BitVec 6) (s : State) : Host.Outcome State Fault Refusal :=
  .next (scalar2 (.sshrI c d a b) c d a b 2 (fun a b => a.sshiftRight (bits b 0 6)) s)

/-- SMINI: the smaller, signed (21 R398, R399). -/
def execSminI (c : BitVec 2) (d a b : BitVec 6) (s : State) : Host.Outcome State Fault Refusal :=
  .next (scalar2 (.sminI c d a b) c d a b 2 (fun a b => if a.toInt ≤ b.toInt then a else b) s)

/-- SMINN: the smaller, unsigned (21 R398, R399). -/
def execSminN (c : BitVec 2) (d a b : BitVec 6) (s : State) : Host.Outcome State Fault Refusal :=
  .next (scalar2 (.sminN c d a b) c d a b 2 (fun a b => if a.toNat ≤ b.toNat then a else b) s)

/-- SMAXI: the larger, signed (21 R398, R399). -/
def execSmaxI (c : BitVec 2) (d a b : BitVec 6) (s : State) : Host.Outcome State Fault Refusal :=
  .next (scalar2 (.smaxI c d a b) c d a b 2 (fun a b => if a.toInt ≤ b.toInt then b else a) s)

/-- SMAXN: the larger, unsigned (21 R398, R399). -/
def execSmaxN (c : BitVec 2) (d a b : BitVec 6) (s : State) : Host.Outcome State Fault Refusal :=
  .next (scalar2 (.smaxN c d a b) c d a b 2 (fun a b => if a.toNat ≤ b.toNat then b else a) s)

/-- SPOPC: number of bits set (21 R398, R399). -/
def execSpopc (c : BitVec 2) (d a : BitVec 6) (s : State) : Host.Outcome State Fault Refusal :=
  .next (scalarOp (.spopc c d a) c d [a] 2 false (fun _ rs => BitVec.ofNat 64 (popCount (rs a.toNat))) s)

/-- SFFS: number of the lowest bit set, 64 for zero (21 R398, R399). -/
def execSffs (c : BitVec 2) (d a : BitVec 6) (s : State) : Host.Outcome State Fault Refusal :=
  .next (scalarOp (.sffs c d a) c d [a] 2 false (fun _ rs => findFirst (rs a.toNat)) s)

/-- SADDI: d + i (21 R400, R401). -/
def execSaddi (c : BitVec 2) (d : BitVec 6) (i : BitVec 12) (s : State) : Host.Outcome State Fault Refusal :=
  .next (scalarImm (.saddi c d i) c d i 2 true (fun d i => d + i) s)

/-- SANDI: d and i (21 R400, R401). -/
def execSandi (c : BitVec 2) (d : BitVec 6) (i : BitVec 12) (s : State) : Host.Outcome State Fault Refusal :=
  .next (scalarImm (.sandi c d i) c d i 2 true (fun d i => d &&& i) s)

/-- SORI: d or i (21 R400, R401). -/
def execSori (c : BitVec 2) (d : BitVec 6) (i : BitVec 12) (s : State) : Host.Outcome State Fault Refusal :=
  .next (scalarImm (.sori c d i) c d i 2 true (fun d i => d ||| i) s)

/-- SXORI: d xor i (21 R400, R401). -/
def execSxori (c : BitVec 2) (d : BitVec 6) (i : BitVec 12) (s : State) : Host.Outcome State Fault Refusal :=
  .next (scalarImm (.sxori c d i) c d i 2 true (fun d i => d ^^^ i) s)

/-- SSHLI: d << i[5:0] (21 R400, R401). -/
def execSshli (c : BitVec 2) (d : BitVec 6) (i : BitVec 12) (s : State) : Host.Outcome State Fault Refusal :=
  .next (scalarImm (.sshli c d i) c d i 2 true (fun d i => d <<< bits i 0 6) s)

/-- SSHRIN: d >> i[5:0], zeros in (21 R400, R401). -/
def execSshriN (c : BitVec 2) (d : BitVec 6) (i : BitVec 12) (s : State) : Host.Outcome State Fault Refusal :=
  .next (scalarImm (.sshriN c d i) c d i 2 true (fun d i => d >>> bits i 0 6) s)

/-- SSHRII: d >> i[5:0], copies of the sign in (21 R400, R401). -/
def execSshriI (c : BitVec 2) (d : BitVec 6) (i : BitVec 12) (s : State) : Host.Outcome State Fault Refusal :=
  .next (scalarImm (.sshriI c d i) c d i 2 true (fun d i => d.sshiftRight (bits i 0 6)) s)

/-- SMOVI: i (21 R400, R401). -/
def execSmovi (c : BitVec 2) (d : BitVec 6) (i : BitVec 12) (s : State) : Host.Outcome State Fault Refusal :=
  .next (scalarImm (.smovi c d i) c d i 2 false (fun _ i => i) s)

/-- SMULI: d × i (21 R400, R401). -/
def execSmuli (c : BitVec 2) (d : BitVec 6) (i : BitVec 12) (s : State) : Host.Outcome State Fault Refusal :=
  .next (scalarImm (.smuli c d i) c d i 3 true (fun d i => d * i) s)

/-- The condition of an integer compare (17 Table 17.4). -/
def intCond {n : Nat} (cc : Nat) (a b : BitVec n) : Bool :=
  match cc with
  | 0 => a == b
  | 1 => a != b
  | 2 => decide (a.toInt < b.toInt)
  | 3 => decide (a.toInt ≤ b.toInt)
  | 4 => decide (b.toInt < a.toInt)
  | 5 => decide (b.toInt ≤ a.toInt)
  | 6 => decide (a.toNat < b.toNat)
  | 7 => decide (a.toNat ≤ b.toNat)
  | 8 => decide (b.toNat < a.toNat)
  | 9 => decide (b.toNat ≤ a.toNat)
  | 10 => a &&& b != 0#n
  | _ => a &&& b == 0#n

/-- SCMP: 1 if the condition holds, else 0 (21 R404). -/
def execScmp (c : BitVec 2) (k : BitVec 4) (d a b : BitVec 6) (s : State) : Host.Outcome State Fault Refusal :=
  .next (scalar2 (.scmp c k d a b) c d a b 2 (fun a b => BitVec.ofNat 64 (b2n (intCond k.toNat a b))) s)

/-- SMOV (21 R412). -/
def execSmov (c : BitVec 2) (d a : BitVec 6) (s : State) : Host.Outcome State Fault Refusal :=
  .next (scalarOp (.smov c d a) c d [a] 2 false (fun _ rs => rs a.toNat) s)

/-- SSEL: a if b is not zero, else the old D (21 R412). -/
def execSsel (c : BitVec 2) (d a b : BitVec 6) (s : State) : Host.Outcome State Fault Refusal :=
  .next (scalarOp (.ssel c d a b) c d [a, b, d] 2 false
    (fun _ rs => if rs b.toNat != 0#64 then rs a.toNat else rs d.toNat) s)

end Sys2Proof.Machine
end

