-- ==== Sys2Proof/Machine/Convert.lean ====
section
/-! DEFINITION. Compares and conversions, majors 0x0A to 0x0D (19 R359, R360; 07 R146 to R148). -/

namespace Sys2Proof.Machine

open Sys2Proof

/-- A vector compare: bit l of S is the condition in active lane l; under set or block scope each member gets its own lanes
(17 R307, 19 R360). -/
def compareMask (x : Ix) (s : State) (n : Nat) (f : Warp → Nat → Bool) : State :=
  x.each s fun _ w => w.setS n (lanesMask ((maskLanes (x.em w)).filter (f w)))

/-- ICMP: WD 00 compares 32-bit values, WD 01 pairs (19 R359, R360). -/
def execIcmp (c w : BitVec 2) (k : BitVec 4) (d a b : BitVec 6) (s : State) : Host.Outcome State Fault Refusal :=
  let n := wdWidth w
  let va := vop a n
  let vb := vop b n
  .next (issue (.icmp c w k d a b) { sc := c.toNat, dist := 2, vin := [va, vb], dsts := [.s d.toNat] } noExtra noUniform
    (withOperands [va, vb] fun x s => .done (compareMask x s d.toNat fun q l =>
      if n = 1 then intCond k.toNat (BitVec.ofNat 32 (readOp q va l)) (BitVec.ofNat 32 (readOp q vb l))
      else intCond k.toNat (BitVec.ofNat 64 (readOp q va l)) (BitVec.ofNat 64 (readOp q vb l)))) s)

/-- Numeric order of the patterns that are not NaN: −0 equals +0 (19 R360). -/
def Fmt.order (f : Fmt) (x : Nat) : Int :=
  let code := x % 2 ^ (f.exp + f.man)
  if x / 2 ^ (f.exp + f.man) % 2 = 1 then -(code : Int) else (code : Int)

/-- The condition of a floating-point compare (17 Table 17.4). -/
def floatCond (cc : Nat) (unord lt eq : Bool) : Bool :=
  match cc with
  | 0 => !unord && eq
  | 1 => unord || !eq
  | 2 => !unord && lt
  | 3 => !unord && (lt || eq)
  | 4 => !unord && !lt && !eq
  | 5 => !unord && !lt
  | 6 => !unord
  | 7 => unord
  | 8 => unord || eq
  | 9 => !unord && !eq
  | 10 => unord || lt
  | 11 => unord || lt || eq
  | 12 => unord || (!lt && !eq)
  | _ => unord || !lt

/-- The conditions that signal on a quiet NaN (19 Table 19.6). -/
def floatCondSignals (cc : Nat) : Bool := (2 ≤ cc && cc ≤ 5) || 10 ≤ cc

/-- A compare of two patterns, with its flags (19 R360). -/
def floatCompare (fmt : Fmt) (ftz : Bool) (cc a b : Nat) : Bool × Flags :=
  let (x, fx) := fmt.flushed ftz a
  let (y, fy) := fmt.flushed ftz b
  let unord := fmt.isNan x || fmt.isNan y
  let nv := fmt.isSnan x || fmt.isSnan y || (unord && floatCondSignals cc)
  (floatCond cc unord (decide (fmt.order x < fmt.order y)) (fmt.order x == fmt.order y), (fx.or fy).or { nv := nv })

/-- FCMP on a format: the mask is written, then the flags accrue and may trap (19 R359, R360). -/
def floatCmp (i : Instr) (c : BitVec 2) (k : BitVec 4) (d a b : BitVec 6) (fmt : Fmt) (n : Nat) (s : State) : State :=
  let va := vop a n
  let vb := vop b n
  issue i { sc := c.toNat, dist := 2, vin := [va, vb], dsts := [.s d.toNat], arith := some { cmp := true, sr := false } }
    noExtra noUniform
    (withOperands [va, vb] fun x s =>
      let e := x.fset s
      let g (q : Warp) (l : Nat) := floatCompare fmt e.ftz k.toNat (readOp q va l) (readOp q vb l)
      let fl := x.laneFlags s fun q l => (g q l).2
      accrue x fl (compareMask x s d.toNat fun q l => (g q l).1)) s

/-- FCMP.f32 (19 R359, R360). -/
def execFcmpF32 (c : BitVec 2) (k : BitVec 4) (d a b : BitVec 6) (s : State) : Host.Outcome State Fault Refusal :=
  .next (floatCmp (.fcmpF32 c k d a b) c k d a b .f32 1 s)

/-- FCMP.f64 (19 R359, R360). -/
def execFcmpF64 (c : BitVec 2) (k : BitVec 4) (d a b : BitVec 6) (s : State) : Host.Outcome State Fault Refusal :=
  .next (floatCmp (.fcmpF64 c k d a b) c k d a b .f64 2 s)

/-! ### FCVT -/

/-- A type of FCVT (07 Table 7.6). -/
inductive CvtType where
  /-- a floating-point format -/
  | float (f : Fmt)
  /-- i32 or n32 -/
  | int (signed : Bool)
deriving DecidableEq, Repr

/-- The type of a code in a bank (07 Table 7.6). -/
def cvtType (nv code : Nat) : CvtType :=
  match code with
  | 0 => .float .f32
  | 1 => .float .f64
  | 2 => .float .f16
  | 3 => .float .bf16
  | 4 => .int true
  | 5 => .int false
  | 6 => .float (if nv = 0 then .e4m3 else if nv = 1 then .e3m2 else .e2m1)
  | _ => .float (if nv = 0 then .e5m2 else .e2m3)

/-- Registers of a type. -/
def cvtWidth (code : BitVec 3) : Nat := if code = 1#3 then 2 else 1

/-- Range of an integer destination. -/
def intRange (signed : Bool) : Int × Int := if signed then (-(2 ^ 31), 2 ^ 31 - 1) else (0, 2 ^ 32 - 1)

/-- Result of an integer conversion that falls outside the range, without saturation (07 Table 7.7). -/
def intOverflow (signed : Bool) : Nat := if signed then 0x80000000 else 0

/-- Converts a value to an integer type (07 R147, Table 7.7). -/
def toIntType (signed : Bool) (env : FEnv) (v : FVal) : Nat × Flags :=
  let (lo, hi) := intRange signed
  let code (x : Int) : Nat := (BitVec.ofInt 32 x).toNat
  match v with
  | .nan _ => (0, Flags.invalid)
  | .inf n => if env.sat then (code (if n then lo else hi), { sat := true }) else (intOverflow signed, Flags.invalid)
  | .fin n m e =>
    let (r, nx) := roundInt env.mode n m e
    let x : Int := if n then -(r : Int) else (r : Int)
    if lo ≤ x ∧ x ≤ hi then (code x, { nx := nx })
    else if env.sat then (code (clamp lo hi x), { sat := true })
    else (intOverflow signed, Flags.invalid)

/-- FCVT in one lane: the source pattern to the destination pattern (07 R147, R148). -/
def convert (src dst : CvtType) (env : FEnv) (x : Nat) : Nat × Flags :=
  match src, dst with
  | .int p, .int q =>
    let v : Int := if p then sextInt 32 x else ((x % 2 ^ 32 : Nat) : Int)
    let (lo, hi) := intRange q
    if env.sat && (decide (v < lo) || decide (hi < v)) then ((BitVec.ofInt 32 (clamp lo hi v)).toNat, { sat := true })
    else (x % 2 ^ 32, {})
  | .int p, .float f =>
    let v : Int := if p then sextInt 32 x else ((x % 2 ^ 32 : Nat) : Int)
    f.convV env (.fin (decide (v < 0)) v.natAbs 0)
  | .float g, .int q =>
    let (v, fv) := g.input env.ftz (x % 2 ^ g.width)
    let (r, fr) := toIntType q env v
    (r, fv.or fr)
  | .float g, .float f =>
    let (v, fv) := g.input env.ftz (x % 2 ^ g.width)
    let (r, fr) := f.convV env v
    (r, fv.or fr)

/-- FCVT: its mode, saturation and stochastic bit are its own fields, its flush setting the lead's fpm (07 R146 to
R148). -/
def execFcvt (c n m : BitVec 2) (g e : BitVec 1) (d a : BitVec 6) (x y : BitVec 3) (s : State) :
    Host.Outcome State Fault Refusal :=
  let vd := vop d (cvtWidth y)
  let va := vop a (cvtWidth x)
  let src := cvtType n.toNat x.toNat
  let dst := cvtType n.toNat y.toNat
  .next (issue (.fcvt c n m g e d a x y) { sc := c.toNat, dist := 3, vin := [va], vout := [vd] } noExtra noUniform
    (withOperands [va, vd] fun x s =>
      let fs : FSet := { mode := m.toNat, ftz := bit (x.fpm s) 2, sat := g == 1#1, sr := e == 1#1 }
      let h (w : Warp) (l : Nat) := convert src dst (fs.env (srDraw w l 0)) (readOp w va l)
      let fl := x.laneFlags s fun w l => (h w l).2
      let t := x.putLanes s vd fun _ w l => (h w l).1
      let t := if fs.sr then x.each t fun _ w => w.advanceSeed (x.em w) 1 else t
      accrue x fl t) s)

end Sys2Proof.Machine
end

