-- ==== Sys2Proof/Machine/Leave.lean ====
section
/-! DEFINITION. The leave controllers of the dies (04 R94). -/

namespace Sys2Proof.Machine

open Sys2Proof

/-- The request of a warp at an instruction. -/
def LeaveReq.mine (q : LeaveReq) (core slot warp : Nat) (pc : BitVec 64) : Bool :=
  q.core == core && q.slot == slot && q.warp == warp && q.pc == pc

/-- Priority of a block's launch. -/
def launchPrio (s : State) (core slot : Nat) : Nat :=
  match (s.block? core slot).bind fun b => s.grids.get? b.grid with
  | some g => g.prio
  | none => 0

/-- Asks the controller of a core's die for units, once. -/
def askLeave (s : State) (core slot warp : Nat) (pc : BitVec 64) (cost : Nat) : State :=
  s.modDie (coreDie core) fun d =>
    if d.reqs.any (fun q => q.mine core slot warp pc) then d
    else { d with reqs := d.reqs ++ [{ core := core, slot := slot, warp := warp, pc := pc, cost := cost,
                                       prio := launchPrio s core slot, aged := 0, since := s.kalends.toNat, granted := false }] }

/-- The warp's request at an instruction has been granted. -/
def leaveGranted (s : State) (core slot warp : Nat) (pc : BitVec 64) : Bool :=
  (s.die (coreDie core)).reqs.any fun q => q.mine core slot warp pc && q.granted

/-- A granted request becomes the units that an operation holds. -/
def takeLeave (s : State) (core slot warp : Nat) (pc : BitVec 64) : State :=
  s.modDie (coreDie core) fun d => { d with reqs := d.reqs.filter fun q => !q.mine core slot warp pc }

/-- Returns units to a core's die. -/
def returnLeave (s : State) (core n : Nat) : State :=
  if n = 0 then s else s.modDie (coreDie core) fun d => { d with inuse := d.inuse - n }

/-- Drops the requests of a warp that is to ask no more, with the units of those granted. -/
def dropLeave (s : State) (core slot warp : Nat) : State :=
  let mine (q : LeaveReq) : Bool := q.core == core && q.slot == slot && q.warp == warp
  let back := (((s.die (coreDie core)).reqs.filter fun q => mine q && q.granted).map (·.cost)).sum
  let s := s.modDie (coreDie core) fun d => { d with reqs := d.reqs.filter fun q => !mine q }
  returnLeave s core back

/-- Effective priority: the launch's plus what waiting has gained, up to 7. -/
def LeaveReq.eff (q : LeaveReq) : Nat := if 7 ≤ q.prio + q.aged then 7 else q.prio + q.aged

/-- The waiting requests in the order of grants: effective priority, then oldest first. -/
def leaveOrder (l : List LeaveReq) : List LeaveReq :=
  (List.range 8).reverse.flatMap fun p => l.filter fun q => !q.granted && q.eff == p

/-- Units that the grants of the last microsecond hold of the ramp. -/
def rampUsed (d : Die) (now : Nat) : Nat := ((d.grants.filter fun g => decide (now < g.1 + 1000)).map (·.2)).sum

/-- A request may be granted now: within the budget, or alone when it exceeds it, and within the ramp. -/
def mayGrant (d : Die) (now : Nat) (q : LeaveReq) : Bool :=
  (decide (d.inuse + q.cost ≤ d.budget) || (decide (d.budget < q.cost) && d.inuse == 0))
    && decide (rampUsed d now + q.cost ≤ d.ramp)

/-- Grants one request. The granted requests stand last, in the order of their grants. -/
def grantLeave (d : Die) (now : Nat) (q : LeaveReq) : Die :=
  { d with
    inuse := d.inuse + q.cost
    grants := (d.grants.filter fun g => decide (now < g.1 + 1000)) ++ [(now, q.cost)]
    reqs := (d.reqs.filter fun r => !r.mine q.core q.slot q.warp q.pc)
      ++ (d.reqs.filter fun r => r.mine q.core q.slot q.warp q.pc).map fun r => { r with granted := true } }

/-- One network cycle of a controller: requests in order, until the first that cannot be granted. -/
def grantCycle (d : Die) (now : Nat) : List LeaveReq → Die
  | [] => d
  | q :: r => if mayGrant d now q then grantCycle (grantLeave d now q) now r else d

/-- Requests of restored operations carry this address and their entry number (14 R272). -/
def regainPc : Nat := 2 ^ 56

/-- Restored operations whose requests have been granted hold their units again (14 R272). -/
def regain (s : State) (die : Nat) : State :=
  (((s.die die).reqs.filter fun q => q.granted && decide (regainPc ≤ q.pc.toNat))).foldl (fun s q =>
    (s.modOp q.core (q.pc.toNat - regainPc) fun o => { o with leave := q.cost, asks := 0 }).modDie die fun d =>
      { d with reqs := d.reqs.filter fun r => !r.mine q.core q.slot q.warp q.pc }) s

/-- LEAVE_GRANT: a network cycle of a die's controller. -/
def execLeaveGrant (die : Nat) (s : State) : Host.Outcome State Fault Refusal :=
  .next (if die < 6 then
      regain (s.modDie die fun d => grantCycle d s.kalends.toNat (leaveOrder d.reqs)) die
    else s)

/-- LEAVE_AGEING: each waiting request gains 1 for every 4 µs of waiting. -/
def execLeaveAgeing (die : Nat) (s : State) : Host.Outcome State Fault Refusal :=
  .next (if die < 6 then s.modDie die fun d =>
      { d with reqs := d.reqs.map fun q =>
          if q.granted then q
          else
            let n := (s.kalends.toNat - q.since) / 4000
            { q with aged := if 7 ≤ q.prio + n then 7 - q.prio else n } }
    else s)

end Sys2Proof.Machine
end

