-- ==== Sys2Proof/Machine/XShuf.lean ====
section
/-! DEFINITION. XSHUF, its pairing and the arrival of its data (13 R257). -/

namespace Sys2Proof.Machine

open Sys2Proof

/-- Gives the window that an instruction has just opened something to wait for (06 R128). -/
def setPend (x : Ix) (la : Nat) (p : Pend) (s : State) : State :=
  s.modSplit x.core x.slot x.lead x.split fun q =>
    { q with wins := q.wins.zipIdx.map fun e =>
        if e.2 + 1 = q.wins.length ∧ e.1.pc = x.pc ∧ e.1.left = la then { e.1 with pend := p } else e.1 }

/-- Every window of a list of splits that waits for `p` has its result. -/
def clearPend (p : Pend) (l : List Split) : List Split :=
  l.map fun q => { q with wins := q.wins.map fun e => if e.pend = p then { e with pend := .done } else e }

/-- A result of a warp has been written: in every split, frozen ones too. -/
def Warp.written (w : Warp) (p : Pend) : Warp :=
  { w with splits := clearPend p w.splits, frozen := w.frozen.map fun f => (clearPend p f.1, f.2) }

/-- Operand word of XSHUF: gang position, warp number, rotation (13 R257). -/
def xsPos (v : DWord) : Nat := bits v 0 6
/-- Partner's warp number. -/
def xsWarp (v : DWord) : Nat := bits v 6 5
/-- Rotation. -/
def xsRot (v : DWord) : Nat := bits v 16 6

/-- The operand faults of XSHUF. -/
def xshufFault (r : BitVec 6) (x : Ix) (s : State) : Option Nat :=
  match x.block? s with
  | none => none
  | some b =>
    let v := x.rs s r.toNat
    if bits v 11 5 != 0 || bits v 22 42 != 0 || decide (b.gsize ≤ xsPos v) || decide (b.warps.length ≤ xsWarp v)
        || (xsPos v == b.gpos && xsWarp v == x.lead) then some 0x147
    else none

/-- XSHUF: captures A, and waits for its partner; D is pending until the data arrives (13 R257). A warp that holds a waiting
XSHUF issues no second one. -/
def execXshuf (l : BitVec 4) (w : BitVec 2) (d a : BitVec 6) (r : BitVec 6) (s : State) : Host.Outcome State Fault Refusal :=
  let n := wdWidth w
  let vd := vop d n
  let va := vop a n
  .next (issue (.xshuf l w d a r) { sc := 1, la := some l.toNat, vin := [va], vout := [vd], srcs := [.s r.toNat] } noExtra
    (xshufFault r)
    (withOperands [va, vd] fun x s =>
      match x.warp? s x.lead with
      | none => .done s
      | some q =>
        if q.xshuf.isSome then .wait .rendezvous id
        else
          let v := x.rs s r.toNat
          let em := x.em q
          let data := (List.range n).map fun k => Vec.of fun l => word32 (readOp q va l) k
          let place := if vd.direct then [] else lanes.map fun l => match resolve q vd l with | .ok m => m | .error _ => 0xFFFF
          let wait : XWait :=
            { split := x.split, pos := xsPos v, pwarp := xsWarp v, rot := xsRot v, width := n, dst := d.toNat, data := data,
              act := em
              place := place, since := s.cycle.toNat, limit := (s.ctx (x.asid s)).timeout, got := none, pc := x.pc, la := l.toNat }
          .done (setPend x l.toNat .xshuf (s.modWarp x.core x.slot x.lead fun q => { q with xshuf := some wait }))) s)

/-- The place of the partner of a waiting XSHUF: the block at its gang position, and the warp (13 R257). -/
def xshufPartner (s : State) (b : Block) (x : XWait) : Option (Nat × Nat × Nat) :=
  (s.blocks.find? fun p => p.2.grid == b.grid && p.2.gang == b.gang && p.2.gpos == x.pos).map fun p =>
    (p.1 / 96, p.1 % 96, x.pwarp)

/-- A waiting XSHUF closes with a trap in its warp: the record names the XSHUF, and the words issued after it under its
lookahead (13 R257; 14 Table 14.2). -/
def xshufTrap (s : State) (c slot m : Nat) (x : XWait) (cause : Nat) : State :=
  match s.warp? c slot m with
  | none => s
  | some w =>
    let k := match findIdx (fun p : Split => p.valid && p.wins.any fun e => e.pend == .xshuf) w.splits with
      | some (k, _) => k | none => x.split
    let left := match (w.splits[k]?).bind fun p => p.wins.find? fun e => e.pend == .xshuf with
      | some e => e.left | none => x.la
    let s := s.modWarp c slot m fun w => { w.written .xshuf with xshuf := none }
    takeTrap s { core := c, slot := slot, warp := m, split := k, pc := x.pc, sc := 1 } { cause := cause, post := x.la - left }

/-- Two waiting XSHUFs name each other with equal widths. -/
def xshufMatch (b : Block) (m : Nat) (x : XWait) (b' : Block) (m' : Nat) (x' : XWait) : Bool :=
  x.pos == b'.gpos && x.pwarp == m' && x'.pos == b.gpos && x'.pwarp == m && x.width == x'.width

/-- A pair completes, or the two warps trap 0x147 (13 R257). -/
def xshufPair (s : State) (c slot m : Nat) : State :=
  match s.block? c slot, (s.warp? c slot m).bind (·.xshuf) with
  | some b, some x =>
    if x.got.isSome then s
    else match xshufPartner s b x with
      | none => s
      | some (c', slot', m') =>
        match s.block? c' slot', (s.warp? c' slot' m').bind (·.xshuf) with
        | some b', some x' =>
          if x'.got.isSome then s
          else if xshufMatch b m x b' m' x' then
            let s := s.modWarp c slot m fun w => { w with xshuf := some { x with got := some (x'.data, x'.act) } }
            s.modWarp c' slot' m' fun w => { w with xshuf := some { x' with got := some (x.data, x.act) } }
          else xshufTrap (xshufTrap s c slot m x 0x147) c' slot' m' x' 0x147
        | _, _ => s
  | _, _ => s

/-- XSHUF_PAIR: the warp's XSHUF meets its partner's (13 R257). -/
def execXshufPair (core slot warp : Nat) (s : State) : Host.Outcome State Fault Refusal := .next (xshufPair s core slot warp)

/-- The value that lane `l` receives: the partner's lane (l + r) mod 64, or 0 where it was not active (13 R257). -/
def xshufValue (x : XWait) (data : List Vec) (act : Mask) (l : Nat) : Nat :=
  let m := (l + x.rot) % 64
  if inMask act m then perReg x.width fun k => (data.getD k (Vec.splat 0)).lane m else 0

/-- XSHUF_DATA_ARRIVAL: the partner's data is written in the lanes that were active at issue (13 R257). -/
def execXshufDataArrival (core slot warp : Nat) (s : State) : Host.Outcome State Fault Refusal :=
  .next (match (s.warp? core slot warp).bind (·.xshuf) with
    | none => s
    | some x => match x.got with
      | none => s
      | some (data, act) => s.modWarp core slot warp fun w =>
          { (w.putAt x.width fun l =>
              if inMask x.act l then some (if x.place.isEmpty then x.dst else x.place.getD l 0, xshufValue x data act l)
              else none).written .xshuf with xshuf := none })

/-- The XSHUF of a warp has waited for the context's rendezvous timeout: 0x180 (13 R257). -/
def xshufTimeout (s : State) (c slot m : Nat) : State :=
  match (s.warp? c slot m).bind (·.xshuf) with
  | some x => if x.got.isNone && decide (x.limit ≤ s.cycle.toNat - x.since) then xshufTrap s c slot m x 0x180 else s
  | none => s

end Sys2Proof.Machine
end

