-- ==== Sys2Proof/Machine/MemAccess.lean ====
section
/-! DEFINITION. The lanes of a memory instruction: their places, their accesses, watchpoints, the operand log, and the
traps that wait for logged lanes (08 R154 to R158; 10 R201; 15 R287; 19 R375, R376; 21 R415 to R417). -/

namespace Sys2Proof.Machine

open Sys2Proof

/-! ### What is accessed -/

/-- A memory instruction, as its lanes see it. -/
structure MemOp where
  /-- load, store or atomic -/
  acc : Acc
  /-- access size in bytes -/
  n : Nat
  /-- registers of D -/
  w : Nat
  /-- address space of Table 8.4 -/
  sp : Nat
  /-- sign-extends -/
  signed : Bool
  /-- atomic operator -/
  aop : Nat
deriving DecidableEq, Repr

/-- Access size of LDS and STS types: n8, i8, n16, i16 (19 Table 19.10; 21 Table 21.5 gives STS 00 and 01). -/
def narrowSize (w : Nat) : Nat := if w < 2 then 1 else 2

/-- Registers of an atomic's D. -/
def atomRegs (u : Nat) : Nat := if 13 ≤ u then 2 else 1

/-- The memory operation of an instruction of formats M and MA. -/
def memOpOf (i : Instr) : Option MemOp :=
  match i with
  | .ld _ _ w p _ _ _ => some { acc := .load, n := 4 * wdWidth w, w := wdWidth w, sp := p.toNat, signed := false, aop := 0 }
  | .st _ w p _ _ _ => some { acc := .store, n := 4 * wdWidth w, w := wdWidth w, sp := p.toNat, signed := false, aop := 0 }
  | .lds _ _ w p _ _ _ =>
    some { acc := .load, n := narrowSize w.toNat, w := 1, sp := p.toNat, signed := w.toNat % 2 == 1, aop := 0 }
  | .sts _ w p _ _ _ => some { acc := .store, n := w.toNat + 1, w := 1, sp := p.toNat, signed := false, aop := 0 }
  | .atom _ _ u _ _ _ =>
    some { acc := .atomic, n := atomicSize u.toNat, w := atomRegs u.toNat, sp := 0, signed := false, aop := u.toNat }
  | .atoml _ _ u _ _ _ =>
    some { acc := .atomic, n := atomicSize u.toNat, w := atomRegs u.toNat, sp := 2, signed := false, aop := u.toNat }
  | _ => none

/-- One lane's access. -/
structure LaneAcc where
  /-- member warp -/
  m : Nat
  /-- lane -/
  l : Nat
  /-- o of R375 -/
  o : Nat
  /-- D's value -/
  data : Nat
  /-- helper lane -/
  helper : Bool
  /-- first destination register -/
  reg : Nat
deriving DecidableEq, Repr

/-- Where a lane's access lands: a place, a fault that is logged and replayed, or a fault that traps (10 R201; 19 R376). -/
inductive Place where
  | at_ (p : Phys)
  | logged (cause : Nat)
  | bad (cause : Nat)
deriving DecidableEq, Repr

/-- The block at a gang position of a block's gang (08 Table 8.4). -/
def gangBlock (s : State) (b : Block) (pos : Nat) : Option (Nat × Block) :=
  s.blocks.find? fun p => p.2.grid == b.grid && p.2.gang == b.gang && p.2.gpos == pos

/-- A scratch address of the block's own allocation, or of the block at a gang position (08 Table 8.4). -/
def scratchPlace (s : State) (core : Nat) (b : Block) (sp o : Nat) : Place :=
  if sp = 1 then
    if b.scrSize ≤ o then .bad 0x08A else .at_ { at_ := .scratch core (b.scrBase + o), cached := false }
  else if 2 ^ 25 ≤ o then .bad 0x08A
  else match gangBlock s b (o / 2 ^ 19) with
    | none => .bad 0x08A
    | some (k, g) =>
      if b.gsize ≤ o / 2 ^ 19 ∨ g.scrSize ≤ o % 2 ^ 19 then .bad 0x08A
      else .at_ { at_ := .scratch (k / 96) (g.scrBase + o % 2 ^ 19), cached := false }

/-- A window address (19 R375; 17 R313). -/
def windowPlace (hs : List Word) (o : Nat) : Place :=
  let off := match hintOf hs 6 with
    | some c => if 2 ^ 22 ≤ o then none else some (c * 0x400000 + o)
    | none => if 2 ^ 32 ≤ o then none else some o
  match off.bind fun f => onChip (onChipBase + f) with
  | some t => .at_ { at_ := t, cached := false }
  | none => .bad 0x082

/-- A global address (08 R154; 10 R195): a fault of the heap triple traps, every other translation fault is logged. -/
def globalPlace (s : State) (core asid va : Nat) (acc : Acc) : Place × State :=
  if 2 ^ 56 ≤ va then (.bad 0x080, s)
  else
    let triple := inTriple (s.ctx asid) va
    match translate s core asid va acc with
    | (.ok p, s) => (.at_ p, s)
    | (.error c, s) => (if triple then .bad c else .logged c, s)

/-- The causes that an access meets at a place that no leaf raises (08 R157; 13 R241; 18 R326; 14 Table 14.9). -/
def placeCause (s : State) (asid : Nat) (op : MemOp) (t : Target) : Option Nat :=
  match op.acc, t with
  | .load, t => readCause s asid op.n t
  | .atomic, .pipeRegion _ => some 0x088
  | .atomic, .logEntry _ _ => some 0x088
  | .atomic, .logCtl _ _ => some 0x088
  | _, t => writeCause s asid op.n t

/-- The place of one lane (19 R375): alignment first, then the space, then what may be reached there. -/
def lanePlace (s : State) (core : Nat) (b : Block) (op : MemOp) (hs : List Word) (o : Nat) : Place × State :=
  if o % op.n ≠ 0 then (.bad 0x081, s)
  else
    let (p, s) := if op.sp = 0 then globalPlace s core b.asid o op.acc
      else if op.sp = 3 then (windowPlace hs o, s) else (scratchPlace s core b op.sp o, s)
    match p with
    | .at_ q => (match placeCause s b.asid op q.at_ with | some c => .bad c | none => .at_ q, s)
    | p => (p, s)

/-! ### Watchpoints (15 R287) -/

/-- A watchpoint selects an access: its kind number and its virtual address. -/
def Watch.selects (w : Watch) (kind va : Nat) : Bool :=
  let lg := bits w.w0 56 6
  decide (3 ≤ lg) && decide (lg ≤ 40) && bits w.w1 5 2 != 0 && bit w.w1 kind
    && decide (bits w.w0 0 56 ≤ va) && decide (va < bits w.w0 0 56 + 2 ^ lg)

/-- The watchpoints that an access matches. -/
def watchMatches (s : State) (asid kind va : Nat) : List Nat :=
  ((s.ctx asid).watch.zipIdx.filter fun w => w.1.selects kind va).map (·.2)

/-- Sets the hit bits of matched watchpoints. -/
def watchHit (s : State) (asid : Nat) (ks : List Nat) : State :=
  if ks.isEmpty then s
  else s.modCtx asid fun x =>
    { x with watch := x.watch.zipIdx.map fun w => if ks.contains w.2 then { w.1 with w1 := w.1.w1 ||| 0x80#64 } else w.1 }

/-- Action of a watchpoint. -/
def watchAction (s : State) (asid k : Nat) : Nat :=
  match (s.ctx asid).watch[k]? with
  | some w => bits w.w1 5 2
  | none => 0

/-! ### Performing -/

/-- What the lanes of one instruction have come to. -/
structure LaneOut where
  s : State
  /-- results: member, lane, first register, value -/
  vals : List (Nat × Nat × Nat × Nat)
  /-- logged faults: member, lane, cause, address -/
  trans : List (Nat × Nat × Nat × Nat)
  /-- faults that trap: member, lane, cause, address -/
  bad : List (Nat × Nat × Nat × Nat)
  /-- watchpoint matches: watchpoint, member, lane -/
  hits : List (Nat × Nat × Nat)
  /-- remote answers that are awaited: member and tag -/
  tags : List (Nat × Nat)
  /-- first tag of the instruction's remote accesses -/
  ins : Option Nat

/-- The value that a load writes to its registers (19 R376). -/
def loadValue (op : MemOp) (v : Nat) : Nat :=
  if op.signed then (BitVec.ofInt 32 (sextInt (8 * op.n) v)).toNat else v

/-- The value that an atomic writes to its registers (18 R327). -/
def atomicValue (op : MemOp) (x old : Nat) : Nat := if op.aop = 13 then x / 2 ^ 32 % 2 ^ 32 * 2 ^ 32 + old else old

/-- A pod-remote access sets out (08 R155; 09 R192): its message, and what waits for its completion. -/
def sendRemote (s : State) (core slot split asid : Nat) (op : MemOp) (h : How) (a : LaneAcc) (rank addr group ins : Nat) : State :=
  let tag := s.nextTag
  let kind := match op.acc with | .load => 0 | .store => 1 | _ => 2
  let data : List Byte := match op.acc with
    | .load => [BitVec.ofNat 8 op.n]
    | .store => toBytes op.n a.data
    | _ => BitVec.ofNat 8 op.aop :: BitVec.ofNat 8 op.n :: toBytes 8 a.data
  let dst := if op.acc == .store || h.cu then [] else (List.range op.w).map (a.reg + ·)
  let r : RemPend :=
    { core := core, slot := slot, warp := a.m, split := split, lane := a.l, kind := kind, dst := dst, size := op.n,
      signed := op.signed, keep := if op.aop = 13 ∧ op.acc = .atomic then a.data / 2 ^ 32 % 2 ^ 32 else 0, group := group
      asid := asid, va := a.o, acq := h.order % 2 == 1, ins := ins }
  let s := s.modSplit core slot a.m split fun q => { q with rem := q.rem.filter s.remPend.has ++ [tag] }
  ({ s with nextTag := tag + 1, remPend := s.remPend.put tag r }).send (.remote rank tag kind addr data)

/-- Tag that the remote accesses of a member's instruction share: the first one's. -/
def groupTag (r : LaneOut) (m : Nat) : Nat :=
  match r.tags.find? fun t => t.1 == m with
  | some t => t.2
  | none => r.s.nextTag

/-- A read outside the caches: the lease time of what it has read, for an acquire fence after it (09 R180). -/
def noteSeen (s : State) (core slot split : Nat) (a : LaneAcc) (t : Target) : State :=
  let raise (t : BitVec 20) : State := s.modSplit core slot a.m split fun q => { q with seen := tsMax q.seen t }
  match t with
  | .scratch k _ => if a.helper then s else raise (s.core k).scrTs
  | .counters off => if a.helper then s else raise (counterTs s core (off / 8))
  | _ => s

/-- Performs one lane's access at its place. -/
def performLane (core slot split asid : Nat) (op : MemOp) (h : How) (r : LaneOut) (q : LaneAcc × Phys) : LaneOut :=
  let a := q.1
  let h := if a.helper then How.relaxed else h
  let ks := if op.sp = 0 && !a.helper then watchMatches r.s asid op.acc.code a.o else []
  let r := { r with hits := r.hits ++ ks.map fun k => (k, a.m, a.l) }
  match q.2.at_ with
  | .remote rank addr =>
    let g := groupTag r a.m
    let ins := r.ins.getD r.s.nextTag
    let s := sendRemote r.s core slot split asid op h a rank addr g ins
    let r := { r with s := s, ins := some ins }
    if op.acc == .store || h.cu then r else { r with tags := r.tags ++ [(a.m, g)] }
  | _ =>
    match op.acc with
    | .load =>
      let (v, s) := loadAt r.s core asid op.n q.2 h
      let s := noteSeen s core slot split a q.2.at_
      { r with s := s, vals := r.vals ++ [(a.m, a.l, a.reg, loadValue op v)] }
    | .store => { r with s := storeAt r.s core asid op.n (a.data % 2 ^ (8 * op.n)) q.2 h }
    | _ =>
      let (v, s) := atomicAt r.s core asid op.aop a.data q.2 h
      let s := noteSeen s core slot split a q.2.at_
      if h.cu then { r with s := s } else { r with s := s, vals := r.vals ++ [(a.m, a.l, a.reg, atomicValue op a.data v)] }

/-- An order that the specification leaves open (log 3): each element in turn is drawn from those that remain. -/
def shuffle {α : Type} (l : List α) (s : State) : Nat → List α × State
  | 0 => ([], s)
  | fuel + 1 =>
    if l.isEmpty then ([], s)
    else
      let (n, s) := s.draw
      let i := n % l.length
      let (r, s) := shuffle (l.eraseIdx i) s fuel
      (match l[i]? with | some a => a :: r | none => r, s)

/-- Two of the places are one: lanes overlap (09 R175). -/
def overlapping : List Target → Bool
  | [] => false
  | a :: r => r.contains a || overlapping r

/-- An 8-byte part of a lane's store. -/
def storePart (j : Nat) (q : LaneAcc × Phys) : LaneAcc × Phys :=
  let p := match q.2.at_ with
    | .hbm pa => { q.2 with at_ := .hbm (pa + 8 * j) }
    | .scratch c o => { q.2 with at_ := .scratch c (o + 8 * j) }
    | .remote k a => { q.2 with at_ := .remote k (a + 8 * j) }
    | _ => q.2
  ({ q.1 with data := q.1.data / 2 ^ (64 * j) % 2 ^ 64 }, p)

/-- Performs the lanes that have a place: lanes of one atomic or store that overlap in an open order, each atomic unit on its
own (09 R175, R176); the others, and `.cu` updates, in ascending order. -/
def performLanes (core slot split asid : Nat) (op : MemOp) (h : How) (r : LaneOut) (l : List (LaneAcc × Phys)) : LaneOut :=
  let go (op : MemOp) (r : LaneOut) (l : List (LaneAcc × Phys)) : LaneOut := l.foldl (performLane core slot split asid op h) r
  if op.acc == .load || h.cu || !overlapping (l.map fun q => q.2.at_) then go op r l
  else if op.acc == .store && decide (8 < op.n) then
    (List.range (op.n / 8)).foldl (fun r j =>
      let (l, s) := shuffle l r.s l.length
      go { op with n := 8 } { r with s := s } (l.map (storePart j))) r
  else
    let (l, s) := shuffle l r.s l.length
    go op { r with s := s } l

/-- Finds every lane's place; helper lanes fault never, and store nothing (02 R34; 09 R175). -/
def placeLanes (core : Nat) (b : Block) (op : MemOp) (hs : List Word) (s : State) (l : List LaneAcc) :
    LaneOut × List (LaneAcc × Phys) :=
  l.foldl (fun a x =>
    let r := a.1
    if x.helper && op.acc != .load then
      ({ r with vals := if op.acc == .atomic then r.vals ++ [(x.m, x.l, x.reg, 0)] else r.vals }, a.2)
    else
      let (p, s) := lanePlace r.s core b op hs x.o
      let r := { r with s := s }
      match p with
      | .at_ q => (r, a.2 ++ [(x, q)])
      | .logged c =>
        if x.helper then ({ r with vals := r.vals ++ [(x.m, x.l, x.reg, 0)] }, a.2)
        else ({ r with trans := r.trans ++ [(x.m, x.l, c, x.o)] }, a.2)
      | .bad c =>
        if x.helper then ({ r with vals := r.vals ++ [(x.m, x.l, x.reg, 0)] }, a.2)
        else ({ r with bad := r.bad ++ [(x.m, x.l, c, x.o)] }, a.2))
    ({ s := s, vals := [], trans := [], bad := [], hits := [], tags := [], ins := none }, [])

/-- All the lanes of an instruction: release actions, places, accesses. A `.cu` update writes no register. -/
def runLanes (core slot split : Nat) (b : Block) (op : MemOp) (hs : List Word) (s : State) (l : List LaneAcc) : LaneOut :=
  let h := howOf hs
  let s := if h.releases then releaseCore s core b.asid h.scope else s
  let (r, ps) := placeLanes core b op hs s l
  let r := performLanes core slot split b.asid op h r ps
  if h.cu then { r with vals := [] } else r

/-- Writes the results to the registers of their lanes. -/
def writeVals (core slot : Nat) (op : MemOp) (r : LaneOut) : State :=
  (dedup (r.vals.map (·.1))).foldl (fun s m =>
    let mine := r.vals.filter fun v => v.1 == m
    s.modWarp core slot m fun w => w.putAt op.w fun l => (mine.find? fun v => v.2.1 == l).map fun v => (v.2.2.1, v.2.2.2)) r.s

/-! ### Traps that wait -/

/-- Cause under which a match of a stop action waits; no cause of the specification is that large. -/
def stopMark : Nat := 0x200

/-- Cause under which a match of watchpoint 0 with a marker action waits; those of the others follow it. -/
def markerMark : Nat := 0x210

/-- Watchpoint matches of an instruction: hit bits, and what is to follow its completion: trap, stop or marker, by member and
lane (15 R287). -/
def watchDone (s : State) (asid : Nat) (hits : List (Nat × Nat × Nat)) : State × List (Nat × Nat × Nat × Nat) :=
  let s := watchHit s asid (hits.map (·.1))
  let att := attached s asid
  (s, hits.filterMap fun h => match watchAction s asid h.1 with
    | 1 => some (h.2.1, h.2.2, 0x1E2, 0)
    | 2 => some (h.2.1, h.2.2, if att then stopMark else 0x1E2, 0)
    | 3 => some (h.2.1, h.2.2, markerMark + h.1, 0)
    | _ => none)

/-- A waiting fault is no match of a watchpoint. -/
def realFault (f : Nat × Nat × Nat × Nat) : Bool := f.2.2.1 != 0x1E2 && decide (f.2.2.1 < stopMark)

/-- The trap of a list of waiting faults: member, lane, cause, address. A memory cause is taken alone, without the matches of
watchpoints (15 R287). -/
def waitingTrap (l : List (Nat × Nat × Nat × Nat)) : Option TrapReq :=
  let real := l.filter realFault
  let fs := if real.isEmpty then l.filter fun f => f.2.2.1 == 0x1E2 else real
  match (List.range 32).flatMap fun m => lanes.flatMap fun k => fs.filter fun f => f.1 == m && f.2.1 == k with
  | [] => none
  | f :: r => some { faultReq ((f :: r).map fun f => (f.1, f.2.1, f.2.2.1)) with va := f.2.2.2, resnext := true }

/-- A stop waits among the faults, and nothing that would take its place. -/
def waitingStop (l : List (Nat × Nat × Nat × Nat)) : Bool :=
  l.any (fun f => f.2.2.1 == stopMark) && !l.any realFault

/-- The markers that wait among the faults: written for each member and watchpoint, unless another trap is taken (15 R287). -/
def waitingMarks (a : TrapAt) (l : List (Nat × Nat × Nat × Nat)) (s : State) : State :=
  if l.any realFault then s
  else (dedup ((l.filter fun f => decide (markerMark ≤ f.2.2.1)).map fun f => (f.1, f.2.2.1 - markerMark))).foldl (fun s f =>
    writeMarker s a.core a.slot f.1 a.pc (0x3FF000 + f.2)) s

/-- What the matches of watchpoints ask for beside a trap, once every access of an instruction has been made. -/
def finishWatch (a : TrapAt) (l : List (Nat × Nat × Nat × Nat)) (s : State) : State :=
  let s := waitingMarks a l s
  if waitingStop l then stopBlock s a.core a.slot 0x1E2 else s

/-- Every access of an instruction has been made: what waited for that is taken. -/
def finishFaults (a : TrapAt) (l : List (Nat × Nat × Nat × Nat)) (post : Nat) (s : State) : State :=
  let s := finishWatch a l s
  match waitingTrap l with
  | some t => takeTrap s a { t with post := post }
  | none => s

/-! ### The operand log (10 R201) -/

/-- Key of a log entry. -/
def logKey (q j : Nat) : Nat := q * 16 + j

/-- Entries that a warp holds in its quarter's log. -/
def heldEntries (c : Core) (slot m : Nat) : Nat := (c.oplog.filter fun e => e.2.slot == slot && e.2.warp == m).length

/-- A free entry for a warp: it holds fewer than 8, and its quarter has one. -/
def freeEntry (c : Core) (slot m q : Nat) : Option Nat :=
  if 8 ≤ heldEntries c slot m then none else (List.range 16).find? fun j => !c.oplog.has (logKey q j)

/-- Adds a window of a result that a split waits for: the newest one of this instruction takes it, or another with the same
registers; an instruction with no destination holds the split at its next word. -/
def holdOn (x : Ix) (m : Nat) (la : Nat) (p : Pend) (s : State) : State :=
  s.modSplit x.core x.slot m x.split fun q =>
    match findIdx (fun e : Window => e.pc == x.pc && e.left == la && e.pend == .done) q.wins with
    | some (k, _) => { q with wins := modAt q.wins k fun e => { e with pend := p } }
    | none =>
      let like := match q.wins.find? fun e => e.pc == x.pc && e.left == la && e.pend != .done with
        | some e => e.regs | none => []
      { q with wins := q.wins ++ [{ regs := like, left := la, pend := p, pc := x.pc }] }

/-- Logs a member's faulting lanes: entry, record, and the windows of every member of the instance, which go on together
(06 R126; 10 R201). The faulting member runs on through its lookahead; the members without a logged lane wait at once, for the
specification does not say how far they run before firmware answers (DESIGN CHOICE, log 57). -/
def logLanes (x : Ix) (word : Word) (op : MemOp) (la j : Nat) (b : Block) (w : Warp) (m : Nat) (ls : List LaneAcc)
    (fs : List (Nat × Nat × Nat × Nat)) (base : DWord) (addr : Vec) (deferred : List (Nat × Nat × Nat × Nat)) (s : State) :
    State :=
  let mask := lanesMask (fs.map (·.2.1))
  let f := fs.headD (0, 0, 0, 0)
  let val (l : Nat) : Nat := match ls.find? fun a => a.m == m && a.l == l with | some a => a.data | none => 0
  let reg (l : Nat) : Nat := match ls.find? fun a => a.m == m && a.l == l with | some a => a.reg | none => 0
  let e : LogEntry :=
    { word := word, hints := x.hints, cause := f.2.2.1, base := base, lanes := mask,
      addr := addr
      data := if op.acc == .load then [] else (List.range op.w).map fun k => Vec.of fun l =>
        if inMask mask l then word32 (val l) k else 0#32
      busy := false, slot := x.slot, warp := m, split := x.split, pc := x.pc, place := lanes.map reg, deferred := deferred,
      members := if x.sc ≤ 1 then [] else x.members, lead := x.lead }
  let s := s.modCore x.core fun c => { c with oplog := c.oplog.put (logKey w.quarter j) e }
  let ws := faultWords s x.core x.slot m f.2.2.1 op.acc.code f.2.2.2 mask x.pc (some j)
  let s := queueRecord s b.asid ws (.log x.core w.quarter j)
  if x.sc ≤ 1 then holdOn x m la (.log w.quarter j) s
  else x.members.foldl (fun s k => holdOn x k (if k = m then la else 0) (.log w.quarter j) s) s

/-- The members whose faulting lanes no entry holds: every member goes back before the instruction, which issues again for
those lanes once firmware has answered (10 R201; 06 R126). -/
def noLogLanes (x : Ix) (op : MemOp) (b : Block) (fs : List (Nat × Nat × Nat × Nat))
    (deferred : List (Nat × Nat × Nat × Nat)) (s : State) : State :=
  let ms := dedup (fs.map (·.1))
  let maskOf (m : Nat) : Mask := lanesMask ((fs.filter fun f => f.1 == m).map (·.2.1))
  let all := if x.sc ≤ 1 then [] else x.members
  let todo := (if x.sc ≤ 1 then ms else x.members).map fun m => (m, maskOf m)
  let r : Reissue := { pc := x.pc, members := all, lead := x.lead, todo := todo, deferred := deferred }
  let s := x.saved.foldl (fun s p => s.modSplit x.core x.slot p.1 x.split fun q =>
    { p.2 with
      wins := p.2.wins ++ q.wins.filter fun e => match e.pend with
        | .log _ _ => e.pc == x.pc
        | .remote _ => e.pc == x.pc
        | _ => false
      redo := some r, rwait := false
      faultWait := ms.contains p.1, stall := .faultService }) s
  ms.foldl (fun s m =>
    let f := (fs.filter fun f => f.1 == m).headD (0, 0, 0, 0)
    let ws := faultWords s x.core x.slot m f.2.2.1 op.acc.code f.2.2.2 (maskOf m) x.pc none
    queueRecord s b.asid ws (.noLog x.core x.slot m x.split (maskOf m))) s

/-- Every member with faulting lanes takes an entry, as long as there is one. -/
def logAll (x : Ix) (word : Word) (op : MemOp) (la : Nat) (b : Block) (ls : List LaneAcc)
    (trans deferred : List (Nat × Nat × Nat × Nat)) (base : DWord) (addrOf : Nat → Vec) (s : State) : State :=
  let (s, rest) := (dedup (trans.map (·.1))).foldl (fun (a : State × List (Nat × Nat × Nat × Nat)) m =>
    let fs := trans.filter fun f => f.1 == m
    match a.1.warp? x.core x.slot m with
    | none => a
    | some w => match freeEntry (a.1.core x.core) x.slot m w.quarter with
      | some j => (logLanes x word op la j b w m ls fs base (addrOf m) deferred a.1, a.2)
      | none => (a.1, a.2 ++ fs)) (s, [])
  if rest.isEmpty then s
  else noLogLanes x op b rest deferred (s.modCore x.core fun c =>
    { c with oplog := c.oplog.map fun e =>
        if e.2.slot == x.slot && e.2.split == x.split && e.2.pc == x.pc && x.members.contains e.2.warp then
          (e.1, { e.2 with deferred := [] }) else e })

/-! ### The effect -/

/-- The lanes that an issue performs in a member: those of em, or those that a re-issue still has to perform. -/
def Ix.todoMask (x : Ix) (m : Nat) (w : Warp) : Mask := if x.todo.isEmpty then x.em w else x.todo.getD m 0#64

/-- The lanes of an issue with their offsets (19 R375). -/
def Ix.laneAccs (x : Ix) (s : State) (vd va : VOp) (base : Nat) : List LaneAcc :=
  (x.warps s).flatMap fun p => (maskLanes (x.todoMask p.1 p.2)).map fun l =>
    { m := p.1, l := l, o := (base + readOp p.2 va l) % 2 ^ 64, data := readOp p.2 vd l, helper := inMask p.2.helper l
      reg := match resolve p.2 vd l with | .ok n => n | .error _ => 0xFFFF }

/-- A release beyond its own warp waits for the split's earlier accesses that are with another device: it orders every one of them
before itself (09 R180, R192). -/
def Ix.remoteHeld (x : Ix) (s : State) (h : How) : Bool :=
  decide (2 ≤ h.order) && decide (1 ≤ h.scope) && x.members.any fun m => remotePending s x.core x.slot m x.split fun _ => true

/-- Miss-status entries that a core holds: its requests to the homes, and its lines with other devices (08 R173). -/
def missHeld (s : State) (c : Nat) : Nat :=
  (s.core c).mshr.length
    + (dedup ((s.remPend.filter fun p => p.2.core == c && p.2.warp != engineWarp).map fun p => (p.2.group, p.2.va / 128))).length

/-- Every miss-status entry of a core is held (08 R173). -/
def missFull (s : State) (c : Nat) : Bool := decide (672 ≤ missHeld s c)

/-- An access needs a miss-status entry: a merging fill, a write home, an access that L1D does not serve, an atomic (08 R173). -/
def needsEntry (s : State) (c : Nat) (op : MemOp) (h : How) (p : Phys) : Bool :=
  match p.at_ with
  | .hbm pa =>
    let a := lineOf pa
    (match op.acc with
      | .load => !(p.cached && !h.acquires && h.cache != 1 && l1Hit s c a (pa % 128) op.n)
      | .store => !(p.cached && !h.releases && h.cache != 1) || (decide (op.n < 4) && !l1Hit s c a (pa % 128) op.n)
          || (!(s.core c).l1d.has a && decide (8 ≤ ((s.core c).l1d.filter fun q => q.1 % 128 == a % 128).length))
      | _ => !h.cu)
  | .remote _ _ => true
  | .counters _ => true
  | _ => false

/-- A memory instruction waits at issue: a rebase is in progress (08 R165), or an access of it finds no miss-status entry
(R173). -/
def entriesWait (x : Ix) (s : State) (b : Block) (op : MemOp) (h : How) (ls : List LaneAcc) : Bool :=
  s.rebasing || (missFull s x.core &&
    (let p := placeLanes x.core b op x.hints s ls
     p.2.any fun q => needsEntry p.1.s x.core op h q.2))

/-- The lanes of an instruction that are with another device: what waits for them, and the window of each member; an acquire holds
its split at the next instruction (09 R180). -/
def awaitRemote (x : Ix) (op : MemOp) (h : How) (la : Nat) (out : LaneOut) (later : List (Nat × Nat × Nat × Nat)) (s : State) :
    State :=
  match out.ins with
  | none => s
  | some g =>
    let noDst := op.acc == .store || h.cu
    let s := { s with remIns := s.remIns.put g { trapAt := x.at_, la := la, faults := later, entry := none, runsOn := noDst } }
    let s := (dedup out.tags).foldl (fun s t => holdOn x t.1 la (.remote t.2) s) s
    if h.order % 2 = 1 && decide (0 < la) then
      (dedup out.tags).foldl (fun s t => s.modSplit x.core x.slot t.1 x.split fun q =>
        { q with wins := q.wins ++ [{ regs := [], left := 0, pend := .remote t.2, pc := x.pc }] }) s
    else s

/-- The effect of a memory instruction (19 R376; 21 R416, R417; 18 R327 to R329). -/
def memEffect (word : Word) (op : MemOp) (la : Nat) (vd va : VOp) (r : BitVec 4) (x : Ix) (s : State) : Res :=
  match x.block? s with
  | none => .done s
  | some b =>
    let h := howOf x.hints
    let rs := x.rs s r.toNat
    let base := (rs.toNat + (immExt x.hints 0 0 % 2 ^ 64).toNat) % 2 ^ 64
    let ls := x.laneAccs s vd va base
    if x.remoteHeld s h || entriesWait x s b op h ls then .wait .memory id
    else
      let addrOf (m : Nat) : Vec := match x.warp? s m with
        | some w => Vec.of fun l => word32 (readOp w va l) 0
        | none => Vec.splat 0
      let out := runLanes x.core x.slot x.split b op x.hints s ls
      let t := writeVals x.core x.slot op out
      let (t, w) := watchDone t b.asid out.hits
      let later := x.deferred ++ out.bad ++ w
      let held := !out.tags.isEmpty && out.trans.isEmpty
      let t := awaitRemote x op h la out (if held then later else []) t
      if held then .done t
      else if out.trans.isEmpty then
        let t := finishWatch x.at_ later t
        match waitingTrap later with
        | some q => .trap q t
        | none => .done t
      else .done (logAll x word op la b ls out.trans later rs addrOf t)

/-! ### Log entries and traps that wait -/

/-- Removes the records of a waiter. -/
def dropWho (s : State) (asid : Nat) (p : Who → Bool) : State :=
  s.modCtx asid fun x => { x with records := x.records.filter fun r => !p r.who }

/-- LA of a memory instruction. -/
def laOf : Instr → Nat
  | .ld _ l _ _ _ _ _ => l.toNat
  | .lds _ l _ _ _ _ _ => l.toNat
  | .atom _ l _ _ _ _ => l.toNat
  | .atoml _ l _ _ _ _ => l.toNat
  | _ => 0

/-- SC of an instruction word: bits [25:24] in the formats of memory instructions. -/
def scBits (w : Word) : Nat := bits w 24 2

/-- Where the trap of an entry's instruction is taken. -/
def LogEntry.at_ (e : LogEntry) (core : Nat) : TrapAt :=
  { core := core, slot := e.slot, warp := e.warp, split := e.split, pc := e.pc, sc := scBits e.word, members := e.members }

/-- Changes every window of an instance's warps that waits for a log entry. -/
def clearLog (s : State) (core q j : Nat) (e : LogEntry) : State :=
  (if e.members.isEmpty then [e.warp] else e.members).foldl (fun s m =>
    s.modWarp core e.slot m fun w => w.written (.log q j)) s

/-- Instructions completed after the entry's under its lookahead. -/
def LogEntry.post (e : LogEntry) (s : State) (core q j : Nat) : Nat :=
  let la := match (decodeWord e.word).toOption with | some i => laOf i | none => 0
  match s.split? core e.slot e.warp e.split with
  | none => 0
  | some p => match p.wins.find? fun w => w.pend == .log q j with
    | some w => la - w.left
    | none => 0

/-- Another entry belongs to the same instance. -/
def LogEntry.sibling (e f : LogEntry) : Bool :=
  !e.members.isEmpty && e.slot == f.slot && e.split == f.split && e.pc == f.pc && e.members == f.members

/-- A log entry holds lanes of the instruction that a trap would be taken for. -/
def TrapAt.logs (a : TrapAt) (f : LogEntry) : Bool :=
  f.slot == a.slot && f.split == a.split && f.pc == a.pc
    && (if a.members.isEmpty then f.members.isEmpty && f.warp == a.warp else f.members == a.members)

/-- Lanes of the same instruction are with another device. -/
def TrapAt.same (a : TrapAt) (i : RemIns) : Bool :=
  !i.runsOn && i.trapAt.core == a.core && i.trapAt.slot == a.slot && i.trapAt.split == a.split && i.trapAt.pc == a.pc
    && i.trapAt.members == a.members && (!a.members.isEmpty || i.trapAt.warp == a.warp)

/-- The instance has members that wait to issue again without a log entry. -/
def redoWaits (s : State) (a : TrapAt) : Bool :=
  a.members.any fun m => match s.split? a.core a.slot m a.split with
    | some q => (match q.redo with | some r => r.pc == a.pc && r.members == a.members | none => false)
    | none => false

/-- What waits for the end of an instruction is taken once no lane of it is left in the operand log, with another device or about to
issue again; otherwise it goes with those that are (19 R376). -/
def settleFaults (s : State) (a : TrapAt) (post : Nat) (later : List (Nat × Nat × Nat × Nat)) : State :=
  if (s.core a.core).oplog.any fun f => a.logs f.2 then
    s.modCore a.core fun c =>
      { c with
        oplog := c.oplog.map fun (f : Nat × LogEntry) =>
          if a.logs f.2 then (f.1, { f.2 with deferred := dedup (f.2.deferred ++ later) }) else f }
  else if s.remIns.any fun i => a.same i.2 then
    { s with remIns := s.remIns.map fun (i : Nat × RemIns) =>
        if a.same i.2 then (i.1, { i.2 with faults := dedup (i.2.faults ++ later) }) else i }
  else if redoWaits s a then
    a.members.foldl (fun s m => s.modSplit a.core a.slot m a.split fun q =>
      { q with redo := q.redo.map fun r => { r with deferred := dedup (r.deferred ++ later) } }) s
  else finishFaults a (dedup later) post s

/-- Frees an entry and forgets its record. -/
def freeEntryOf (s : State) (core q j asid : Nat) : State :=
  dropWho (s.modCore core fun c => { c with oplog := c.oplog.del (logKey q j) }) asid (· == .log core q j)

/-! ### Lanes that another device has answered (08 R155; 14 Table 14.9; 19 R376) -/

/-- Instructions completed after the one at an address under its lookahead. -/
def TrapAt.post (a : TrapAt) (s : State) (la : Nat) : Nat :=
  match s.split? a.core a.slot a.warp a.split with
  | none => 0
  | some p => match p.wins.filter fun w => w.pc == a.pc with
    | [] => la
    | w :: r => la - r.foldl (fun n v => if n < v.left then v.left else n) w.left

/-- Faults of lanes whose split has gone on: each member's split traps where it stands now, before its next instruction (DESIGN
CHOICE, log 55). -/
def lateFaults (s : State) (i : RemIns) : State :=
  let a := i.trapAt
  (dedup (i.faults.map (·.1))).foldl (fun s m =>
    let fs := i.faults.filter fun f => f.1 == m
    let holds (q : Split) : Bool := q.valid && fs.any fun f => inMask q.lanes f.2.1
    match (s.warp? a.core a.slot m).bind fun w => findIdx holds w.splits, waitingTrap fs with
    | some (k, q), some t =>
      takeTrap s { core := a.core, slot := a.slot, warp := m, split := k, pc := q.pc, sc := 1 } { t with resnext := false }
    | _, _ => s) s

/-- Once every lane of an instruction has its answer, what waited for that is taken; a log entry whose replay it was is freed
(10 R202; 19 R376). -/
def settleRemote (s : State) (ins : Nat) : State :=
  match s.remIns.get? ins with
  | none => s
  | some i =>
    if s.remPend.any fun p => p.2.ins == ins && p.2.warp != engineWarp then s
    else
      let s := { s with remIns := s.remIns.del ins }
      let a := i.trapAt
      match i.entry.bind fun q => ((s.core a.core).oplog.get? (logKey q.1 q.2)).map fun e => (q, e) with
      | some (q, e) =>
        let post := e.post s a.core q.1 q.2
        let s := freeEntryOf s a.core q.1 q.2 (blockAsid s a.core a.slot)
        settleFaults (clearLog s a.core q.1 q.2 e) (e.at_ a.core) post (e.deferred ++ i.faults)
      | none => if i.runsOn then lateFaults s i else settleFaults s a (a.post s i.la) i.faults

end Sys2Proof.Machine
end

