-- ==== Sys2Proof/Machine/Engine.lean ====
section
/-! DEFINITION. What the engines of a core share: operation entries, handles, reading and writing elements, window
permission, suspension, completion and cancellation (12 R226 to R240; 08 R157, R164; 09 R189; 10 R201). -/

namespace Sys2Proof.Machine

open Sys2Proof

/-! ### Finding an operation -/

/-- The number that stands for the vigil unit where a core is named: its operations are found by vigil slot (13 R252). -/
def ioCore : Nat := 768

/-- An operation: of a core's entry, or of a vigil slot. -/
def engOp? (s : State) (c e : Nat) : Option OpEntry := if c < ioCore then s.op? c e else (s.vigils.get? e).bind (·.op)

/-- Changes an operation. -/
def modEng (s : State) (c e : Nat) (f : OpEntry → OpEntry) : State :=
  if c < ioCore then s.modOp c e f
  else { s with vigils := modKey s.vigils e fun v => { v with op := v.op.map f } }

/-- The block that issued an operation of a core. -/
def opBlock (s : State) (c : Nat) (op : OpEntry) : Option Block := if c < ioCore then s.block? c op.slot else none

/-- Translation by the agent that runs an operation. -/
def engTranslate (s : State) (c asid va : Nat) (acc : Acc) : Except Nat Phys × State :=
  if c < ioCore then translate s c asid va acc else translateIo s asid va acc

/-! ### Window permission (08 R157) -/

/-- The inbound block of a core. -/
def inboundBlock (s : State) (c : Nat) : Option (Nat × Block) :=
  (s.blocks.find? fun p => p.1 / 96 == c && p.2.kernel.inbound).map fun p => (p.1 % 96, p.2)

/-- An offset in the register frames: warp, register, lane. -/
def frameWarp (off : Nat) : Nat := off / 0x4000
/-- Register of a frame offset. -/
def frameReg (off : Nat) : Nat := off % 0x4000 / 0x100
/-- Lane of a frame offset. -/
def frameLane (off : Nat) : Nat := off % 0x100 / 4

/-- Whether a write of `n` bytes by a context may reach a frame. -/
def frameAllowed (s : State) (asid n : Nat) : Target → Bool
  | .regFrame c off => match inboundBlock s c with
    | none => false
    | some (_, b) => b.asid == asid && decide (4 ≤ n) && decide (frameWarp off < b.warps.length) && bit b.kernel.inregs (frameReg off)
  | .tileFrame c off => match inboundBlock s c with
    | none => false
    | some (_, b) => b.asid == asid && decide (4 ≤ n) && bit b.kernel.intiles (off / 0x10000)
  | _ => true

/-- The target is a frame. -/
def Target.isFrame : Target → Bool
  | .regFrame _ _ => true
  | .tileFrame _ _ => true
  | _ => false

/-- The causes that an engine's write meets at a target and no leaf raises. Frames are reached by a copy's writes alone (`copy`;
08 R157). -/
def engWriteCause (s : State) (copy : Bool) (asid n : Nat) (t : Target) : Option Nat :=
  if t.isFrame then (if copy && frameAllowed s asid n t then none else some 0x088) else writeCause s asid n t

/-- Writes the words of a register frame: the inbound block's registers (08 R156; 05 R104). -/
def storeFrame (s : State) (c off n v : Nat) : State :=
  match inboundBlock s c with
  | none => s
  | some (slot, _) =>
    (List.range (n / 4)).foldl (fun s i =>
      let o := off + 4 * i
      s.modWarp c slot (frameWarp o) fun w => w.setV (frameReg o) (frameLane o) (word32 v i)) s

/-- Writes bytes of a tile frame: the inbound block's own tile. -/
def storeTileFrame (s : State) (c off n v : Nat) : State :=
  match inboundBlock s c with
  | none => s
  | some (_, b) => s.modCore c fun x => { x with tiles := Mem.store x.tiles (b.tileBase * 0x10000 + off) n v }

/-! ### Tiles that the matrix unit works on (09 R190; 11 R222) -/

/-- Sector number of an address in a core's tile file. -/
def sectorNo (a : Nat) : Nat := a / 32

/-- The physical tile of a sector number. -/
def sectorTile (k : Nat) : Nat := k / 0x800

/-- An accepted operation of the unit that has not completed accumulates in a physical tile. -/
def unitUses (s : State) (c tile : Nat) : Bool :=
  (s.core c).matQ.any fun e => match s.op? c e with
    | some o => o.accepted && !o.complete && (match s.block? c o.slot with
      | some b =>
        let t := b.tileBase + recField o.record 0 26 3
        decide (t ≤ tile) && decide (tile ≤ t + recField o.record 0 29 3)
      | none => false)
    | none => false

/-- Before a warp writes a sector that the unit accumulates in, the unit's own value of it is kept apart (09 R190). -/
def keepUnit (s : State) (c a : Nat) : State :=
  let k := sectorNo a
  if unitUses s c (sectorTile k) && !(s.core c).unitOwn.has k then
    s.modCore c fun x => { x with unitOwn := x.unitOwn.put k (Mem.num x.tiles (32 * k) 32) }
  else s

/-- Sectors of a physical tile that both a warp and the unit have written end with the one value or the other: which is free
(09 R190; log 3). -/
def settleTile (s : State) (c tile : Nat) : State :=
  ((s.core c).unitOwn.filter fun p => sectorTile p.1 == tile).foldl (fun s p =>
    let (n, s) := s.draw
    s.modCore c fun x =>
      { x with
        tiles := if n % 2 = 1 then Mem.store x.tiles (32 * p.1) 32 p.2 else x.tiles
        unitOwn := x.unitOwn.del p.1 }) s

/-- Settles the tiles of a block. -/
def settleTiles (s : State) (c : Nat) (b : Block) : State :=
  (List.range b.kernel.t).foldl (fun s t => settleTile s c (b.tileBase + t)) s

/-! ### One element (12 R229, R230) -/

/-- Where an element lands in a space of a record: 0 global, 1 scratch, 2 cluster scratch, 3 window (12 Table 12.3). The spaces
of a block do not exist for a vigil's operation. -/
def engPlace (s : State) (c : Nat) (op : OpEntry) (sp n a : Nat) (acc : Acc) : Place × State :=
  if sp = 0 then
    if 2 ^ 56 ≤ a then (.bad 0x080, s)
    else if a % n ≠ 0 then (.bad 0x081, s)
    else
      let triple := inTriple (s.ctx op.asid) a
      match engTranslate s c op.asid a acc with
      | (.ok p, s) => (.at_ p, s)
      | (.error e, s) => (if triple then .bad e else .logged e, s)
  else if a % n ≠ 0 then (.bad 0x081, s)
  else if sp = 3 then (windowPlace [] a, s)
  else match opBlock s c op with
    | some b => (scratchPlace s c b sp a, s)
    | none => (.bad 0x08A, s)

/-- What an element's read comes to. -/
inductive ERead where
  /-- its value -/
  | ok (v : Nat)
  /-- it suspends the operation: cause and virtual address -/
  | fault (cause va : Nat)
  /-- an uncorrectable error at an address: it suspends an engine's operation and ends the matrix unit's (12 R233; 11 R223) -/
  | poison (va : Nat)
  /-- it ends the operation -/
  | bad (cause : Nat)
  /-- another device has been asked -/
  | waits
deriving DecidableEq, Repr

/-- What an element's write comes to. -/
inductive EWrite where
  | ok
  | fault (cause va : Nat)
  | bad (cause : Nat)
deriving DecidableEq, Repr

/-- A watchpoint match of an engine's element: hit bits, markers, and a stop where a debugger holds the block; no trap
(15 R287). -/
def engWatch (s : State) (c : Nat) (op : OpEntry) (kind va : Nat) : State :=
  let ks := watchMatches s op.asid kind va
  if ks.isEmpty then s
  else
    let s := watchHit s op.asid ks
    ks.foldl (fun s k => match watchAction s op.asid k with
      | 3 => writeSample s op.asid 6 [placeWord s c op.slot op.warp, op.pc, BitVec.ofNat 64 (0x3FF000 + k)]
      | 2 => if attached s op.asid then stopBlock s c op.slot 0x1E2 else s
      | _ => s) s

/-- Asks another device for bytes; the answer comes to the operation by its address. -/
def engAsk (s : State) (c e asid rank addr va n : Nat) : State :=
  if s.remPend.any fun p => p.2.core == c && p.2.slot == e && p.2.warp == engineWarp && p.2.dst == [va] && p.2.kind == 0 then s
  else
    let tag := s.nextTag
    let r : RemPend := { core := c, slot := e, warp := engineWarp, split := 0, lane := 0, kind := 0, dst := [va], size := n,
                         signed := false, keep := 0, group := tag, asid := asid, va := va, acq := false, ins := tag }
    ({ s with nextTag := tag + 1, remPend := s.remPend.put tag r }).send (.remote rank tag 0 addr [BitVec.ofNat 8 n])

/-- Sends a write to another device. -/
def engTell (s : State) (c e asid rank addr va n v : Nat) : State :=
  let tag := s.nextTag
  let r : RemPend := { core := c, slot := e, warp := engineWarp, split := 0, lane := 0, kind := 1, dst := [], size := n,
                       signed := false, keep := 0, group := tag, asid := asid, va := va, acq := false, ins := tag }
  ({ s with nextTag := tag + 1, remPend := s.remPend.put tag r }).send (.remote rank tag 1 addr (toBytes n v))

/-- Sends an atomic of an operator of Table 8.10 to another device. -/
def engTellAtomic (s : State) (c e asid rank addr va aop v : Nat) : State :=
  let tag := s.nextTag
  let n := atomicSize aop
  let r : RemPend := { core := c, slot := e, warp := engineWarp, split := 0, lane := 0, kind := 2, dst := [], size := n,
                       signed := false, keep := 0, group := tag, asid := asid, va := va, acq := false, ins := tag }
  ({ s with nextTag := tag + 1, remPend := s.remPend.put tag r }).send
    (.remote rank tag 2 addr (BitVec.ofNat 8 aop :: BitVec.ofNat 8 n :: toBytes 8 v))

/-- Pod-remote accesses of an operation are on their way. -/
def engRemote (s : State) (c e : Nat) : Bool :=
  s.remPend.any fun p => p.2.core == c && p.2.slot == e && p.2.warp == engineWarp

/-- The operation's lease time rises (08 R164). -/
def raiseEts (s : State) (c e : Nat) (t : BitVec 20) : State := modEng s c e fun o => { o with ets := tsMax o.ets t }

/-- The causes of an engine's read at a translated address: the counter page permits loads alone (13 R241). -/
def engReadCause (s : State) (asid n : Nat) (t : Target) : Option Nat :=
  match t with
  | .counters _ => some 0x088
  | t => readCause s asid n t

/-- Reads an element of `n` bytes, 1 to 8, as a relaxed engine access (12 R230; 08 R164). An element of another device matches
watchpoints when it is asked for, and not again when its answer is taken (15 R287). -/
def engRead (s : State) (c e : Nat) (op : OpEntry) (sp n a : Nat) : ERead × State :=
  match engPlace s c op sp n a .engRead with
  | (.logged cause, s) => (.fault cause a, s)
  | (.bad cause, s) => (.bad cause, s)
  | (.at_ p, s) =>
    match engReadCause s op.asid n p.at_ with
    | some 0x095 => (.poison a, s)
    | some cause => (.bad cause, s)
    | none =>
      let s := if sp = 0 && !op.got.any fun g => g.1 == a then engWatch s c op 3 a else s
      match p.at_ with
      | .remote rank addr =>
        (match op.got.find? fun g => g.1 == a with
          | some g => (.ok g.2, s)
          | none => (.waits, engAsk s c e op.asid rank addr a n))
      | .hbm pa =>
        let ets := match engOp? s c e with | some o => o.ets | none => op.ets
        let (h, s) := homeRead s (lineOf pa) ets 0 true
        (.ok (lineNum h.data (pa % 128) n), raiseEts s c e h.wts)
      | _ =>
        let (v, s) := loadAt s c op.asid n p .relaxed
        (.ok v, s)

/-- Performs a write of `n` bytes at a target whose causes have been checked; the new lease time of the writer. -/
def engStore (s : State) (c asid : Nat) (ets : BitVec 20) (n v : Nat) (p : Phys) (release : Bool) : BitVec 20 × State :=
  match p.at_ with
  | .hbm pa => homeWrite s (lineOf pa) ets (fun d => lineSet d (pa % 128) n v) [(pa % 128, n)] release
  | .regFrame k off => (ets, storeFrame s k off n v)
  | .tileFrame k off => (ets, storeTileFrame s k off n v)
  | _ => (ets, storeAt s c asid n v p .relaxed)

/-- Writes an element as a relaxed engine access. -/
def engWrite (s : State) (c e : Nat) (op : OpEntry) (sp n a v : Nat) : EWrite × State :=
  match engPlace s c op sp n a .engWrite with
  | (.logged cause, s) => (.fault cause a, s)
  | (.bad cause, s) => (.bad cause, s)
  | (.at_ p, s) =>
    match engWriteCause s (op.kind == .copy) op.asid n p.at_ with
    | some 0x095 => (.fault 0x095 a, s)
    | some cause => (.bad cause, s)
    | none =>
      let s := if sp = 0 then engWatch s c op 4 a else s
      match p.at_ with
      | .remote rank addr => (.ok, engTell s c e op.asid rank addr a n v)
      | _ =>
        let ets := match engOp? s c e with | some o => o.ets | none => op.ets
        let (t, s) := engStore s c op.asid ets n v p false
        (.ok, raiseEts s c e t)

/-- Reads `k` consecutive 8-byte parts. -/
def engReadMany (s : State) (c e : Nat) (op : OpEntry) (sp a : Nat) : Nat → List DWord → (Except ERead (List DWord)) × State
  | 0, acc => (.ok acc.reverse, s)
  | k + 1, acc => match engRead s c e op sp 8 a with
    | (.ok v, s) => engReadMany s c e op sp (a + 8) k (BitVec.ofNat 64 v :: acc)
    | (r, s) => (.error r, s)

/-- Counts elements moved (15 Table 15.8 code 9). -/
def engCount (s : State) (c asid n : Nat) : State := if c < ioCore then pmCount s c asid 9 n else s

/-! ### Suspension (12 R233; 10 R201) -/

/-- The translation fault record of an operation (10 Table 10.6). -/
def engineWords (s : State) (c : Nat) (op : OpEntry) (cause kind va : Nat) : List DWord :=
  let place := if c < ioCore then placeBits s c op.slot op.warp else 0x1F * 2 ^ 22
  [BitVec.ofNat 64 (cause + kind * 2 ^ 9 + op.asid * 2 ^ 12), BitVec.ofNat 64 (va % 2 ^ 56), 0#64, op.pc,
    BitVec.ofNat 64 (place + 2 ^ 31), 0#64, s.kalends, 0#64]

/-- An operation suspends on a fault; its record goes to firmware. -/
def engSuspend (s : State) (c e cause kind va : Nat) : State :=
  match engOp? s c e with
  | none => s
  | some op =>
    let s := modEng s c e fun o => { o with suspended := true, recorded := true }
    queueRecord s op.asid (engineWords s c op cause kind va) (if c < ioCore then .engine c e op.serial else .vigil e)

/-- The operation of a record is still the suspended one: one that has been cancelled takes no more part (12 R237). -/
def stillWaits (s : State) (c e : Nat) (serial : BitVec 32) : Bool :=
  match s.op? c e with
  | some o => o.serial == serial && o.suspended
  | none => false

/-- The faults that a prologue copy does not survive: a permission fault, an uncorrectable error (02 R43). Its block then fails. -/
def prologueFatal (c cause : Nat) (op : OpEntry) : Bool :=
  decide (c < ioCore) && op.kind == .copy && op.warp == 0x1F && [0x091, 0x092, 0x093, 0x095, 0x097].contains cause

/-! ### Entries and handles (12 R226, R234) -/

/-- A handle register names an entry. -/
def Warp.names (w : Warp) (e : Nat) (serial : BitVec 32) : Bool := w.hregs.contains (.op e serial)

/-- An entry is named by a handle register of its block, or is a prologue copy that its block waits for. -/
def opNamed (s : State) (c e : Nat) (op : OpEntry) : Bool :=
  match s.block? c op.slot with
  | none => false
  | some b => b.prologue.contains e || b.warps.any fun w => w.names e op.serial

/-- The issuing warp of an operation that waits at its instruction is gone. -/
def opOrphan (s : State) (c : Nat) (op : OpEntry) : Bool :=
  op.waits && (match s.warp? c op.slot op.warp with | some w => w.retired | none => true)

/-- Takes an entry out of the engines' queues. -/
def Core.dequeue (x : Core) (e : Nat) : Core :=
  { x with
    copyQ := x.copyQ.filter (· != e), gathQ := x.gathQ.map fun q => q.filter (· != e)
    matQ := x.matQ.filter (· != e), xferQ := x.xferQ.filter (· != e) }

/-- Frees an entry; the warps that may still observe it through a batch keep its lease time (12 R239; 08 R164). -/
def freeOp (s : State) (c e : Nat) (op : OpEntry) : State :=
  let s := (op.openIn ++ op.batches.map (·.1)).foldl (fun s m =>
    s.modWarp c op.slot m fun w => { w with ets := tsMax w.ets op.ets }) s
  s.modCore c fun x => { x.dequeue e with ops := x.ops.del e }

/-- Multicast packets of an operation are on their way. -/
def mcastOpen (s : State) (c e : Nat) : Bool := s.mcasts.any fun m => m.op == (c, e) && !m.dests.isEmpty

/-- An entry holds accesses or packets of its operation that are on their way: it is not free for another one. -/
def opBusy (s : State) (c e : Nat) : Bool := engRemote s c e || mcastOpen s c e

/-- Frees every entry of a core that is complete and that nothing names any more (12 R226). -/
def freeOps (s : State) (c : Nat) : State :=
  (s.core c).ops.foldl (fun s p =>
    if ((p.2.complete && !p.2.waits && !opNamed s c p.1 p.2) || opOrphan s c p.2) && !opBusy s c p.1 then freeOp s c p.1 p.2 else s) s

/-- An operation that nothing has issued yet. -/
def OpEntry.fresh (kind : OpKind) (asid : Nat) (raddr raddr2 : DWord) (ets : BitVec 20) : OpEntry :=
  { kind := kind, serial := 0, slot := 0, warp := 0x1F, pc := 0, asid := asid, raddr := raddr, raddr2 := raddr2
    record := [], accepted := false, consumed := false, complete := false, status := 0, hstamp := none, ets := ets
    got := [], waits := false, next := 0, pmask := 0, gdone := 0, openIn := [], batches := [], leave := 0, asks := 0
    suspended := false, idx := [0, 0, 0, 0, 0], cur := 0, sused := 0, epend := false, nestDone := false, pq := none
    eseq := none, acked := [], sent := [], vigil := none, image := [], recorded := false, epIdx := [0, 0, 0, 0, 0], epCur := 0
    epOut := false, surplus := 0, cancelled := false, turn := 0, late := false }

/-- A fresh entry, taken by the members of an instance. -/
def newOp (s : State) (x : Ix) (kind : OpKind) (raddr raddr2 : DWord) : OpEntry :=
  { OpEntry.fresh kind (x.asid s) raddr raddr2 (s.core x.core).pts with
    serial := (s.core x.core).serial, slot := x.slot, warp := x.lead, pc := x.pc, openIn := x.members
    hstamp := (hintOf x.hints 4).map fun p => x.rs s (p % 64) }

/-- The lowest free entry of a core. -/
def freeEntryNo (s : State) (c : Nat) : Option Nat := (s.core c).ops.firstFree 256 0

/-- Puts an operation into an entry; the core's serial advances (12 R236). -/
def putOp (s : State) (c e : Nat) (op : OpEntry) : State :=
  s.modCore c fun x => { x with ops := x.ops.put e op, serial := x.serial + 1#32 }

/-- Writes a handle in every member; h0 takes none (12 Table 12.2; 05 R107). -/
def giveHandle (s : State) (x : Ix) (h : Nat) (v : Handle) : State :=
  if h = 0 then s else x.each s fun _ w => { w with hregs := setAt w.hregs h v }

/-- An operation has been issued: its handle, and the entries that no register names any more. -/
def issued (s : State) (x : Ix) (h e : Nat) : State :=
  match s.op? x.core e with
  | none => s
  | some op => freeOps (giveHandle s x h (.op e op.serial)) x.core

/-! ### Completion (12 R234; 09 R189) -/

/-- Release flag and counter of an operation's record: the shape record of a copy or transfer, the gather record, the job
card (12 Tables 12.3, 12.4; 11 Table 11.4). -/
def OpEntry.flags (op : OpEntry) : Bool × Option Nat :=
  let w := op.record
  match op.kind with
  | .gather _ => (recField w 5 1 1 == 1, if recField w 5 6 1 = 1 then some (recField w 5 7 12) else none)
  | .copy => (recField w 2 10 1 == 1, if recField w 2 14 1 = 1 then some (recField w 2 15 12) else none)
  | .xfer => (recField w 2 10 1 == 1, if recField w 2 14 1 = 1 then some (recField w 2 15 12) else none)
  | .matrix => (recField w 0 39 1 == 1, none)
  | _ => (false, none)

/-- Scope of its release and acquire flags. -/
def OpEntry.mscope (op : OpEntry) : Nat :=
  match op.kind with
  | .gather _ => recField op.record 5 3 3
  | .copy => recField op.record 2 11 3
  | .xfer => recField op.record 2 11 3
  | _ => 0

/-- The operation ends: with status 0 the release and the counter increment come first; its leave goes back, and its place in
the queue is free. -/
def opDone (s : State) (c e status : Nat) : State :=
  match engOp? s c e with
  | none => s
  | some op =>
    if op.complete then s
    else
      let s := match op.kind, s.block? c op.slot with
        | .matrix, some b => settleTiles s c b
        | _, _ => s
      let (rel, ctr) := op.flags
      let s := match op.pq, op.eseq with
        | some q, some n => voidReserved s [(q.pipe, n)]
        | _, _ => s
      let s := if status = 0 && rel then drainFlits s else s
      let s := match ctr with
        | some k => if status = 0 then ctrAdd (if c < ioCore || (rel && decide (3 ≤ op.mscope)) then
            ctrReleaseAt s c k op.mscope rel op.ets else s) k 1#64 else s
        | none => s
      let s := modEng s c e fun o =>
        { o with complete := true, consumed := true, status := status, suspended := false, leave := 0, got := [], eseq := none }
      if c < ioCore then
        freeOps ((returnLeave s c op.leave).modCore c fun x => x.dequeue e) c
      else s

/-- A fault of an operation: it suspends, or, a prologue copy that does not survive it, writes its record and ends (02 R43). -/
def engFault (s : State) (c e cause kind va : Nat) : State :=
  match engOp? s c e with
  | none => s
  | some op =>
    if prologueFatal c cause op then
      opDone (modEng (queueRecord s op.asid (engineWords s c op cause kind va) .event) c e fun o => { o with recorded := true }) c e
        cause
    else engSuspend s c e cause kind va

/-- A read that is no value: the operation suspends, ends, or waits. -/
def engStopRead (s : State) (c e : Nat) : ERead → State
  | .fault cause va => engFault s c e cause 4 va
  | .poison va => match engOp? s c e with
    | some op => if op.kind == .matrix then opDone s c e 0x095 else engFault s c e 0x095 4 va
    | none => s
  | .bad cause => opDone s c e cause
  | _ => s

/-- A write that has not been made. -/
def engStopWrite (s : State) (c e : Nat) : EWrite → State
  | .fault cause va => engFault s c e cause 5 va
  | .bad cause => opDone s c e cause
  | .ok => s

/-- The acquire flag, before the first read: the issuing core's dirty words go home (09 R189). -/
def engAcquire (s : State) (c e : Nat) (acq : Bool) : State :=
  match engOp? s c e with
  | some op =>
    if acq && decide (c < ioCore) then
      let s := flushCore s c op.asid false
      raiseEts s c e (s.core c).pts
    else s
  | none => s

/-! ### The operand word of an engine instruction (12 R227) -/

/-- The faults of a record address: a space of 3 or reserved bits, then the alignment. -/
def recordFault (malformed align : Nat) (v : DWord) : Option Nat :=
  if bits v 56 2 = 3 ∨ bits v 58 6 ≠ 0 then some malformed else if bits v 0 56 % align ≠ 0 then some 0x081 else none

/-- What the contract needs of an engine instruction. -/
def engineMeta (c : BitVec 2) (srcs : List Nat) (stamp : Bool) : Meta :=
  { sc := c.toNat, dist := 2, srcs := srcs.map Reg.s, stamp := stamp, handler := false, access := true }

/-- Issues an operation that has its leave: an entry, a place in a queue, the handle. -/
def startOp (x : Ix) (s : State) (kind : OpKind) (raddr raddr2 : DWord) (units h e : Nat) (queue : Core → Core) : State :=
  let op := { newOp s x kind raddr raddr2 with leave := units }
  let s := putOp s x.core e op
  let s := takeLeave s x.core x.slot x.lead x.pc
  issued (s.modCore x.core queue) x h e

/-- An engine instruction that asks for leave before it takes an entry (12 R226; 04 R94). -/
def issueWithLeave (x : Ix) (s : State) (kind : OpKind) (raddr raddr2 : DWord) (units h : Nat) (room : Bool) (full : Stall)
    (queue : Nat → Core → Core) : Res :=
  if !leaveGranted s x.core x.slot x.lead x.pc then .wait .leave fun s => askLeave s x.core x.slot x.lead x.pc units
  else match freeEntryNo s x.core with
    | none => .wait .engineFull id
    | some e => if room then .done (startOp x s kind raddr raddr2 units h e (queue e)) else .wait full id

end Sys2Proof.Machine
end

