-- ==== Sys2Proof/Machine/Copy.lean ====
section
/-! DEFINITION. The copy engine: the shape record, its checks, the elements of a copy, multicasts; CPY (12 R226 to R231; 08 R171,
R172). -/

namespace Sys2Proof.Machine

open Sys2Proof

/-! ### The shape record (12 R228) -/

/-- The fields of a shape record (12 Table 12.3). -/
structure Shape where
  src : Nat
  sspace : Nat
  dst : Nat
  dspace : Nat
  ndim : Nat
  /-- element bytes -/
  esz : Nat
  oob : Nat
  swz : Nat
  acq : Bool
  rel : Bool
  mscope : Nat
  ctren : Bool
  ctr : Nat
  fill : Nat
  /-- extents, plus one -/
  ext : List Nat
  pitch1 : Nat
  /-- signed starts -/
  start : List Int
  /-- box sizes, plus one -/
  box : List Nat
  mcast : Bool
  ordered : Bool
deriving DecidableEq, Repr

/-- Reads the fields of a shape record. -/
def shapeOf (w : List DWord) : Shape :=
  { src := recField w 0 0 56, sspace := recField w 0 56 2, dst := recField w 1 0 56, dspace := recField w 1 56 2
    ndim := recField w 2 0 3, esz := 2 ^ recField w 2 3 2, oob := recField w 2 5 2, swz := recField w 2 7 2
    acq := recField w 2 9 1 == 1, rel := recField w 2 10 1 == 1, mscope := recField w 2 11 3
    ctren := recField w 2 14 1 == 1, ctr := recField w 2 15 12, fill := recField w 2 32 32
    ext := [recField w 4 0 16 + 1, recField w 4 16 16 + 1, recField w 4 32 16 + 1, recField w 4 48 16 + 1, recField w 5 0 16 + 1]
    pitch1 := recField w 5 16 48
    start := [sextInt 16 (recField w 6 0 16), sextInt 16 (recField w 6 16 16), sextInt 16 (recField w 6 32 16),
      sextInt 16 (recField w 6 48 16), sextInt 16 (recField w 7 0 16)]
    box := [recField w 7 16 9 + 1, recField w 7 25 9 + 1, recField w 7 34 9 + 1, recField w 7 43 9 + 1, recField w 7 52 9 + 1]
    mcast := recField w 7 61 1 == 1, ordered := recField w 7 62 1 == 1 }

/-- Elements of the box. -/
def Shape.count (z : Shape) : Nat := z.box.foldl (· * ·) 1

/-- Bytes of the box. -/
def Shape.bytes (z : Shape) : Nat := z.esz * z.count

/-- The reserved bits of a shape record are zero. -/
def shapeReserved (w : List DWord) : Bool :=
  recField w 0 58 6 == 0 && recField w 1 58 6 == 0 && recField w 2 27 5 == 0 && recField w 7 63 1 == 0

/-- A dimension at or beyond ndim has a non-zero extent, start or box field. -/
def Shape.extra (z : Shape) : Bool :=
  (List.range 5).any fun d => decide (z.ndim ≤ d) && (z.ext.getD d 1 != 1 || z.start.getD d 0 != 0 || z.box.getD d 1 != 1)

/-! ### Multicast destination sets (12 Table 12.9) -/

/-- Field of the destination set, which stands in the fill word. -/
def Shape.setField (z : Shape) (lo n : Nat) : Nat := z.fill / 2 ^ lo % 2 ^ n

/-- Serialising slice. -/
def Shape.sslice (z : Shape) : Nat := z.setField 17 7

/-- The cores of a destination set (12 R231). -/
def Shape.dests (z : Shape) : List Nat :=
  (List.range 32).flatMap fun q => (List.range 4).filterMap fun k =>
    let col := q / 2 % 8
    let half := q / 16
    if z.setField 0 3 ≤ col ∧ col ≤ z.setField 3 3 ∧ z.setField 6 1 ≤ half ∧ half ≤ z.setField 7 1
        ∧ (z.setField 8 2).testBit (q % 2) ∧ (z.setField 10 4).testBit k then
      some (z.setField 14 3 * 128 + 4 * q + k) else none

/-- What a multicast record must not hold (12 R229); `alone` marks an XFER or a prologue copy. -/
def Shape.badMcast (z : Shape) (alone : Bool) : Bool :=
  (z.mcast && (alone || z.dspace != 3 || decide (2 ^ 22 ≤ z.dst) || z.oob == 2 || z.setField 24 8 != 0
    || decide (5 < z.setField 14 3) || decide (z.setField 3 3 < z.setField 0 3) || decide (z.setField 7 1 < z.setField 6 1)
    || z.dests.isEmpty))
  || (z.ordered && (!z.mcast || decide (95 < z.sslice)))

/-! ### The checks at acceptance (12 R229) -/

/-- A shape record is malformed: 0x106. -/
def shapeBad (w : List DWord) (alone : Bool) : Bool :=
  let z := shapeOf w
  !shapeReserved w || z.ndim == 0 || decide (5 < z.ndim) || z.oob == 3 || decide (5 < z.mscope) || z.extra
  || (z.pitch1 != 0 && (decide (z.pitch1 < z.esz * z.ext.getD 0 1) || z.pitch1 % z.esz != 0))
  || z.src % z.esz != 0 || z.dst % z.esz != 0
  || (z.swz != 0 && (z.dst % (16 * 2 ^ z.swz) != 0 || z.esz * z.box.getD 0 1 % (16 * 2 ^ z.swz) != 0))
  || (z.dspace == 3 && decide (z.esz < 4)) || decide (2 ^ 32 < z.bytes) || z.badMcast alone

/-- Some element of the box lies outside the extents. -/
def Shape.outside (z : Shape) : Bool :=
  (List.range 5).any fun d =>
    let a := z.start.getD d 0
    decide (a < 0) || decide ((z.ext.getD d 1 : Int) < a + z.box.getD d 1)

/-- The status with which a shape record is refused, if it is. -/
def shapeCause (s : State) (asid : Nat) (w : List DWord) (alone : Bool) : Option Nat :=
  let z := shapeOf w
  if shapeBad w alone then some 0x106
  else if z.ctren && !ownsCounter s asid z.ctr then some 0x14A
  else if z.oob == 0 && z.outside then some 0x107
  else none

/-! ### One element (12 R230) -/

/-- Position of element `k` in the box, dimension 0 fastest. -/
def Shape.pos (z : Shape) (k : Nat) : List Nat :=
  (z.box.foldl (fun (r : List Nat × Nat) b => (r.1 ++ [r.2 % b], r.2 / b)) ([], k)).1

/-- Offset of element `k` in the destination image, swizzled. -/
def Shape.off (z : Shape) (k : Nat) : Nat :=
  let o := z.esz * k
  if z.swz = 0 then o
  else
    let sp := 16 * 2 ^ z.swz
    let r := o / (z.esz * z.box.getD 0 1)
    let q := o % sp / 16
    o - o % sp + 16 * (q ^^^ (r % (sp / 16))) + o % 16

/-- Address of the source of element `k`, or none when it lies outside the extents. -/
def Shape.from_ (z : Shape) (k : Nat) : Option Nat :=
  let c : List Int := (z.pos k).zipIdx.map fun p => (p.1 : Int) + z.start.getD p.2 0
  if c.zipIdx.all fun p => decide (0 ≤ p.1) && decide (p.1 < (z.ext.getD p.2 1 : Int)) then
    let n (d : Nat) : Nat := (c.getD d 0).toNat
    let e (d : Nat) : Nat := z.ext.getD d 1
    let p1 := if z.pitch1 ≠ 0 then z.pitch1 else z.esz * e 0
    some ((z.src + z.esz * n 0 + p1 * (n 1 + e 1 * (n 2 + e 2 * (n 3 + e 3 * n 4)))) % 2 ^ 64)
  else none

/-- The value of an element outside the extents. -/
def Shape.fillValue (z : Shape) : Nat := if z.oob = 1 then 0 else z.fill % 2 ^ (8 * z.esz)

/-- Reads the source of element `k`. -/
def readElement (s : State) (c e : Nat) (op : OpEntry) (z : Shape) (k : Nat) : ERead × State :=
  match z.from_ k with
  | some a => engRead s c e op z.sspace z.esz a
  | none => (.ok z.fillValue, s)

/-- Destination address of element `k`. -/
def Shape.to_ (z : Shape) (k : Nat) : Nat := (z.dst + z.off k) % 2 ^ 64

/-- Moves element `k`: true when it has been moved, otherwise the operation has stopped or waits. With the last source element read the
operands are consumed (12 Table 12.5). -/
def moveElement (s : State) (c e : Nat) (op : OpEntry) (z : Shape) (k : Nat) : Bool × State :=
  match readElement s c e op z k with
  | (.ok v, s) =>
    let s := if k + 1 = z.count then modEng s c e fun o => { o with consumed := true } else s
    (match engWrite s c e op z.dspace z.esz (z.to_ k) v with
    | (.ok, s) => (true, s)
    | (r, s) => (false, engStopWrite s c e r))
  | (r, s) => (false, engStopRead s c e r)

/-! ### The frame check (08 R157) -/

/-- Checks the elements from `k` on whose destination lies in a frame, before any element is written. -/
def frameCheck (s : State) (c e : Nat) (op : OpEntry) (z : Shape) (k : Nat) : Nat → Bool × State
  | 0 => (true, s)
  | f + 1 =>
    match engPlace s c op z.dspace z.esz (z.to_ k) .engWrite with
    | (.logged cause, t) => (false, engStopWrite t c e (.fault cause (z.to_ k)))
    | (.at_ p, t) =>
      if p.at_.isFrame && !frameAllowed t op.asid z.esz p.at_ then (false, opDone t c e 0x088)
      else frameCheck t c e op z (k + 1) f
    | (_, t) => frameCheck t c e op z (k + 1) f

/-- Frames can be reached: through the window, or through a page of global space. -/
def Shape.mayFrame (z : Shape) : Bool := z.dspace == 3 || z.dspace == 0

/-! ### Multicast (12 R231; 08 R171, R172) -/

/-- Sends the image of a multicast whose last element has been read. -/
def sendMcast (s : State) (c e : Nat) (op : OpEntry) (z : Shape) : State :=
  let m : Mcast :=
    { dests := z.dests, slice := if z.ordered then some z.sslice else none, fwd := false, off := z.dst, bytes := op.image
      asid := op.asid, esz := z.esz, op := (c, e), serial := op.serial, refused := [] }
  modEng { s with mcasts := s.mcasts ++ [m] } c e fun o => { o with consumed := true, image := [] }

/-- Reads up to `fuel` elements of a multicast's image from `next` on, each of them once, and sends it (12 R231). -/
def mcastLoop (c e : Nat) (z : Shape) : Nat → State → State
  | 0, s => s
  | f + 1, s =>
    match engOp? s c e with
    | none => s
    | some op =>
      if z.count ≤ op.next then s
      else match readElement s c e op z op.next with
        | (.ok v, s) =>
          let part := (toBytes z.esz v).zipIdx.map fun b => (z.off op.next + b.2, b.1)
          let s := modEng s c e fun o => { o with next := op.next + 1, image := o.image ++ part }
          let s := match engOp? s c e with
            | some o => if z.count ≤ o.next then sendMcast s c e o z else s
            | none => s
          mcastLoop c e z f s
        | (r, s) => engStopRead s c e r

/-- Ends a multicast copy that every destination has received or refused: the status of the lowest refusing core. -/
def endMcast (s : State) (c e : Nat) : State :=
  let mine (m : Mcast) : Bool := m.op == (c, e) && (match engOp? s c e with | some o => m.serial == o.serial | none => false)
  let refused := (s.mcasts.filter mine).flatMap (·.refused)
  let least := refused.foldl (fun (r : Option (Nat × Nat)) q => match r with
    | some p => if q.1 < p.1 then some q else some p
    | none => some q) none
  let s := { s with mcasts := s.mcasts.filter fun m => !mine m }
  opDone s c e (match least with | some q => q.2 | none => 0)

/-- One destination core's own check of a multicast's writes (08 R157). -/
def mcastCause (s : State) (core : Nat) (m : Mcast) : Option Nat :=
  (List.range (m.bytes.length / m.esz)).findSome? fun i =>
    let o := m.off + (m.bytes.getD (i * m.esz) (0, 0)).1
    if 0x400000 ≤ o then some 0x082
    else match onChip (onChipBase + core * 0x400000 + o) with
      | none => some 0x082
      | some t => engWriteCause s true m.asid m.esz t

/-- A destination core performs the writes of a multicast, or none of them. -/
def mcastWrite (s : State) (core : Nat) (m : Mcast) : State :=
  (List.range (m.bytes.length / m.esz)).foldl (fun s i =>
    let part := (m.bytes.drop (i * m.esz)).take m.esz
    let o := m.off + (part.headD (0, 0)).1
    match onChip (onChipBase + core * 0x400000 + o) with
    | some t => (engStore s core m.asid 0#20 m.esz (ofBytes (part.map (·.2))) { at_ := t, cached := false } false).2
    | none => s) s

/-- A multicast may be delivered to a core: an ordered one in its slice's order. -/
def mcastReady (l : List Mcast) (i core : Nat) (m : Mcast) : Bool :=
  m.dests.contains core && (match m.slice with
    | none => true
    | some k => m.fwd && !(l.take i).any fun q => q.slice == some k && q.fwd && q.dests.contains core)

/-- MULTICAST_FORWARD: a serialising slice forwards an ordered multicast that reaches it; which of several is not specified
(log 3). -/
def execMulticastForward (slice : Nat) (s : State) : Host.Outcome State Fault Refusal :=
  .next (
    let todo := s.mcasts.zipIdx.filter fun m => m.1.slice == some slice && !m.1.fwd
    let (n, t) := s.draw
    match todo[n % todo.length]? with
    | none => s
    | some (m, i) => { t with mcasts := t.mcasts.eraseIdx i ++ [{ m with fwd := true }] })

/-- Packets that every destination has are forgotten when their operation has ended without them, and its entry may be free. -/
def dropDone (s : State) (op : Nat × Nat) : State :=
  match engOp? s op.1 op.2 with
  | some o =>
    if o.complete then
      freeOps { s with mcasts := s.mcasts.filter fun m => !(m.op == op && m.dests.isEmpty) } op.1
    else s
  | none => s

/-- MULTICAST_DELIVERY: a core receives one of the multicasts on their way to it. -/
def execMulticastDelivery (core : Nat) (s : State) : Host.Outcome State Fault Refusal :=
  .next (
    let todo := s.mcasts.zipIdx.filter fun m => mcastReady s.mcasts m.2 core m.1
    let (n, t) := s.draw
    match todo[n % todo.length]? with
    | none => s
    | some (m, i) =>
      let m' := { m with dests := m.dests.filter (· != core) }
      dropDone (match mcastCause t core m with
        | some c => { t with mcasts := setAt t.mcasts i { m' with refused := m.refused ++ [(core, c)] } }
        | none => { mcastWrite t core m with mcasts := setAt t.mcasts i m' }) m.op)

/-! ### Running a copy -/

/-- Writes of an earlier copy of the engine are on their way: the next one does not start reading (12 R230). -/
def copyBefore (s : State) (c e : Nat) : Bool :=
  (s.core c).ops.any fun p => p.1 != e && p.2.kind == .copy && p.2.complete && opBusy s c p.1

/-- A copy may move elements: head of its queue, accepted, with its leave, not suspended. -/
def copyRuns (s : State) (c e : Nat) (op : OpEntry) : Bool :=
  op.kind == .copy && !copyBefore s c e && op.accepted && !op.complete && !op.suspended && !op.waits && op.asks == 0 && (s.core c).copyQ.head? == some e

/-- What precedes the first element: the acquire, and the frame check; false when the copy has stopped there. -/
def copyBegin (s : State) (c e : Nat) (op : OpEntry) (z : Shape) : Bool × State :=
  if op.next = 0 then
    let s := engAcquire s c e z.acq
    if z.mayFrame && !z.mcast then frameCheck s c e op z 0 z.count else (true, s)
  else (true, s)

/-- Moves elements from `next` on, at most `fuel` of them. -/
def copyLoop (c e : Nat) (z : Shape) : Nat → State → State
  | 0, s => s
  | f + 1, s =>
    match engOp? s c e with
    | none => s
    | some op =>
      if z.count ≤ op.next then s
      else
        match moveElement s c e op z op.next with
        | (true, s) => copyLoop c e z f (engCount (modEng s c e fun o => { o with next := op.next + 1 }) c op.asid 1)
        | (false, s) => s

/-- Every element of a copy has been moved, and every remote write has completed. -/
def copyEnd (s : State) (c e : Nat) (z : Shape) : State :=
  match engOp? s c e with
  | none => s
  | some op => if z.count ≤ op.next && !op.complete && !engRemote s c e then opDone s c e 0 else s

/-- Moves up to `fuel` elements of a copy. -/
def copyRun (s : State) (c e fuel : Nat) : State :=
  match engOp? s c e with
  | none => s
  | some op =>
    if !copyRuns s c e op then s
    else
      let z := shapeOf op.record
      match copyBegin s c e op z with
      | (false, s) => s
      | (true, s) => if z.mcast then mcastLoop c e z fuel s else copyLoop c e z fuel s

/-- The rest of a copy, then its release, its counter increment and its completion (12 R230, R231). -/
def copyComplete (s : State) (core entry : Nat) (op : OpEntry) : State :=
  if copyRuns s core entry op then
    let z := shapeOf op.record
    let s := copyRun s core entry (z.count + 1)
    if z.mcast then
      (match engOp? s core entry with
        | some o => if o.next = z.count && !o.complete && !mcastOpen s core entry then endMcast s core entry else s
        | none => s)
    else copyEnd s core entry z
  else s

/-! ### Acceptance of a copy, and CPY -/

/-- The record of an operation with the STAMP hint's value in its stamp word (12 R227). -/
def withStampWord (i : Nat) (op : OpEntry) (ws : List DWord) : List DWord :=
  match op.hstamp with
  | some v => setAt ws i v
  | none => ws

/-- Reads an operation's record of `n` words, unless it came with its launch (02 R43). -/
def readRecord (s : State) (c e : Nat) (op : OpEntry) (n : Nat) : Except ERead (List DWord) × State :=
  if op.record.isEmpty then engReadMany s c e op (bits op.raddr 56 2) (bits op.raddr 0 56) n [] else (.ok op.record, s)

/-- A copy is accepted: its record is read and checked (12 R229). -/
def acceptCopy (s : State) (c e : Nat) : State :=
  match engOp? s c e with
  | none => s
  | some op =>
    if op.accepted || op.complete || op.suspended then s
    else match readRecord s c e op 8 with
      | (.error r, s) => engStopRead s c e r
      | (.ok ws, s) =>
        let ws := withStampWord 3 op ws
        let s := modEng s c e fun o => { o with record := ws, got := [] }
        match shapeCause s op.asid ws (op.warp == 0x1F) with
        | some cause => opDone s c e cause
        | none => modEng s c e fun o => { o with accepted := true }

/-- An earlier operation of the same queue has not been accepted (12 R230: acceptance in issue order). -/
def acceptFirst (s : State) (c e : Nat) (op : OpEntry) : Bool :=
  let q := match op.kind with
    | .copy => (s.core c).copyQ
    | .gather k => (s.core c).gathQ.getD k []
    | .xfer => (s.core c).xferQ
    | _ => []
  ((q.takeWhile (· != e)).all fun k => match s.op? c k with | some o => o.accepted | none => true)

/-- The operation of a CPY that waits at its instruction. -/
def waitingCopy (s : State) (x : Ix) : Option Nat :=
  ((s.core x.core).ops.find? fun p =>
    p.2.kind == .copy && p.2.waits && p.2.slot == x.slot && p.2.warp == x.lead && p.2.pc == x.pc).map (·.1)

/-- A CPY whose entry is taken goes on: it waits for the acceptance of those before it, for its record, or for leave; or it has
issued (12 R230). -/
def copyIssue (x : Ix) (h e : Nat) (s : State) : Option Stall × State :=
  let s := match s.op? x.core e with
    | some op => if acceptFirst s x.core e op then acceptCopy s x.core e else s
    | none => s
  match s.op? x.core e with
  | none => (none, s)
  | some op =>
    if op.complete then (none, issued (modEng s x.core e fun o => { o with waits := false }) x h e)
    else if op.suspended then (some .faultService, s)
    else if !op.accepted then (some .memory, s)
    else if 65536 < (shapeOf op.record).bytes then
      if leaveGranted s x.core x.slot x.lead x.pc then
        let s := takeLeave s x.core x.slot x.lead x.pc
        (none, issued (modEng s x.core e fun o => { o with waits := false, leave := 1 }) x h e)
      else (some .leave, askLeave s x.core x.slot x.lead x.pc 1)
    else (none, issued (modEng s x.core e fun o => { o with waits := false }) x h e)

/-- Takes an entry and a place in the copy queue for a CPY. -/
def takeCopy (x : Ix) (v : DWord) (e : Nat) (s : State) : State :=
  (putOp s x.core e { newOp s x .copy v 0#64 with waits := true }).modCore x.core fun k => { k with copyQ := k.copyQ ++ [e] }

/-- CPY (12 R226, R227; 18 R346). -/
def execCpy (c : BitVec 2) (h : BitVec 4) (a : BitVec 6) (s : State) : Host.Outcome State Fault Refusal :=
  .next (issue (.cpy c h a) (engineMeta c [a.toNat] true) noExtra (fun x s => recordFault 0x106 64 (x.rs s a.toNat))
    (fun x s =>
      let run (s : State) (e : Nat) : Option Stall × State := copyIssue x h.toNat e s
      match waitingCopy s x with
      | some e => (match run s e with
        | (none, t) => .done t
        | (some r, _) => .wait r fun s => (run s e).2)
      | none =>
        if 16 ≤ (s.core x.core).copyQ.length then .wait .engineFull id
        else match freeEntryNo s x.core with
          | none => .wait .engineFull id
          | some e => (match run (takeCopy x (x.rs s a.toNat) e s) e with
            | (none, t) => .done t
            | (some r, _) => .wait r fun s => (run (takeCopy x (x.rs s a.toNat) e s) e).2)) s)

end Sys2Proof.Machine
end

