-- ==== Sys2Proof/Machine/CmdAccess.lean ====
section
/-! DEFINITION. The accesses of the command processor for a packet, its waits for firmware, and the records and notifications
it writes (04 R78, R83, R453). -/

namespace Sys2Proof.Machine

open Sys2Proof

/-! ### One access (04 R453) -/

/-- The number under which the pod-remote accesses of a packet wait, where a core is named. -/
def cpCore : Nat := 769

/-- Why an access for a packet does not go on. -/
inductive PStop where
  /-- a translation or permission fault, which waits for firmware: cause and virtual address -/
  | fault (cause va : Nat)
  /-- another cause, or one that firmware has delivered: the access ends -/
  | bad (cause va : Nat)
  /-- another device has been asked -/
  | waits
deriving DecidableEq, Repr

/-- A translation or permission fault (04 R453): 0x082 and 0x095 are among the other causes. -/
def servedCause (c : Nat) : Bool := decide (0x090 ≤ c) && decide (c ≤ 0x097) && c != 0x095

/-- Bytes that one access moves outside HBM: the widest aligned size. -/
def partSize (va n : Nat) : Nat :=
  if va % 8 = 0 ∧ 8 ≤ n then 8 else if va % 4 = 0 ∧ 4 ≤ n then 4 else if va % 2 = 0 ∧ 2 ≤ n then 2 else 1

/-- Translates an address for a packet. -/
def cpPlace (s : State) (p : Packet) (va : Nat) (acc : Acc) : Except PStop Phys × State :=
  match p.fault with
  | some (c, a) =>
    if a = va then (.error (.bad c va), s)
    else match translateIo s p.asid va acc with
      | (.ok q, s) => (.ok q, s)
      | (.error c, s) => (.error (if servedCause c then .fault c va else .bad c va), s)
  | none =>
    if 2 ^ 56 ≤ va then (.error (.bad 0x080 va), s)
    else match translateIo s p.asid va acc with
      | (.ok q, s) => (.ok q, s)
      | (.error c, s) => (.error (if servedCause c then .fault c va else .bad c va), s)

/-- Bytes of a line from an address on, at most `n`. -/
def linePart (va n : Nat) : Nat := if 128 - va % 128 < n then 128 - va % 128 else n

/-- Reads a target for a packet; `direct`: from HBM itself, past L2 (04 R89). -/
def cpReadAt (s : State) (k : Nat) (p : Packet) (direct : Bool) (va n : Nat) (q : Phys) : Except PStop (List Byte) × State :=
  match q.at_ with
  | .hbm pa =>
    if poisoned s pa n then (.error (.bad 0x095 va), s)
    else if direct then (.ok (Mem.readN s.mem pa n), s)
    else let (bs, _, s) := readHome s pa n 0#20
      (.ok bs, s)
  | .remote rank addr => match p.got.find? fun g => g.1 == va with
    | some g => (.ok (toBytes n g.2), s)
    | none => (.error .waits, engAsk s cpCore k p.asid rank addr va n)
  | t => match engReadCause s p.asid n t with
    | some c => (.error (.bad c va), s)
    | none => let (v, s) := loadAt s 0 p.asid n q .relaxed
      (.ok (toBytes n v), s)

/-- The bytes that one access at a target moves. -/
def cpChunk (q : Phys) (va n : Nat) : Nat := match q.at_ with | .hbm _ => linePart va n | _ => partSize va n

/-- Reads `n` bytes from `va` for a packet; `fuel` bounds the accesses. -/
def cpRead (k : Nat) (p : Packet) (direct : Bool) : Nat → Nat → Nat → List Byte → State → Except PStop (List Byte) × State
  | 0, _, _, acc, s => (.ok acc, s)
  | f + 1, va, n, acc, s =>
    if n = 0 then (.ok acc, s)
    else match cpPlace s p va .engRead with
      | (.error e, s) => (.error e, s)
      | (.ok q, s) =>
        let m := cpChunk q va n
        match cpReadAt s k p direct va m q with
        | (.error e, s) => (.error e, s)
        | (.ok bs, s) => cpRead k p direct f (va + m) (n - m) (acc ++ bs) s

/-- Reads bytes for a packet through the homes. -/
def cpBytes (s : State) (k : Nat) (p : Packet) (va n : Nat) : Except PStop (List Byte) × State := cpRead k p false (n + 1) va n [] s

/-- The highest lease time of any core: what a release of the command processor carries (DEDUCED, log 17). -/
def maxPts (s : State) : BitVec 20 := s.cores.foldl (fun t c => tsMax t c.2.pts) 0#20

/-- Writes a target for a packet; `direct`: to HBM itself; otherwise at home, as a release (04 R78, R86, R89). -/
def cpWriteAt (s : State) (k : Nat) (p : Packet) (direct : Bool) (va : Nat) (bs : List Byte) (q : Phys) : Except PStop Unit × State :=
  match q.at_ with
  | .hbm pa =>
    if poisoned s pa bs.length then (.error (.bad 0x095 va), s)
    else if direct then (.ok (), { s with mem := Mem.writeN s.mem pa bs })
    else (.ok (), (writeHome s pa bs (maxPts s) true).2)
  | .remote rank addr => (.ok (), engTell s cpCore k p.asid rank addr va bs.length (ofBytes bs))
  | t => match engWriteCause s false p.asid bs.length t with
    | some c => (.error (.bad c va), s)
    | none => (.ok (), (engStore s 0 p.asid 0#20 bs.length (ofBytes bs) q true).2)

/-- Writes bytes from `va` on for a packet; answers how many were written, and why it stopped if it did. -/
def cpWrite (k : Nat) (p : Packet) (direct : Bool) : Nat → Nat → List Byte → Nat → State → Nat × Option PStop × State
  | 0, _, _, done, s => (done, none, s)
  | f + 1, va, bs, done, s =>
    if bs.isEmpty then (done, none, s)
    else match cpPlace s p va .engWrite with
      | (.error e, s) => (done, some e, s)
      | (.ok q, s) =>
        let m := cpChunk q va bs.length
        match cpWriteAt s k p direct va (bs.take m) q with
        | (.error e, s) => (done, some e, s)
        | (.ok _, s) => cpWrite k p direct f (va + m) (bs.drop m) (done + m) s

/-! ### Waiting for firmware -/

/-- The fault record of an access for a packet, in the layout of an engine's (04 R453; 10 Table 10.6). -/
def cpWords (s : State) (asid cause kind va : Nat) : List DWord :=
  [BitVec.ofNat 64 (cause + kind * 2 ^ 9 + asid * 2 ^ 12), BitVec.ofNat 64 (va % 2 ^ 56), 0#64, 0#64,
    BitVec.ofNat 64 (0x1F * 2 ^ 22 + 2 ^ 31), 0#64, s.kalends, 0#64]

/-- The access of a packet waits for firmware. -/
def cpSuspend (s : State) (k cause kind va : Nat) : State :=
  match s.pkts.get? k with
  | none => s
  | some p => queueRecord (s.modPkt k fun p => { p with waiting := true }) p.asid (cpWords s p.asid cause kind va) (.packet k)

/-! ### Records and notifications -/

/-- The layout of Table 4.4. -/
def recordBytes (s : State) (pseq : DWord) (status : Nat) (downgrade : Bool) (ring : Nat) (launch : BitVec 32) (offset : Nat) :
    List Byte :=
  toBytes 8 pseq.toNat ++ toBytes 8 (status % 2 ^ 9 + b2n downgrade * 2 ^ 9 + ring % 2 ^ 10 * 2 ^ 10 + launch.toNat * 2 ^ 32)
    ++ toBytes 8 s.kalends.toNat ++ toBytes 8 (offset % 2 ^ 16)

/-- Writes a record of the device for a packet, whole or not at all: true once nothing more is to be done. A record that
cannot be written is reported to the host (04 R453). -/
def cpRecord (s : State) (k : Nat) (p : Packet) (va : Nat) (bs : List Byte) : Bool × State :=
  let stop (e : PStop) (s : State) : Bool × State := match e with
    | .fault c a => (false, cpSuspend s k c 5 a)
    | .bad c _ => (true, hostEvent s (some p.asid) c va (0x1F * 2 ^ 22))
    | .waits => (false, s)
  match cpPlace s p va .engWrite with
  | (.error e, s) => stop e s
  | (.ok _, s) => match cpPlace s p (va + bs.length - 1) .engWrite with
    | (.error (.fault c _), s) => stop (.fault c (va + bs.length - 1)) s
    | (.error e, s) => stop e s
    | (.ok _, s) => match cpWrite k p false (bs.length + 1) va bs 0 s with
      | (_, some e, s) => stop e s
      | (_, none, s) => (true, s)

/-- A packet that is only the writing of a ring's error record. -/
def errorWriter (s : State) (ring : Nat) (d : Ring) (bs : List Byte) : Packet :=
  { ring := ring, asid := d.asid, kind := 0, pseq := 0, crec := d.erec, notify := false, barrier := false, launch := 0
    body := bs, handles := [], st := .acting, since := s.kalends.toNat, offset := 0, downgrade := false, moved := 0
    cores := [], fault := none, got := [], waiting := false, ts := 0 }

/-- Tries again to write an error record that has waited. -/
def retryError (s : State) (k : Nat) : State :=
  match s.pkts.get? k with
  | none => s
  | some p =>
    let (done, s) := cpRecord s k p p.crec.toNat p.body
    if done then { s with pkts := s.pkts.del k } else s

/-- A ring stops: its state, its error record, and a notification (04 R83, R86). -/
def stopRing (s : State) (ring : Nat) (d : Ring) (pseq : DWord) (cause : Nat) (launch : BitVec 32) (offset : Nat) : State :=
  let bs := recordBytes s pseq cause false ring launch offset
  let k := s.nextPkt
  let s := { s with
    rings := s.rings.put ring { d with running := false }
    pkts := s.pkts.put k (errorWriter s ring d bs), nextPkt := k + 1 }
  sendDatagram (retryError s k) 2 bs

end Sys2Proof.Machine
end

