-- ==== Sys2Proof/Machine/Arms.lean ====
section
/-! DEFINITION. Removal of arm-table entries (13 R244), and the TLBs of the device as a whole (10 R199, R200; 19 R367;
22 R427). -/

namespace Sys2Proof.Machine

open Sys2Proof

/-! ### The arm table -/

/-- An entry's page meets a range of a context; an entry of the heap triple has no page. -/
def Arm.meets (e : Arm) (asid lo hi : Nat) : Bool :=
  let base := e.va / 2 ^ e.lg * 2 ^ e.lg
  e.asid == asid && e.lg != 0 && decide (base < hi) && decide (lo < base + 2 ^ e.lg)

/-- The record of an entry that has been removed: cause 0x14B, the counter as its detail (13 R244; 14 R279). -/
def armRecord (s : State) (e : Arm) : State := queueRecord s e.asid (eventWords s e.asid 0x14B e.ctr 0) .event

/-- Removes the entries that a condition selects; each writes a record (13 R244). -/
def removeArms (s : State) (p : Arm → Bool) : State :=
  let gone := s.arms.filter p
  gone.foldl armRecord { s with arms := s.arms.filter fun e => !p e }

/-! ### TLBs -/

/-- Every TLB entry of the device. -/
def allEntries (s : State) : List TlbEntry :=
  s.cores.flatMap (fun c => c.2.itlb ++ c.2.dtlb) ++ s.dies.flatMap fun d => d.2.tlb

/-- Writes the gathered flags of the entries that a condition selects (10 R199). -/
def gatherFlags (s : State) (p : TlbEntry → Bool) : State := (((allEntries s).filter p).filter (·.dirtied)).foldl gatherDirty s

/-- Changes every TLB of the device. -/
def mapTlbs (s : State) (f : List TlbEntry → List TlbEntry) : State :=
  { s with
    cores := s.cores.map fun (c : Nat × Core) => (c.1, { c.2 with itlb := f c.2.itlb, dtlb := f c.2.dtlb })
    dies := s.dies.map fun (d : Nat × Die) => (d.1, { d.2 with tlb := f d.2.tlb }) }

/-- Writes the gathered flags of selected entries, and clears them in the entries that stay (19 R367). -/
def harvest (s : State) (p : TlbEntry → Bool) : State :=
  mapTlbs (gatherFlags s p) fun l => l.map fun e => if p e then { e with dirtied := false } else e

/-- Writes the gathered flags of selected entries and drops them (22 R427). -/
def dropEntries (s : State) (p : TlbEntry → Bool) : State := mapTlbs (gatherFlags s p) fun l => l.filter fun e => !p e

end Sys2Proof.Machine
end

