-- ==== Sys2Proof/Machine/Fence.lean ====
section
/-! DEFINITION. FENCE, PREF, DISC and CFLUSH, major 0x20, with the leaf pages of a range (18 R342 to R345; 19 R362, R363;
20 R386, R387; 10 R203). -/

namespace Sys2Proof.Machine

open Sys2Proof

/-! ### FENCE -/

/-- Order and scope of a FENCE: its MEMORD hint, or acq_rel at system scope (19 R362). -/
def fenceHow (hs : List Word) : How := if (hintOf hs 2).isSome then howOf hs else { order := 3, scope := 5, cu := false, cache := 0 }

/-- Earlier loads of the split, and atomics that return a value, are still with another device (19 R363). -/
def remoteReads (s : State) (c slot warp split : Nat) : Bool := remotePending s c slot warp split fun r => !r.dst.isEmpty

/-- What a FENCE waits for (19 R363). -/
def fenceWaits (h : How) (x : Ix) (s : State) : Bool :=
  (h.order % 2 == 1 && x.members.any fun m => remoteReads s x.core x.slot m x.split) || x.remoteHeld s h

/-- A fence's cache actions: a release's writes home; the partials that its scope covers merge, whatever its order (08 R167; 09
R180); an acquire takes on the lease time of what the split's earlier reads outside the caches have seen. A warp-scope fence takes
none (19 R363). -/
def fenceEffect (h : How) (x : Ix) (s : State) : State :=
  let s := if h.releases then releaseCore s x.core (x.asid s) h.scope else s
  let s := if 1 ≤ h.scope then mergeCovered s x.core h.scope else s
  if h.acquires then
    x.members.foldl (fun s m => match s.split? x.core x.slot m x.split with
      | some q => raisePts s x.core q.seen
      | none => s) s
  else s

/-- FENCE (19 R362, R363). -/
def execFence (c : BitVec 2) (s : State) : Host.Outcome State Fault Refusal :=
  .next (issue (.fence c) { sc := c.toNat, dist := 2, mem := some (.fence, false), access := true } noExtra noUniform
    (fun x s =>
      let h := fenceHow x.hints
      if fenceWaits h x s then .wait .memory id
      else .done (fenceEffect h x s)) s)

/-! ### PREF -/

/-- A prefetch of a line: a fill asked of the home, or the line brought into L2 only; none without a miss-status entry
(20 R387). -/
def prefetch (s : State) (c asid va : Nat) : State :=
  if 2 ^ 56 ≤ va then s
  else if missFull s c || s.rebasing then s
  else match translate s c asid va .load with
    | (.error _, s) => s
    | (.ok p, s) => match p.at_ with
      | .hbm pa =>
        let a := lineOf pa
        if !p.cached then (fetchLine s a).2
        else if (s.core c).mshr.any (fun e => e.1 == a) then s
        else s.modCore c fun k => { k with mshr := k.mshr ++ [(a, .fill asid)] }
      | _ => s

/-- PREF (20 R386, R387). -/
def execPref (c : BitVec 2) (a : BitVec 6) (s : State) : Host.Outcome State Fault Refusal :=
  .next (issue (.pref c a) { sc := c.toNat, dist := 2, srcs := [.s a.toNat] } noExtra noUniform
    (fun x s => .done (prefetch s x.core (x.asid s) (x.rs s a.toNat).toNat)) s)

/-! ### The pages of a range -/

/-- A leaf page: virtual base, size, address of its entry, entry. -/
structure Leaf where
  va : Nat
  lg : Nat
  addr : Nat
  pte : DWord
deriving DecidableEq, Repr

/-- A page-table entry as its home holds it. -/
def peekEntry (s : State) (addr : Nat) : DWord := BitVec.ofNat 64 (ofBytes (peekHbm s addr 8))

/-- The present, well-formed leaves under a node that meet [lo, hi), in ascending order (10 R196, R197). -/
def leavesFrom (s : State) (node va lo hi : Nat) : List Nat → List Leaf
  | [] => []
  | level :: rest =>
    (List.range 1024).flatMap fun i =>
      let size := 2 ^ (16 + 10 * level)
      let base := va + i * size
      let addr := node + 8 * i
      if base + size ≤ lo ∨ hi ≤ base ∨ hbmEnd ≤ addr then []
      else
        let e := peekEntry s addr
        if !bit e 0 then []
        else if bit e 1 then
          if leafMalformed e level then [] else [{ va := base, lg := 16 + 10 * level, addr := addr, pte := e }]
        else if nodeMalformed e level then []
        else leavesFrom s (bits e 13 39 * 2 ^ 13) base lo hi rest

/-- The leaves of a context in a range. -/
def leavesIn (s : State) (asid lo hi : Nat) : List Leaf := leavesFrom s (bits (s.ctx asid).root 13 39 * 2 ^ 13) 0 lo hi [3, 2, 1, 0]

/-- A leaf of HBM of this device. -/
def Leaf.local (e : Leaf) : Bool := bits e.pte 9 2 == 0 && (target 0 (leafPa e.pte e.lg e.va)).isSome

/-- Physical base of a leaf page. -/
def Leaf.pa (e : Leaf) : Nat := leafPa e.pte e.lg e.va

/-! ### CFLUSH -/

/-- The physical ranges of HBM that a virtual range reaches: the triple's part, and the pages outside the triple
(18 R343, R344). -/
def physRanges (s : State) (asid lo hi : Nat) : List (Nat × Nat) :=
  let x := s.ctx asid
  let h0 := x.hbase.toNat
  let h1 := x.hbase.toNat + x.hlimit.toNat
  let tri : List (Nat × Nat) :=
    let a := if lo < h0 then h0 else lo
    let b := if hi < h1 then hi else h1
    if a < b then [((a + x.hoff.toNat) % 2 ^ 52, (a + x.hoff.toNat) % 2 ^ 52 + (b - a))] else []
  let cut (a b : Nat) : List (Nat × Nat) :=
    if h1 ≤ h0 then [(a, b)]
    else [(a, if b < h0 then b else h0), (if a < h1 then h1 else a, b)].filter fun p => decide (p.1 < p.2)
  tri ++ ((leavesIn s asid lo hi).filter Leaf.local).flatMap fun e =>
    (cut (if e.va < lo then lo else e.va) (if hi < e.va + 2 ^ e.lg then hi else e.va + 2 ^ e.lg)).map fun p =>
      (e.pa + (p.1 - e.va), e.pa + (p.2 - e.va))

/-- A line meets a physical range. -/
def lineIn (a : Nat) (p : Nat × Nat) : Bool := decide (128 * a < p.2) && decide (p.1 < 128 * (a + 1))

/-- Writes a dirty L2 line back to HBM; it stays, clean (18 R344). -/
def cleanLine (s : State) (a : Nat) : State :=
  match s.l2.get? a with
  | some h =>
    if h.dirty then
      { s with
        mem := hbmStore s.mem a h.data
        l2 := s.l2.put a { h with dirty := false }
        poison := if h.poison && !s.poison.contains a then a :: s.poison else s.poison }
    else s
  | none => s

/-- CFLUSH of the lines of the ranges (18 R344). -/
def flushRanges (s : State) (c asid : Nat) (rs : List (Nat × Nat)) : State :=
  let hit (a : Nat) : Bool := rs.any (lineIn a)
  let s := ((s.l2.map (·.1)).filter hit).foldl mergeLine s
  let mine := dedup (((s.core c).l1d.map (·.1) ++ (s.core c).mshr.map (·.1)).filter hit)
  let s := mine.foldl (fun s a => flushLine s c asid a false) s
  ((s.l2.map (·.1)).filter hit).foldl cleanLine s

/-- The range of CFLUSH and DISC ends above 2^56 (18 R343). -/
def rangeFault (a b : BitVec 6) (x : Ix) (s : State) : Option Nat :=
  let n := (x.rs s b.toNat).toNat
  if n ≠ 0 ∧ 2 ^ 56 < (x.rs s a.toNat).toNat + n then some 0x080 else none

/-- CFLUSH (18 R342 to R344). -/
def execCflush (c : BitVec 2) (a b : BitVec 6) (s : State) : Host.Outcome State Fault Refusal :=
  .next (issue (.cflush c a b) { sc := c.toNat, dist := 2, srcs := [.s a.toNat, .s b.toNat], access := true } noExtra
    (rangeFault a b)
    (fun x s =>
      let lo := (x.rs s a.toNat).toNat
      let n := (x.rs s b.toNat).toNat
      if n = 0 then .done s
      else .done (flushRanges s x.core (x.asid s) (physRanges s (x.asid s) lo (lo + n)))) s)

/-! ### DISC (10 R203) -/

/-- A page that DISC acts on: wholly covered, local and writable. The page's own frame is discarded also where the heap triple covers
some of its addresses, which reach other frames and are untouched (DEDUCED, log 56). -/
def Leaf.discardable (lo hi : Nat) (e : Leaf) : Bool :=
  e.local && bit e.pte 3 && decide (lo ≤ e.va) && decide (e.va + 2 ^ e.lg ≤ hi)

/-- Drops a page's entries from every TLB, gathered flags and all. -/
def dropPage (s : State) (asid : Nat) (e : Leaf) : State :=
  let keep (t : TlbEntry) : Bool := !(t.asid == asid && t.va / 2 ^ e.lg == e.va / 2 ^ e.lg)
  { s with
    cores := s.cores.map fun c => (c.1, { c.2 with itlb := c.2.itlb.filter keep, dtlb := c.2.dtlb.filter keep })
    dies := s.dies.map fun d => (d.1, { d.2 with tlb := d.2.tlb.filter keep }) }

/-- Discards one line: dropped everywhere without write-back, updates lost, then zero at home by the issuing core; the zeroing
counts in no armed range (13 R244). -/
def discardLine (s : State) (c a : Nat) : State :=
  let s := dropPartials s a
  let s := { s with
    cores := s.cores.map fun (k : Nat × Core) =>
      (k.1, { k.2 with l1d := k.2.l1d.del a, mshr := k.2.mshr.filter fun e => e.1 != a })
    poison := s.poison.filter (· != a) }
  let s := match s.l2.get? a with
    | some h => { s with l2 := s.l2.put a { h with cu := false, poison := false } }
    | none => s
  let (w, s) := homeWrite s a (s.core c).pts (fun _ => 0#1024) [] false
  s.modCore c fun k => { k with pts := w }

/-- Discards a page. -/
def discardPage (s : State) (c asid : Nat) (e : Leaf) : State :=
  let v := ((e.pte ||| 0x80#64) &&& ~~~0x40#64).toNat
  let s := (writeHome s e.addr (toBytes 8 v) 0#20 false).2
  let s := removeArms (dropPage s asid e) fun a => a.meets asid e.va (e.va + 2 ^ e.lg)
  (List.range (2 ^ e.lg / 128)).foldl (fun s i => discardLine s c (lineOf e.pa + i)) s

/-- DISC (18 R342, R343, R345; 10 R203). -/
def execDisc (c : BitVec 2) (a b : BitVec 6) (s : State) : Host.Outcome State Fault Refusal :=
  .next (issue (.disc c a b) { sc := c.toNat, dist := 2, srcs := [.s a.toNat, .s b.toNat], access := true } noExtra
    (rangeFault a b)
    (fun x s =>
      let asid := x.asid s
      let lo := (x.rs s a.toNat).toNat
      let hi := lo + (x.rs s b.toNat).toNat
      .done (((leavesIn s asid lo hi).filter (Leaf.discardable lo hi)).foldl
        (fun s e => discardPage s x.core asid e) s)) s)

end Sys2Proof.Machine
end

