-- ==== Sys2Proof/Machine/Items.lean ====
section
/-! DEFINITION. Launch queues, items, refilling a warp, vacating lanes, retiring a warp, and the hot set (02 R23 to R46;
04 R91, R92). -/

namespace Sys2Proof.Machine

open Sys2Proof

/-! ### Queues (02 R23, R24) -/

/-- An item taken from a queue: its value, and, for a pipe item, the pipe, the number and the stamp. -/
structure Taken where
  val : DWord
  from_ : Option (Nat × Nat × DWord)
deriving DecidableEq, Repr

/-- Every item of the queue has been assigned, and none will come (02 Table 2.2). -/
def queueExhausted (s : State) (g : Grid) : Bool :=
  match g.qpipe with
  | none => g.returned.isEmpty && decide (g.stop ≤ g.next)
  | some key => match s.pipes.get? key with
    | some p => p.eos && (p.returned.filter fun n => p.st? n == some .filled).isEmpty
    | none => true

/-- An item is pending (02 Table 2.2). -/
def queuePending (s : State) (g : Grid) : Bool :=
  match g.qpipe with
  | none => !g.returned.isEmpty || decide (g.next < g.stop)
  | some key => match s.pipes.get? key with
    | some p => p.nextItem?.isSome
    | none => false

/-- The record of the pipe home for a slot withheld for its header (03 R50): kind 7, cause 0x145, detail the sequence number. -/
def slotCorrupt (s : State) (asid n place : Nat) : State :=
  queueRecord s asid (eventWords s asid 0x145 n place) .event

/-- Withholds the slots about to be assigned whose headers fail their check, so that the next pending item, if there is one, has a good
header (03 R50); `fuel` bounds their number. -/
def screenSlots (gk : Nat) : Nat → State → State
  | 0, s => s
  | fuel + 1, s =>
    match (s.grids.get? gk).bind fun g => g.qpipe.map fun key => (g, key) with
    | none => s
    | some (g, key) =>
      match (s.pipes.get? key).bind fun p => p.nextItem?.map fun n => (p, n) with
      | none => s
      | some (p, n) =>
        if headerOk (p.slots.getD n (Slot.blank .filled)).hdr then s
        else screenSlots gk fuel (slotCorrupt (retainSlot s key n) g.asid (n % 2 ^ 48) (0x1F * 2 ^ 22))

/-- Slots that a taking may withhold at most. -/
def takeFuel : Nat := 4097

/-- Takes the next item for a block (02 R24; 03 R50). -/
def takeItem (s : State) (gk c slot : Nat) : Option Taken × State :=
  let s := screenSlots gk takeFuel s
  match s.grids.get? gk with
  | none => (none, s)
  | some g =>
    match g.qpipe with
    | none =>
      match g.returned with
      | n :: r => (some { val := BitVec.ofNat 64 n, from_ := none }, s.modGrid gk fun g => { g with returned := r })
      | [] =>
        if g.next < g.stop then
          (some { val := BitVec.ofNat 64 g.next, from_ := none }, s.modGrid gk fun g => { g with next := g.next + 1 })
        else (none, s)
    | some key =>
      match (s.pipes.get? key).bind fun p => p.nextItem?.map fun n => (p, n) with
      | none => (none, s)
      | some (p, n) =>
        let h := (p.slots.getD n (Slot.blank .filled)).hdr
        (some { val := p.addrOf n, from_ := some (key, n, headerStamp h) }, deliver s c key n (.item c slot))

/-- Takes up to `k` items, in queue order. -/
def takeItems (s : State) (gk c slot : Nat) : Nat → List Taken × State
  | 0 => ([], s)
  | k + 1 => match takeItem s gk c slot with
    | (none, s) => ([], s)
    | (some t, s) => let (r, s) := takeItems s gk c slot k; (t :: r, s)

/-! ### Assignment (02 R32) -/

/-- Lanes of a warp that may receive an item. -/
def eligible (n : Nat) (live : Mask) : Mask := lanesMask ((maskLanes (~~~live)).filter (· < n))

/-- Changes one lane of a vector by a function of the lane. -/
def Vec.upd (v : Vec) (m : Mask) (f : Nat → Word) : Vec := Vec.of fun l => if inMask m l then f l else v.lane l

/-- Helper lanes after live lanes changed: those that complete a quad with a live lane (02 R32, R34). -/
def helpersOf (live : Mask) : Mask :=
  (List.range 16).foldl (fun h k => if live &&& quadMask k != 0#64 then h ||| (quadMask k &&& ~~~live) else h) 0#64

/-- Lowest live lane of a lane's quad. -/
def quadLead (live : Mask) (l : Nat) : Nat := (lowestLane (live &&& quadMask (l / 4))).getD l

/-- Gives a warp items: each pair names a lane and the item it receives (02 R27, R32, R34). -/
def Warp.assign (w : Warp) (gets : List (Nat × Taken)) : Warp :=
  let got := lanesMask (gets.map (·.1))
  let val (l : Nat) : DWord := match gets.find? fun p => p.1 == l with | some p => p.2.val | none => 0#64
  let live := w.live ||| got
  let help := helpersOf live
  let item := Vec.upd w.item got fun l => (val l).setWidth 32
  let hi := Vec.upd w.itemhi got fun l => (val l >>> 32).setWidth 32
  let fresh := help &&& ~~~w.helper
  let pairs := gets.filterMap fun p => p.2.from_.map fun f => (f.1, f.2.1, p.1)
  { w with
    live := live
    helper := help
    item := Vec.upd item fresh fun l => item.lane (quadLead live l)
    itemhi := Vec.upd hi fresh fun l => hi.lane (quadLead live l)
    itemage := Vec.upd w.itemage got fun l => w.itemage.lane l + 1#32
    refills := if got = 0#64 then w.refills else w.refills + 1
    stamp := match gets with
      | (_, t) :: _ => (match t.from_ with | some f => f.2.2 | none => w.stamp)
      | [] => w.stamp
    pipeItems := pairs.foldl (fun l p =>
      if l.any (fun q => q.1 == p.1 && q.2.1 == p.2.1) then
        l.map fun q => if q.1 = p.1 ∧ q.2.1 = p.2.1 then (q.1, q.2.1, q.2.2 ||| laneBit p.2.2) else q
      else l ++ [(p.1, p.2.1, laneBit p.2.2)]) w.pipeItems
    splits := w.splits.map fun p => if p.valid then { p with em := (live ||| help) &&& p.lanes } else p }

/-- Assigns items to a warp as its granularity asks (02 R25, R32); answers the mask of lanes that received one. A block item
goes to every member of the block that has not retired (DEDUCED, log 13). -/
def assignItems (s : State) (c slot m : Nat) : Mask × State :=
  match s.block? c slot, s.warp? c slot m with
  | some b, some w =>
    let e := eligible b.kernel.lanesN w.live
    let mates := if b.kernel.items = 2 then
        (List.range b.warps.length).filter fun k => match b.warps[k]? with | some x => !x.retired | none => false
      else [m]
    let nothing (s : State) : State := mates.foldl (fun s k => s.modWarp c slot k fun w => w.assign []) s
    if (s.core c).assignsNothing then (0#64, nothing s)
    else if b.kernel.items = 0 then
      let (ts, s) := takeItems s b.grid c slot (maskLanes e).length
      let gets := (maskLanes e).zip ts
      (lanesMask (gets.map (·.1)), s.modWarp c slot m fun w => w.assign gets)
    else
      let vacant := mates.all fun k => match b.warps[k]? with | some x => x.live == 0#64 | none => true
      if !vacant || w.live != 0#64 then (0#64, nothing s)
      else
        match takeItem s b.grid c slot with
        | (none, s) => (0#64, nothing s)
        | (some t, s) =>
          let s := mates.foldl (fun s k => s.modWarp c slot k fun w =>
            w.assign ((maskLanes (eligible b.kernel.lanesN w.live)).map fun l => (l, t))) s
          (e, if b.kernel.items = 2 then s.modBlock c slot fun b => { b with blockItem := some t.val } else s)
  | _, _ => (0#64, s)

/-! ### Vacating (02 R27, R29) -/

/-- The pipe numbers that lose their last holding lane of a block when a warp's lanes in `gone` vacate. -/
def endedNumbers (b : Block) (m : Nat) (gone : Mask) : List (Nat × Nat) :=
  match b.warps[m]? with
  | none => []
  | some w => (w.pipeItems.filter fun q => q.2.2 &&& ~~~gone == 0#64).filterMap fun q =>
      let others := b.warps.zipIdx.any fun x => x.2 != m && x.1.pipeItems.any fun r => r.1 == q.1 && r.2.1 == q.2.1
      if others then none else some (q.1, q.2.1)

/-- Accesses of a warp are still to be performed: by another device, or in the operand log. -/
def warpBusy (s : State) (c slot m : Nat) : Bool :=
  (s.remPend.any fun p => p.2.core == c && p.2.slot == slot && p.2.warp == m)
  || (s.core c).oplog.any fun e => e.2.slot == slot && e.2.warp == m

/-- Lanes of warps are about to vacate, a slot is freed with them, and a warp that held it has accesses still to be performed: the freeing
is ordered after them (02 R27). -/
def itemsWait (s : State) (c slot : Nat) (l : List (Nat × Mask)) : Bool :=
  match s.block? c slot with
  | none => false
  | some b =>
    let holds (m : Nat) (key n : Nat) : Bool := match b.warps[m]? with
      | some w => w.pipeItems.any fun q => q.1 == key && q.2.1 == n && (q.2.2 &&& ~~~(match l.find? fun p => p.1 == m with
          | some p => p.2
          | none => 0#64)) != 0#64
      | none => false
    let ms := List.range b.warps.length
    l.any fun p => match b.warps[p.1]? with
      | none => false
      | some w => w.pipeItems.any fun q =>
          q.2.2 &&& ~~~p.2 == 0#64 && !(ms.any fun m => holds m q.1 q.2.1)
          && ((if b.kernel.items = 2 then ms else [p.1]).any fun m => warpBusy s c slot m)

/-- Ends the items of a warp's lanes: a pipe slot is freed when its last holding lane vacates (02 R27). -/
def endItems (s : State) (c slot m : Nat) (gone : Mask) : State :=
  match s.block? c slot with
  | none => s
  | some b =>
    let ended := endedNumbers b m gone
    let s := s.modWarp c slot m fun w =>
      { w with pipeItems := (w.pipeItems.map fun q => (q.1, q.2.1, q.2.2 &&& ~~~gone)).filter fun q => q.2.2 != 0#64 }
    let s := ended.foldl (fun s q => freeNumber s c q.1 q.2) s
    let vals := ended.filterMap fun q => (s.pipes.get? q.1).map fun p => p.addrOf q.2
    s.modBlock c slot fun b => { b with marked := b.marked.filter fun v => !vals.contains v }

/-- Vacates live lanes and the helper lanes whose quads hold no live lane then (02 R29). -/
def Warp.vacate (w : Warp) (gone : Mask) : Warp :=
  let live := w.live &&& ~~~gone
  let help := w.helper &&& helpersOf live
  let keep := live ||| help
  { w with live := live, helper := help, splits := w.splits.map fun p => { p with em := p.em &&& keep } }

/-- A block none of whose warps holds a live lane holds no block item. -/
def Block.dropItem (b : Block) : Block := if b.warps.all fun w => w.live == 0#64 then { b with blockItem := none } else b

/-! ### The hot set (04 R91, R92) -/

/-- Placement count `a` was placed earlier than `b` (04 R91). -/
def placedBefore (a b : BitVec 32) : Bool := let d := (b - a).toNat; 1 ≤ d && d < 2 ^ 31

/-- A cold warp is ready: it could issue if it were hot, and the waits of its next instruction are satisfied, as the last cycle
found them (04 R91, R92). -/
def Warp.coldReady (w : Warp) : Bool :=
  w.started && !w.retired && !w.suspended && !w.rftWait && !w.refillBlocked && !w.hot
  && w.splits.any fun q => q.valid && !q.jwait && (!q.rwait || q.redo.isSome) && !q.faultWait && !q.stall.waits

/-- The warps of a core, with slot and number. -/
def coreWarps (s : State) (c : Nat) : List (Nat × Nat × Warp) :=
  (s.blocks.filter fun p => p.1 / 96 == c).flatMap fun p => p.2.warps.zipIdx.map fun w => (p.1 % 96, w.2, w.1)

/-- The earliest-placed ready cold warp of a quarter. -/
def coldNext (s : State) (c q : Nat) : Option (Nat × Nat × Warp) :=
  match (coreWarps s c).filter fun w => w.2.2.quarter == q && w.2.2.coldReady with
  | [] => none
  | a :: r => some (r.foldl (fun a b => if placedBefore b.2.2.order a.2.2.order then b else a) a)

/-- A warp enters the hot set, and restages its region if it names any group (04 R92). -/
def enterHot (s : State) (c slot m : Nat) : State :=
  s.modWarp c slot m fun w =>
    { w with hot := true, restaging := w.region != 0#14, staged := 0, idle := 0, waitSince := s.cycle.toNat }

/-- Free hot places of a quarter go to the earliest-placed ready cold warps at once (04 R92); `fuel` bounds their number. -/
def fillHot (s : State) (c q : Nat) : Nat → State
  | 0 => s
  | fuel + 1 =>
    if 8 ≤ ((coreWarps s c).filter fun w => w.2.2.quarter == q && w.2.2.hot).length then s
    else match coldNext s c q with
      | none => s
      | some (slot, m, _) => fillHot (enterHot s c slot m) c q fuel

/-! ### Retirement (02 R44; 18 R352) -/

/-- The signature record of a retiring warp, compared with the context's table (15 R289). -/
def signatureRecord (s : State) (c slot m : Nat) : State :=
  match s.block? c slot, s.warp? c slot m with
  | some b, some w =>
    if !bit (s.ctx b.asid).dbgctl 7 then s
    else
      let sig := w.valid.foldl (fun x p => x ^^^ p.2.sig) 0#64
      let mine (e : DWord × DWord) : Bool :=
        bit e.1 17 && bits e.1 0 12 == b.number.toNat % 2 ^ 12 && bits e.1 12 5 == m
      let differs := !w.restarted && (s.ctx b.asid).sigs.any fun e => mine e.2 && e.2.2 != sig
      let s := if differs then s.modCtx b.asid fun x =>
          { x with sigs := x.sigs.map fun e => if mine e.2 && e.2.2 != sig then (e.1, (e.2.1 ||| 0x40000#64, e.2.2)) else e }
        else s
      let launch := match s.grids.get? b.grid with | some g => g.launch.toNat | none => 0
      writeSample s b.asid 4
        [placeWord s c slot m, sig, BitVec.ofNat 64 (launch + b2n differs * 2 ^ 32 + b2n w.restarted * 2 ^ 33)]
  | _, _ => s

/-- Results of a warp are pending: it retires only once they are written (18 R352). -/
def Warp.pendingResults (w : Warp) : Bool :=
  (w.splits ++ (match w.frozen with | some f => f.1 | none => [])).any fun p => p.wins.any fun x => x.pend != .done

/-- A warp retires: its live lanes' items end, its reserved numbers become void, handles and streams are dropped, a frozen
split table is discarded, and its hot place goes on (18 R352). -/
def retireWarp (s : State) (c slot m : Nat) : State :=
  match s.warp? c slot m with
  | none => s
  | some w =>
    if w.retired then s
    else
      let s := signatureRecord s c slot m
      let s := endItems s c slot m w.live
      let s := dropLeave (voidReserved s w.reserved) c slot m
      let s := s.modWarp c slot m fun w =>
        { w.vacate w.live with
          retired := true, hot := false, restaging := false, helper := 0, reserved := [], pipeItems := []
          hregs := List.replicate 16 .empty, qregs := List.replicate 8 none, frozen := none
          splits := List.replicate 8 Split.empty, refillBlocked := false, refillSince := none }
      let s := s.modBlock c slot Block.dropItem
      fillHot (dropUnbound s c) c w.quarter 8

end Sys2Proof.Machine
end

