-- ==== Sys2Proof/Machine/Work.lean ====
section
/-! DEFINITION. EXIT, EXITL, the three REFILLs, GROW and REGION (02 R29 to R37; 05 R102; 18 R351 to R353; 20 R395). -/

namespace Sys2Proof.Machine

open Sys2Proof

/-! ### EXIT -/

/-- Retires the members of an instance; what they no longer hold up goes on (02 R39, R44), and entries that only their handles
named are free (12 R226). -/
def retireMembers (x : Ix) (ms : List Nat) (s : State) : State :=
  freeOps (settleAll (ms.foldl (fun s m => retireWarp s x.core x.slot m) s) x.core x.slot) x.core

/-- Some member has results that are pending. -/
def Ix.pending (x : Ix) (s : State) : Bool := (x.warps s).any fun p => p.2.pendingResults

/-- EXIT waits: from its issue on no other split of its warps issues (18 R352). -/
def exitWaits (x : Ix) (s : State) : State :=
  x.each s fun _ w => { w with exiting := (w.splits[x.split]?).map fun q => (x.split, q.pc) }

/-- EXIT retires every member, once its pending results and logged lanes are written (18 R351, R352), and once every access before the
slots that it frees has been performed (02 R27). -/
def execExit (c : BitVec 2) (s : State) : Host.Outcome State Fault Refusal :=
  .next (issue (.exit c) { sc := c.toNat, dist := 2 } noExtra noUniform
    (fun x s =>
      if x.pending s then .wait .lookahead (exitWaits x)
      else if itemsWait s x.core x.slot ((x.warps s).map fun p => (p.1, p.2.live)) then .wait .memory (exitWaits x)
      else .done (retireMembers x x.members s)) s)

/-! ### EXITL -/

/-- A split that EXITL emptied becomes invalid while another valid split exists; its lanes and its pending results join the
lowest-numbered remaining split (06 R122). -/
def dropEmptied (w : Warp) (k : Nat) : Warp :=
  match w.splits[k]? with
  | none => w
  | some p =>
    if p.lanes &&& w.live != 0#64 then w
    else
      match findIdx (fun q : Split × Nat => q.1.valid && q.2 != k) w.splits.zipIdx with
      | none => w
      | some (n, _) =>
        let table := modAt w.splits n fun q => { q with lanes := q.lanes ||| p.lanes, wins := q.wins ++ p.wins }
        { w with splits := setAt table k Split.empty }

/-- The refill point of a block's kernel (02 R30). -/
def Block.refillPc (b : Block) : BitVec 64 := b.kernel.entry + BitVec.ofNat 64 (4 * b.kernel.refill)

/-- The splits that wait at a REFILL reconverge once no other split holds a live lane (02 R31): the merged split issues the
REFILL. -/
def refillMerge (w : Warp) (pc : BitVec 64) : Warp :=
  if w.refillSince.isSome && w.reached pc then
    match findIdx (fun p : Split => p.waitsAt pc) w.splits with
    | none => w
    | some (k, _) =>
      { w with refillSince := none, splits := modAt (mergeAll w.splits k) 0 fun p => { p with rwait := false, stall := .ready } }
  else w

/-- EXITL in its warp: items end, lanes vacate, an emptied split goes, and what waited for those lanes goes on. -/
def exitLanes (x : Ix) (mask : Mask) (s : State) : State :=
  let s := endItems s x.core x.slot x.lead mask
  let pc := match x.block? s with | some b => b.refillPc | none => 0#64
  let s := s.modWarp x.core x.slot x.lead fun w =>
    refillMerge (joinSettle (dropEmptied (w.vacate mask) x.split) s.cycle.toNat) pc
  settleAll (s.modBlock x.core x.slot Block.dropItem) x.core x.slot

/-- EXITL: the named lanes that are live and active; the freeing of a slot follows every access before it (02 R27, R29; 18 R353). -/
def execExitl (r : BitVec 6) (s : State) : Host.Outcome State Fault Refusal :=
  .next (issue (.exitl r) { sc := 0, dist := 2, srcs := [.s r.toNat], handler := false } noExtra noUniform
    (fun x s =>
      match x.warp? s x.lead with
      | none => .done s
      | some w =>
        let mask := w.s r.toNat &&& w.live &&& x.em w
        if itemsWait s x.core x.slot [(x.lead, mask)] then .wait .memory id else .done (exitLanes x mask s)) s)

/-! ### REFILL -/

/-- The word stands at the refill point and its form is the kernel's (02 R30). -/
def atRefill (form : Nat) (b : Block) (q : Split) : Bool := q.pc == b.refillPc && b.kernel.items == form

/-- Another split that holds a live lane has not reached the refill point (02 R31). -/
def reconverging (x : Ix) (w : Warp) : Bool :=
  w.splits.zipIdx.any fun p => p.2 != x.split && p.1.valid && p.1.lanes &&& w.live != 0#64 && !p.1.waitsAt x.pc

/-- The split waits for the others at the refill point (02 R31). -/
def waitRefill (x : Ix) (s : State) : State :=
  s.modWarp x.core x.slot x.lead fun w =>
    { w with
      refillSince := some (w.refillSince.getD s.cycle.toNat)
      refillLimit := if w.refillSince.isSome then w.refillLimit else (s.ctx (x.asid s)).timeout
      splits := modAt w.splits x.split fun p => { p with rwait := true } }

/-- Every valid split of the members merges into slot 0 (02 R31). -/
def reconverge (x : Ix) (s : State) : State :=
  x.each s fun _ w => { w with splits := mergeAll w.splits x.split, refillSince := none }

/-- Nothing is pending and more may come, for a warp or block with no live lane (02 R33). -/
def refillBlocks (x : Ix) (s : State) : Bool :=
  match x.block? s with
  | none => false
  | some b => match s.grids.get? b.grid with
    | none => false
    | some g =>
      ((x.warps s).all fun p => p.2.live == 0#64) && !queuePending s g && !queueExhausted s g
        && !(s.core x.core).assignsNothing

/-- The grid of an instance's block. -/
def Ix.gridKey (x : Ix) (s : State) : Nat := match x.block? s with | some b => b.grid | none => 0

/-- A REFILL that finds its queue exhausted is ordered after every commit of the pipe and its close (09 Table 9.5). -/
def queueEnd (x : Ix) (s : State) : State :=
  match s.grids.get? (x.gridKey s) with
  | none => s
  | some g => match g.qpipe.bind fun key => s.pipes.get? key with
    | some p => if queueExhausted s g then raisePts s x.core p.endTs else s
    | none => s

/-- REFILL's own computation in the members of an instance (02 R32, R44): the lead draws; each member gets its mask; a member
left with no live lane retires. -/
def refillMembers (x : Ix) (r : Nat) (s : State) : State :=
  let (got, s) := assignItems s x.core x.slot x.lead
  let s := x.each s fun _ w => w.setS r got
  let s := if got = 0#64 then queueEnd x s else pmCount s x.core (x.asid s) 12 1
  let idle := (x.warps s).filterMap fun p => if p.2.live == 0#64 then some p.1 else none
  retireMembers x idle s

/-- The effect of a REFILL once its warp has reconverged: slots whose headers fail their check are withheld first (03 R50). -/
def refillEffect (x : Ix) (r : Nat) (s : State) : Res :=
  let screened (s : State) : State := screenSlots (x.gridKey s) takeFuel s
  if refillBlocks x (screened s) then
    .wait .emptyPipe fun s => x.each (reconverge x (screened s)) fun _ w => { w with refillBlocked := true }
  else
    let t := refillMembers x r (reconverge x (screened s))
    if (x.warps s).any (fun p => p.2.pendingResults) && (x.warps t).any (fun p => p.2.retired) then .wait .lookahead id
    else .done t

/-- REFILL of lane or warp items: it waits for the warp's other splits, then refills. -/
def refillWarpForm (i : Instr) (sc form : Nat) (r : BitVec 6) (s : State) : State :=
  issue i { sc := sc, dist := 2, dsts := [.s r.toNat], handler := false } (atRefill form) noUniform
    (fun x s =>
      match x.warp? s x.lead with
      | none => .done s
      | some w => if reconverging x w then .wait .rendezvous (waitRefill x) else refillEffect x r.toNat s) s

/-- REFILL: lane items (02 R32). -/
def execRefill (r : BitVec 6) (s : State) : Host.Outcome State Fault Refusal := .next (refillWarpForm (.refill r) 0 0 r s)

/-- REFILL.warp: one item for the warp (02 R32). -/
def execRefillWarp (r : BitVec 6) (s : State) : Host.Outcome State Fault Refusal :=
  .next (refillWarpForm (.refillWarp r) 1 1 r s)

/-- REFILL.block: the block rendezvous, then one item for the block (02 R31, R32). -/
def execRefillBlock (r : BitVec 6) (s : State) : Host.Outcome State Fault Refusal :=
  .next (issue (.refillBlock r) { sc := 3, dist := 2, dsts := [.s r.toNat], handler := false } (atRefill 2) noUniform
    (fun x s => refillEffect x r.toNat s) s)

/-! ### GROW, REGION -/

/-- The faults of GROW: a pipe queue, or a range that would pass 2^64 (02 R37). -/
def growFault (x : Ix) (s : State) (r : BitVec 6) : Option Nat :=
  match (x.block? s).bind fun b => s.grids.get? b.grid with
  | none => none
  | some g =>
    if g.qpipe.isSome then some 0x1A0 else if 2 ^ 64 < g.stop + (x.rs s r.toNat).toNat then some 0x1A1 else none

/-- GROW: the lead's count is added to the end of the grid's own range (02 R37). -/
def execGrow (c : BitVec 2) (r : BitVec 6) (s : State) : Host.Outcome State Fault Refusal :=
  .next (issue (.grow c r) { sc := c.toNat, dist := 2, srcs := [.s r.toNat], handler := false } noExtra
    (fun x s => growFault x s r)
    (fun x s => match x.block? s with
      | none => .done s
      | some b => .done (s.modGrid b.grid fun g => { g with stop := g.stop + (x.rs s r.toNat).toNat })) s)

/-- REGION: the groups to stage; the slice keeps those it holds, the others are copied as time passes, and a copy of a dropped
group is abandoned (05 R102). -/
def execRegion (g : BitVec 14) (s : State) : Host.Outcome State Fault Refusal :=
  .next (issue (.region g) { sc := 1, dist := 2, handler := false } noExtra noUniform
    (fun x s => .done (x.each s fun _ w => { w with region := g, staged := w.staged &&& g })) s)

end Sys2Proof.Machine
end

