-- ==== Sys2Proof/Machine/Place.lean ====
section
/-! DEFINITION. The distributor's view of a core: room, placing a block, retiring one, halting a core, and the completion of
a grid (02 R40 to R46; 04 R90; 19 R366). -/

namespace Sys2Proof.Machine

open Sys2Proof

/-! ### Room (02 R40; 04 R90) -/

/-- The core takes blocks: in service, no halt or handoff pending (01 R14; 02 R46; 19 R366). -/
def Core.takesBlocks (c : Core) : Bool := !c.assignsNothing && !c.withdrawn

/-- The resident blocks of a core, with their slots. -/
def coreBlocks (s : State) (c : Nat) : List (Nat × Block) :=
  (s.blocks.filter fun p => p.1 / 96 == c).map fun p => (p.1 % 96, p.2)

/-- Free warp slots of a core; a retired warp keeps its slot until its block retires (02 R44). -/
def freeWarps (s : State) (c : Nat) : Nat := 96 - (coreWarps s c).length

/-- Warp slots in use, per quarter. -/
def quarterUse (s : State) (c : Nat) : List Nat :=
  (List.range 4).map fun q => ((coreWarps s c).filter fun w => w.2.2.quarter == q).length

/-- Quarters of warps in the order of their numbers: w mod 4, or the next with a free slot (04 R90). -/
def quartersFor (use : List Nat) : List Nat → Option (List Nat)
  | [] => some []
  | w :: r =>
    match (List.range 4).find? fun k => decide (use.getD ((w + k) % 4) 0 < 24) with
    | none => none
    | some k => (quartersFor (modAt use ((w + k) % 4) (· + 1)) r).map fun l => (w + k) % 4 :: l

/-- A range `[a, a + n)` meets none of a list of ranges. -/
def clearOf (taken : List (Nat × Nat)) (a n : Nat) : Bool :=
  taken.all fun p => decide (a + n ≤ p.1) || decide (p.1 + p.2 ≤ a)

/-- The lowest base, of those given, of `n` free units below `top`. -/
def firstFit (taken : List (Nat × Nat)) (n top : Nat) (bases : List Nat) : Option Nat :=
  if n = 0 then some 0 else bases.find? fun a => decide (a + n ≤ top) && clearOf taken a n

/-- A number rounded up to a multiple. -/
def ceilTo (n k : Nat) : Nat := (n + k - 1) / k * k

/-- Room that a core has for one block. -/
structure Room where
  slot : Nat
  quarters : List Nat
  tile : Nat
  scr : Nat
deriving DecidableEq, Repr

/-- Room on a core for a block of a kernel with its operation entries free: a block slot (or the named one), warp slots,
registers, tiles, scratch; one block with an inbound window at most (02 R40, R43; 05 R96, R108; 08 R156, R158). -/
def room? (s : State) (c : Nat) (k : Kernel) (copies : Nat) (slot : Option Nat) : Option Room :=
  let x := s.core c
  let bs := coreBlocks s c
  let regs := k.warps * (k.d + k.i)
  let tiles := bs.map fun b => (b.2.tileBase, b.2.kernel.t)
  let scrs := bs.map fun b => (b.2.scrBase, b.2.scrSize)
  if !x.takesBlocks || decide (768 ≤ c) || decide (6144 < regs + (bs.map fun b => b.2.regCount).sum)
      || (k.inbound && bs.any fun b => b.2.kernel.inbound) || decide (256 < x.ops.length + copies)
      || decide (16 < x.copyQ.length + copies) then none
  else
    match (match slot with
        | some n => if s.blocks.has (State.blockKey c n) then none else some n
        | none => (List.range 96).find? fun n => !s.blocks.has (State.blockKey c n)),
      quartersFor (quarterUse s c) (List.range k.warps), firstFit tiles k.t 8 (List.range 8),
      firstFit scrs (ceilTo k.scratch 1024) 0x80000 ((List.range 512).map (· * 1024)) with
    | some n, some q, some t, some a => some { slot := n, quarters := q, tile := t, scr := a }
    | _, _, _, _ => none

/-- The core with the most free warp slots, then the lowest number, among those with room (04 R90). -/
def bestCore (s : State) (k : Kernel) (copies : Nat) (cs : List Nat) : Option (Nat × Room) :=
  cs.foldl (fun r c => match room? s c k copies none with
    | none => r
    | some m => match r with
      | none => some (c, m)
      | some (b, _) =>
        if freeWarps s b < freeWarps s c ∨ (freeWarps s b = freeWarps s c ∧ c < b) then some (c, m) else r) none

/-! ### Placing a block -/

/-- A warp as its block is placed: nothing has run in it (05 R97, Table 5.4; 06 R118). -/
def Warp.placed (k : Kernel) (quarter : Nat) (order : BitVec 32) : Warp :=
  { started := false, retired := false, quarter := quarter, order := order, hot := false, restaging := false, waitSince := 0,
    mayAt := 0, idle := 0, lastIssue := 0, keepUntil := 0, swapFirst := false, yielded := false, region := 0, staged := 0, live := 0, helper := 0, refills := 0, stamp := 0,
    item := Vec.splat 0, itemhi := Vec.splat 0, itemage := Vec.splat 0, rseed := Vec.of fun l => BitVec.ofNat 32 (l + 1),
    fpm := 0, fpflags := 0, batch := 0, ets := 0, splits := List.replicate 8 Split.empty,
    vregs := List.replicate (k.d + k.i) (Vec.splat 0), sregs := List.replicate 64 0#64,
    xregs := List.replicate 8 (Vec.splat 0), hregs := List.replicate 16 .empty, qregs := List.replicate 8 none,
    tctx := List.replicate 8 0#64, frozen := none, rftWait := false, rftSince := 0, rftLimit := 0, trapMembers := [], suspended := false,
    xshuf := none, restarted := false, refillBlocked := false, refillSince := none, refillLimit := 0, reserved := [], pipeItems := []
    exiting := none }

/-- Puts a prologue copy on the block's copy engine (02 R43). -/
def putPrologue (s : State) (c slot asid : Nat) (record : List DWord) : State :=
  match freeEntryNo s c with
  | none => s
  | some e =>
    let op := { OpEntry.fresh .copy asid 0#64 0#64 (s.core c).pts with
                serial := (s.core c).serial, slot := slot, record := record }
    let s := (putOp s c e op).modCore c fun x => { x with copyQ := x.copyQ ++ [e] }
    s.modBlock c slot fun b => { b with prologue := b.prologue ++ [e] }

/-- A die on which a block is placed is active, and the package out of retention (16 R298, R299). -/
def wakeDie (s : State) (d : Nat) : State := ungateDie (wakePackage s) d

/-- Places the next block of a grid on a core that has room (02 R40 to R43; 04 R90, R91). -/
def placeIn (s : State) (gk : Nat) (g : Grid) (c : Nat) (m : Room) (gang : BitVec 32) (gpos : Nat) : State :=
  let k := g.kernel
  let first := (s.core c).order
  let b : Block :=
    { asid := g.asid, grid := gk, number := BitVec.ofNat 32 g.placed, gang := gang, gpos := gpos, gsize := k.gsize,
      spans := false, kernel := k
      warps := m.quarters.zipIdx.map fun q => Warp.placed k q.1 (first + BitVec.ofNat 32 q.2)
      sets := List.replicate 8 [], setInst := [], blockInst := none, gcountB := 0, gcountG := 0, tileBase := m.tile,
      scrBase := m.scr, scrSize := ceilTo k.scratch 1024, regCount := k.warps * (k.d + k.i), held := [],
      blockItem := none, marked := [], prologue := [], ready := g.prologues.isEmpty, stopped := false, frozen := false,
      supervisor := g.supervisor, saving := false, restored := false }
  let s := wakeDie (s.setBlock c m.slot b) (coreDie c)
  let s := match s.pkts.get? g.pkt with | some p => raisePts s c p.ts | none => s
  let s := s.modCore c fun x => { x with order := x.order + BitVec.ofNat 32 k.warps }
  let s := s.modGrid gk fun g => { g with placed := g.placed + 1, resident := g.resident + 1 }
  g.prologues.foldl (fun s w => putPrologue s c m.slot g.asid w) s

/-- Places the blocks of a gang from position `pos` on, each on the best of the given cores; none when one finds no room. -/
def placeBlocks (gk : Nat) (cs : List Nat) (gang : BitVec 32) : Nat → Nat → State → Option State
  | 0, _, s => some s
  | n + 1, pos, s =>
    match s.grids.get? gk with
    | none => none
    | some g => match bestCore s g.kernel g.prologues.length cs with
      | none => none
      | some (c, m) => placeBlocks gk cs gang n (pos + 1) (placeIn s gk g c m gang pos)

/-- Blocks of a gang, by key. -/
def gangKeys (s : State) (gk : Nat) (gang : BitVec 32) : List Nat :=
  (s.blocks.filter fun p => p.2.grid == gk && p.2.gang == gang).map (·.1)

/-- Marks a gang whose blocks lie on more than one die. -/
def markSpan (s : State) (gk : Nat) (gang : BitVec 32) : State :=
  let dies := dedup ((gangKeys s gk gang).map fun k => coreDie (k / 96))
  if dies.length ≤ 1 then s
  else { s with blocks := s.blocks.map fun p =>
      if p.2.grid = gk ∧ p.2.gang = gang then (p.1, { p.2 with spans := true }) else p }

/-- The whole gang placed, on one die if one has room, else over several for a `far` gang with spanning permission
(04 R90). -/
def placeGang (s : State) (gk : Nat) : Option State :=
  match s.grids.get? gk with
  | none => none
  | some g =>
    let gang := BitVec.ofNat 32 g.gangs
    let n := g.kernel.gsize
    let onDie (d : Nat) : List Nat := g.share.filter fun c => coreDie c == d
    let dies := (dedup (g.share.map coreDie)).filter fun d => (placeBlocks gk (onDie d) gang n 0 s).isSome
    let done := match bestCore s g.kernel g.prologues.length (g.share.filter fun c => dies.contains (coreDie c)) with
      | some (c, _) => placeBlocks gk (onDie (coreDie c)) gang n 0 s
      | none => if g.kernel.far && g.span then placeBlocks gk g.share gang n 0 s else none
    done.map fun s => markSpan (s.modGrid gk fun g =>
      { g with gangs := g.gangs + 1, downgrade := g.downgrade || (g.kernel.far && !g.span) }) gk gang

/-- A block of its own, placed (04 R90). -/
def placeLone (s : State) (gk : Nat) : Option State :=
  match s.grids.get? gk with
  | none => none
  | some g => (placeBlocks gk g.share (BitVec.ofNat 32 g.gangs) 1 0 s).map fun s =>
      s.modGrid gk fun g => { g with gangs := g.gangs + 1, downgrade := g.downgrade || (g.kernel.far && !g.span) }

/-- Which grid a core goes to first: priority, then the earlier launch, then the lower stage (04 R90). -/
def Grid.before (a b : Grid) : Bool :=
  decide (b.prio < a.prio) || (a.prio == b.prio &&
    (placedBefore a.launch b.launch || (a.launch == b.launch && decide (a.stage < b.stage))))

/-- The gangs of a grid are held by a holiday, until its step 5 (13 Table 13.10). -/
def gangHeld (s : State) (g : Grid) : Bool :=
  decide (1 < g.kernel.gsize) && s.holidays.any fun h => h.2.asid == g.asid && decide (3 ≤ h.2.stepNo)

/-- A grid may place a new block: it runs, its context is not suspended nor its gangs held, an item is pending, nothing is to be
restored. A block of its own takes its items as it is placed, so that with an item pending its first warp receives one (02 R26;
DEDUCED, log 31). -/
def placeable (s : State) (g : Grid) : Bool :=
  !g.complete && !g.cancelled && !(s.ctx g.asid).suspended && !gangHeld s g && queuePending s g && g.restore.isEmpty

/-- The blocks of a grid's gang take their items as they are placed, in block index order (02 R26). -/
def gangItems (s : State) (gk : Nat) (gang : BitVec 32) : State :=
  (List.range 64).foldl (fun s pos =>
    match s.blocks.find? fun p => p.2.grid == gk && p.2.gang == gang && p.2.gpos == pos with
    | none => s
    | some (k, b) => (List.range b.warps.length).foldl (fun s m => (assignItems s (k / 96) (k % 96) m).2) s) s

/-- The placement of new blocks that a grid would make now. -/
def placement (s : State) (gk : Nat) (g : Grid) : Option State :=
  if !placeable s g then none else if g.kernel.gsize = 1 then placeLone s gk else placeGang s gk

/-- Cores on which a placement puts blocks. -/
def newCores (old new : State) : List Nat :=
  dedup ((new.blocks.filter fun p => !old.blocks.has p.1).map fun p => p.1 / 96)

/-! ### Starting a warp (02 R26) -/

/-- Starts a warp, with the items that it received as its block was placed; one with none retires at once. -/
def startWarp (s : State) (c slot m : Nat) : State :=
  match s.block? c slot, s.warp? c slot m with
  | some b, some w =>
    if !b.ready || b.stopped || b.frozen || w.started then s
    else
      let s := s.modWarp c slot m fun w =>
        { w with
          started := true, itemage := Vec.splat 0, refills := 0, waitSince := s.cycle.toNat
          splits := Split.start (w.live ||| w.helper) b.kernel.entry }
      match s.warp? c slot m with
      | some w => if w.live = 0#64 then retireWarp s c slot m else fillHot s c w.quarter 8
      | none => s
  | _, _ => s

/-! ### Halting a core (19 R366) -/

/-- A halt takes place once no block is resident: dirty words home, L1D dropped, grants returned; its operations complete. -/
def settleHalt (s : State) (c : Nat) : State :=
  let x := s.core c
  if x.haltOps.isEmpty || !(coreBlocks s c).isEmpty then s
  else
    let s := returnAllGrants (flushCore s c 0 true) c none
    let from_ := (s.grids.filter fun g => g.2.share.contains c).map (·.1)
    let s := s.modCore c fun x => { x with l1d := [], halted := true, haltOps := [], haltFrom := from_ }
    let s := { s with grids := s.grids.map fun (g : Nat × Grid) => (g.1, { g.2 with share := g.2.share.filter (· != c) }) }
    x.haltOps.foldl (fun s q => opDone s q.1 q.2 0) s

/-! ### Grid completion (02 R45; 03 R74, R75) -/

/-- The pipes of an almanac. -/
def almPipes (s : State) (asid alm : Nat) : List (Nat × Pipe) :=
  s.pipes.filter fun p => pipeAsid p.1 == asid && pipeAlm p.1 == alm

/-- The output pipes of a stage. -/
def stageOutputs (s : State) (g : Grid) : List (Nat × Pipe) :=
  match g.alm with
  | none => []
  | some a => (almPipes s g.asid a).filter fun p => p.2.prod == g.stage && (p.2.scope != 2 || p.2.nearSide)

/-- Completes a grid with a status: gathered dirty flags, the automatic close, and its packet's end if it is a lone grid. Its
blocks have released what they did as they retired (02 R45). -/
def completeGrid (s : State) (gk : Nat) (g : Grid) (status : Nat) : State :=
  let s := harvest s fun e => e.asid == g.asid
  let s := (stageOutputs s g).foldl (fun s p => closePipe s p.1) s
  let s := s.modGrid gk fun g => { g with complete := true, status := status, doneAt := s.kalends.toNat }
  if g.alm.isNone then s.modPkt g.pkt fun p => { p with st := .ended status, downgrade := g.downgrade } else s

/-- Completes the grids whose queues are exhausted and all of whose blocks have retired. -/
def settleGrids (s : State) : State :=
  s.grids.foldl (fun s p => match s.grids.get? p.1 with
    | some g =>
      if !g.complete && g.resident = 0 && g.restore.isEmpty && g.away.isEmpty && queueExhausted s g then
        completeGrid s p.1 g g.status
      else s
    | none => s) s

/-! ### Retiring a block (02 R44) -/

/-- Operation entries of a block. -/
def blockOps (s : State) (c slot : Nat) : List (Nat × OpEntry) := (s.core c).ops.filter fun p => p.2.slot == slot

/-- Every warp of a block has retired and every operation has completed. -/
def retirable (s : State) (c slot : Nat) (b : Block) : Bool :=
  b.warps.all (·.retired) && (blockOps s c slot).all fun p => p.2.complete

/-- Takes a block out: its operation entries, its record in the grid, and the block itself. -/
def removeBlock (s : State) (c slot : Nat) (b : Block) : State :=
  let s := (blockOps s c slot).foldl (fun s p =>
    (returnLeave s c p.2.leave).modCore c fun x => { x.dequeue p.1 with ops := x.ops.del p.1 }) s
  let s := s.modGrid b.grid fun g => { g with resident := g.resident - 1 }
  let s := dropUnbound (s.delBlock c slot) c
  (List.range 4).foldl (fun s q => fillHot s c q 8) s

/-- A block retires: its core's dirty words go home, its slots still held are freed, and everything it had is free. -/
def retireBlock (s : State) (c slot : Nat) (b : Block) : State :=
  let s := mergeCovered (releaseCore s c b.asid 3) c 3
  let s := b.held.foldl (fun s q => freeNumber s c q.1 q.2) s
  let s := gangPhase (removeBlock s c slot b) b.grid b.gang
  settleHalt (settleGrids s) c

end Sys2Proof.Machine
end

