-- ==== Sys2Proof/Machine/EvPipe.lean ====
section
/-! DEFINITION. The events of pipes: grants, free reports, commits, end-of-stream, retained slots, spill, and pod-scope pipes
(03 R50, R53 to R57, R64 to R70). -/

namespace Sys2Proof.Machine

open Sys2Proof

/-! ### Grants (03 R56) -/

/-- A core asks for its next block once its local count has fallen to half a block (03 R56). -/
def requestGrant (s : State) (c key : Nat) : State :=
  match s.pipes.get? key with
  | none => s
  | some p =>
    let g := (s.core c).grant key
    if p.closed || g.asked || !g.coming.isEmpty || !boundProducer s c key || decide (p.grantSize / 2 < g.nums.length)
        || (s.core c).assignsNothing then s
    else askGrant s key c

/-- GRANT_REQUEST (03 R56). -/
def execGrantRequest (core pipe : Nat) (s : State) : Host.Outcome State Fault Refusal := .next (requestGrant s core pipe)

/-- GRANT_BLOCK_ARRIVAL (03 R56). -/
def execGrantBlockArrival (core pipe : Nat) (s : State) : Host.Outcome State Fault Refusal := .next (grantArrive s pipe core)

/-- Unreserved numbers that a core holds go back and become void (03 R56); a block still on its way stays. -/
def returnIdle (s : State) (c key : Nat) : State :=
  let g := (s.core c).grant key
  let s := s.modCore c fun x => { x with grants := x.grants.put key { g with nums := [] } }
  match s.pipes.get? key with
  | none => s
  | some p => putPipe s key (g.nums.foldl (fun p n => p.voidNum n) p)

/-- GRANT_RETURN_TIMEOUT: 2 µs after the last QRSV and the last arrival (03 R56). -/
def execGrantReturnTimeout (core pipe : Nat) (s : State) : Host.Outcome State Fault Refusal :=
  .next (if 2000 ≤ s.passed ((s.core core).grant pipe).last then returnIdle s core pipe else s)

/-! ### Free reports (03 R57) -/

/-- FREE_REPORT_FLUSH (03 R57). -/
def execFreeReportFlush (core pipe : Nat) (s : State) : Host.Outcome State Fault Refusal := .next (flushFrees s core pipe)

/-- FREE_REPORT (03 R55, R57). -/
def execFreeReport (pipe : Nat) (s : State) : Host.Outcome State Fault Refusal := .next (freeArrive s pipe)

/-! ### The accesses of a pipe home (03 R50, R67) -/

/-- Translates the pages of a slot for its pipe home, in ascending order; the physical ranges, or the cause and the address
that faults. `fuel` bounds the pages. -/
def slotRanges (asid : Nat) (acc : Acc) : Nat → Nat → Nat → List (Nat × Nat) → State → Except (Nat × Nat) (List (Nat × Nat)) × State
  | 0, _, _, l, s => (.ok l, s)
  | f + 1, va, n, l, s =>
    if n = 0 then (.ok l, s)
    else match translateIo s asid va acc with
      | (.error c, s) => (.error (c, va), s)
      | (.ok q, s) =>
        let m := if 0x10000 - va % 0x10000 < n then 0x10000 - va % 0x10000 else n
        match q.at_ with
        | .hbm pa =>
          if poisoned s pa m then (.error (0x095, va), s)
          else slotRanges asid acc f (va + m) (n - m) (l ++ [(pa, pa + m)]) s
        | _ => (.error (0x082, va), s)

/-- The ranges of a number's slot. -/
def Pipe.rangesOf (p : Pipe) (s : State) (asid n len : Nat) (acc : Acc) : Except (Nat × Nat) (List (Nat × Nat)) × State :=
  slotRanges asid acc 18 (p.addrOf n).toNat len [] s

/-- A fault of a pipe home: its record, and the slot waits until firmware has answered (03 R67). -/
def pipeFault (s : State) (key n kind : Nat) (e : Nat × Nat) : State :=
  let s := s.modPipe key fun p => { p with spillWait := if p.spillWait.contains n then p.spillWait else p.spillWait ++ [n] }
  queueRecord s (pipeAsid key) (cpWords s (pipeAsid key) e.1 kind e.2) (.pipe key n)

/-- Bytes of physical ranges, at home. -/
def rangeBytes (s : State) (rs : List (Nat × Nat)) : List Byte × State :=
  rs.foldl (fun r p => let (bs, _, s) := readHome r.2 p.1 (p.2 - p.1) 0#20; (r.1 ++ bs, s)) ([], s)

/-- Writes bytes over physical ranges, at home, from a lease time on; the lease time after them (08 R164). -/
def putRanges (s : State) (rs : List (Nat × Nat)) (bs : List Byte) (ets : BitVec 20) : BitVec 20 × State :=
  let r := rs.foldl (fun (r : List Byte × BitVec 20 × State) p =>
    let (t, s) := writeHome r.2.2 p.1 (r.1.take (p.2 - p.1)) r.2.1 false
    (r.1.drop (p.2 - p.1), tsMax r.2.1 t, s)) (bs, ets, s)
  r.2

/-! ### Pod-scope pipes (03 R69) -/

/-- The header that stands for a number that is never filled (03 Table 3.5 void). -/
def voidHeader (n : Nat) : BitVec 512 := sealHeader (BitVec.ofNat 512 (n % 2 ^ 48 * 2 ^ 64 + 2 ^ 161))

/-- A home sends one number to its mirror home: header and data, or the header of a void number. -/
def mirrorSend (s : State) (key n : Nat) : State :=
  match s.pipes.get? key with
  | none => s
  | some p => match p.slots.get? n with
    | none => s
    | some x =>
      let done (s : State) : State := s.modPipe key fun p => p.modSlot n fun x => { x with mirrored := true }
      let tell (hdr : BitVec 512) (bs : List Byte) (s : State) : State :=
        done (s.send (.slot p.peer p.peerPipe (toBytes 64 hdr.toNat) bs))
      if x.mirrored || p.spillWait.contains n || (x.st == .filled && p.overflows n) then s
      else if x.st == .void then tell (voidHeader n) [] s
      else if x.st != .filled then s
      else match p.rangesOf s (pipeAsid key) n (bits x.hdr 128 21) .engRead with
        | (.error e, s) => pipeFault s key n 4 e
        | (.ok rs, s) => let (bs, s) := rangeBytes s rs
          tell x.hdr bs s

/-- A matched home whose peer answers sends what it has not sent yet. -/
def mirrorAll (s : State) (key : Nat) : State :=
  match s.pipes.get? key with
  | none => s
  | some p =>
    if p.scope = 2 && p.nearSide && p.matched && !p.peerLost then (p.slots.map (·.1)).foldl (fun s n => mirrorSend s key n) s else s

/-- COMMIT_AT_HOME: the oldest commit on its way is filled at the home (03 R52, R70), and goes on to a mirror home. -/
def execCommitAtHome (pipe : Nat) (s : State) : Host.Outcome State Fault Refusal :=
  .next (mirrorAll (match (s.pipes.get? pipe).bind fun p => p.inflight.head? with
    | some n => commitArrive s pipe n
    | none => s) pipe)

/-- EOS_HEADER: a closed pipe takes its end-of-stream number (03 R64); grids that it feeds may complete. -/
def execEosHeader (pipe : Nat) (s : State) : Host.Outcome State Fault Refusal :=
  .next (settleGrids (mirrorAll (takeEos s pipe) pipe))

/-- A pod-scope pipe is closed by the far device, as if by QCLOSE (04 R85). -/
def peerClose (s : State) (key : Nat) : State := closePipe s key

/-- Numbers of a mirror home that are on their way start as granted by the far device. -/
def Pipe.mirrorUpTo (p : Pipe) (n : Nat) : Pipe := { p with nextGrant := if p.nextGrant ≤ n then n + 1 else p.nextGrant }

/-- A slot arrives at the mirror home: its data is written to the mirror's own slot array as an engine writes, and it is deliverable
(03 R69; 08 R164). Header and data empty: the peer closes the pipe. -/
def mirrorArrive (s : State) (key : Nat) (header data : List Byte) : State :=
  match s.pipes.get? key with
  | none => s
  | some p =>
    if p.scope != 2 || !p.matched then s
    else if header.isEmpty then peerClose s key
    else if p.nearSide then s
    else
      let hdr := BitVec.ofNat 512 (ofBytes header)
      let n := p.lift (bits hdr 64 48)
      let s := s.modPipe key fun p => { p with peerLost := false }
      let p := { p with peerLost := false }
      if (p.st? n).isSome || decide (n < p.base) then s
      else if bit hdr 161 then tellFrees (putPipe s key ((p.mirrorUpTo n).voidNum n)) key p.base
      else if bit hdr 160 then
        let p := { ((p.mirrorUpTo n).setSt n .filled).modSlot n (fun x => { x with hdr := hdr }) with closed := true, eosSeq := some n }
        settleGrids (putPipe s key p)
      else match p.rangesOf s (pipeAsid key) n data.length .engWrite with
        | (.error e, s) => if p.spillWait.contains n then s else pipeFault s key n 5 e
        | (.ok rs, s) =>
          let (t, s) := putRanges s rs data p.ets
          let p := ((p.mirrorUpTo n).setSt n .filled).modSlot n fun x => { x with hdr := hdr, cts := t }
          putPipe s key { p with commits := p.commits + 1, commitQ := p.commitQ ++ [n], ets := t, endTs := tsMax p.endTs t }

/-- MIRROR_TRANSFER (03 R69). -/
def execMirrorTransfer (pipe : Nat) (header data : List Byte) (s : State) : Host.Outcome State Fault Refusal :=
  .next (mirrorArrive s pipe header data)

/-- MIRROR_FREE: the home frees the numbers that its mirror has freed, oldest first (03 R55, R69). -/
def execMirrorFree (pipe count : Nat) (s : State) : Host.Outcome State Fault Refusal :=
  .next (match s.pipes.get? pipe with
    | none => s
    | some p =>
      if p.scope = 2 && p.nearSide then
        putPipe s pipe ((List.range count).foldl (fun p _ => if p.base < p.nextGrant then p.release p.base else p)
          { p with peerLost := false })
      else s)

/-- The image of a pipe entry (03 Table 3.4), as a declaration carries it. -/
def Pipe.image (p : Pipe) : List Byte :=
  toBytes 8 (p.efmt + p.rank * 2 ^ 4 + p.scope * 2 ^ 6 + b2n p.unord * 2 ^ 8 + p.depth * 2 ^ 16 + p.prod * 2 ^ 32 + p.cons * 2 ^ 40
      + p.target * 2 ^ 48)
    ++ (List.range 4).flatMap (fun i => toBytes 2 (p.dims.getD i 0)) ++ toBytes 8 p.ssize
    ++ toBytes 8 (p.resident + 0xFF * 2 ^ 16) ++ toBytes 8 p.array.toNat
    ++ toBytes 8 (p.peer + p.peerPipe * 2 ^ 10 + b2n p.nearSide * 2 ^ 17) ++ toBytes 16 0

/-- Two declarations of a pod-scope pipe match (03 R69). -/
def Pipe.agrees (p : Pipe) (s : State) (key : Nat) (ws : List DWord) : Bool :=
  recField ws 0 0 4 == p.efmt && recField ws 0 4 2 == p.rank && recField ws 0 6 2 == 2 && recField ws 0 8 1 == b2n p.unord
  && recField ws 0 16 13 == p.depth && ((List.range 3).all fun i => recField ws 1 (16 * i) 16 == p.dims.getD i 0)
  && recField ws 2 0 21 == p.ssize && recField ws 5 0 10 == s.rank && recField ws 5 10 7 == pipeIdx key
  && recField ws 5 17 1 != b2n p.nearSide

/-- PIPE_PEER_MATCH: the peer's declaration sets the pipe up, if it matches (03 R69). -/
def execPipePeerMatch (pipe : Nat) (declaration : List Byte) (s : State) : Host.Outcome State Fault Refusal :=
  .next (match s.pipes.get? pipe with
    | none => s
    | some p =>
      if p.scope = 2 && p.agrees s pipe (wordsOf 8 declaration) then
        mirrorAll (s.modPipe pipe fun p => { p with matched := true, peerLost := false }) pipe
      else s)

/-- PIPE_PEER_LOST: the pipe stalls, and the host hears of it (03 R69). -/
def execPipePeerLost (pipe : Nat) (s : State) : Host.Outcome State Fault Refusal :=
  .next (match s.pipes.get? pipe with
    | none => s
    | some p =>
      if p.scope = 2 && !p.peerLost then
        hostEvent (s.modPipe pipe fun p => { p with peerLost := true }) (some (pipeAsid pipe)) 0x146 (pipeIdx pipe) (0x1F * 2 ^ 22)
      else s)

/-! ### Retained slots (03 R50) -/

/-- RETAINED_SLOT_REWRITE: the slot is delivered or assigned as if it had just been committed. -/
def execRetainedSlotRewrite (pipe seq : Nat) (header : List Byte) (s : State) : Host.Outcome State Fault Refusal :=
  .next (match s.pipes.get? pipe with
    | none => s
    | some p =>
      let seq := p.lift seq
      if p.st? seq == some .retained then
        putPipe s pipe { (p.setSt seq .filled).modSlot seq (fun x => { x with hdr := BitVec.ofNat 512 (ofBytes header) }) with
          commitQ := p.commitQ.filter (· != seq) ++ [seq] }
      else s)

/-- RETAINED_SLOT_DISCARD: the slot becomes void, and the host hears of it. -/
def execRetainedSlotDiscard (pipe seq : Nat) (s : State) : Host.Outcome State Fault Refusal :=
  .next (match s.pipes.get? pipe with
    | none => s
    | some p =>
      let seq := p.lift seq
      if p.st? seq == some .retained then
        hostEvent (settleGrids (putPipe s pipe { p.voidNum seq with commitQ := p.commitQ.filter (· != seq) }))
          (some (pipeAsid pipe)) 0x145 (seq % 2 ^ 48) (0x1F * 2 ^ 22)
      else s)

/-! ### Spill (03 R67) -/

/-- The lines of physical ranges. -/
def rangeLines (rs : List (Nat × Nat)) : List Nat :=
  rs.flatMap fun p => (List.range ((p.2 + 127) / 128 - p.1 / 128)).map fun i => p.1 / 128 + i

/-- SPILL_WRITE: a filled slot beyond the reservation goes back to its place in HBM, and may then be delivered or mirrored (03 R67). -/
def execSpillWrite (pipe seq : Nat) (s : State) : Host.Outcome State Fault Refusal :=
  .next (match s.pipes.get? pipe with
    | none => s
    | some p =>
      let seq := p.lift seq
      match p.slots.get? seq with
      | none => s
      | some x =>
        if x.st != .filled || p.spillWait.contains seq || !p.overflows seq then s
        else match p.rangesOf s (pipeAsid pipe) seq p.ssize .engWrite with
          | (.error e, s) => pipeFault s pipe seq 5 e
          | (.ok rs, s) =>
            let s := (rangeLines rs).foldl cleanLine s
            mirrorAll (wakeRefills (s.modPipe pipe fun p =>
              { p.modSlot seq (fun x => { x with hdr := markSpilled x.hdr, spilled := true }) with spills := p.spills + 1 }) pipe) pipe)

/-- SPILL_FETCH: a spilled slot is brought back as its consumer reaches it (03 R67). -/
def execSpillFetch (pipe seq : Nat) (s : State) : Host.Outcome State Fault Refusal :=
  .next (match s.pipes.get? pipe with
    | none => s
    | some p =>
      let seq := p.lift seq
      match p.slots.get? seq with
      | none => s
      | some x =>
        let taken := match x.st with | .held _ _ => true | .item _ _ => true | _ => false
        if !x.spilled || !taken || p.spillWait.contains seq then s
        else match p.rangesOf s (pipeAsid pipe) seq p.ssize .engRead with
          | (.error e, s) => pipeFault s pipe seq 4 e
          | (.ok rs, s) =>
            let s := (rangeLines rs).foldl (fun s a => (fetchLine s a).2) s
            s.modPipe pipe fun p => p.modSlot seq fun x => { x with spilled := false })

end Sys2Proof.Machine
end

