-- ==== Sys2Proof/Machine/Gather.lean ====
section
/-! DEFINITION. The gather engines and the issue of transfers: the gather record, its checks, groups of 64 elements; GATH, XFER, and
the acceptance of engine operations (12 R226, R227, R232, R233; 13 R253, R254; 19 R364). -/

namespace Sys2Proof.Machine

open Sys2Proof

/-! ### The gather record (12 Table 12.4) -/

/-- The fields of a gather record. -/
structure GatherRec where
  ibase : Nat
  ispace : Nat
  /-- index bytes -/
  isz : Nat
  tbase : Nat
  limit : Nat
  /-- row words -/
  words : Nat
  count : Nat
  tstride : Nat
  doff : Nat
  dspace : Nat
  dpitch : Nat
  ofill : Bool
  acq : Bool
  rel : Bool
  mscope : Nat
  ctren : Bool
  ctr : Nat
  fill : Nat
deriving DecidableEq, Repr

/-- Reads the fields of a gather record. -/
def gatherOf (w : List DWord) : GatherRec :=
  { ibase := recField w 0 0 56, ispace := recField w 0 56 2, isz := if recField w 0 58 1 = 1 then 8 else 4
    tbase := recField w 1 0 56, limit := recField w 2 0 32, words := recField w 2 32 12 + 1, count := recField w 3 0 17
    tstride := recField w 3 32 32, doff := recField w 4 0 25, dspace := recField w 4 25 2, dpitch := recField w 4 32 32
    ofill := recField w 5 0 1 == 1, acq := recField w 5 1 1 == 1, rel := recField w 5 2 1 == 1, mscope := recField w 5 3 3
    ctren := recField w 5 6 1 == 1, ctr := recField w 5 7 12, fill := recField w 5 32 32 }

/-- Bytes of a row. -/
def GatherRec.row (z : GatherRec) : Nat := 4 * z.words

/-- Destination row pitch. -/
def GatherRec.pitch (z : GatherRec) : Nat := if z.dpitch = 0 then z.row else z.dpitch

/-- The reserved bits of a gather record are zero. -/
def gatherReserved (w : List DWord) : Bool :=
  recField w 0 59 5 == 0 && recField w 1 56 8 == 0 && recField w 2 44 20 == 0 && recField w 3 17 15 == 0
  && recField w 4 27 5 == 0 && recField w 5 19 13 == 0 && wordAt w 7 == 0#64

/-- The status with which a gather record is refused, if it is (12 R232; 19 R364). -/
def gatherCause (s : State) (asid : Nat) (w : List DWord) : Option Nat :=
  let z := gatherOf w
  if !gatherReserved w || decide (1 < z.ispace) || z.dspace == 0 || z.dspace == 3 || z.count == 0 || decide (65536 < z.count)
      || z.tstride % 4 != 0 || decide (z.tstride < z.row) || z.dpitch % 4 != 0 || decide (z.pitch < z.row)
      || decide (5 < z.mscope) then some 0x106
  else if z.ctren && !ownsCounter s asid z.ctr then some 0x14A
  else none

/-! ### One element -/

/-- Moves words `k` on of a row: from the table, or the fill word. -/
def rowWords (s : State) (c e : Nat) (op : OpEntry) (z : GatherRec) (n : Nat) (from_ : Option Nat) (k : Nat) :
    Nat → Sum ERead EWrite × State
  | 0 => (.inr .ok, s)
  | f + 1 =>
    let r := match from_ with
      | some a => engRead s c e op 0 4 ((a + 4 * k) % 2 ^ 64)
      | none => (.ok z.fill, s)
    match r with
    | (.ok v, s) => (match engWrite s c e op z.dspace 4 (z.doff + n * z.pitch + 4 * k) v with
      | (.ok, s) => rowWords s c e op z n from_ (k + 1) f
      | (w, s) => (.inr w, s))
    | (r, s) => (.inl r, s)

/-- Element `n`: its index, and its row (12 R232). -/
def gatherElement (s : State) (c e : Nat) (op : OpEntry) (z : GatherRec) (n : Nat) : Sum ERead EWrite × State :=
  match engRead s c e op z.ispace z.isz ((z.ibase + n * z.isz) % 2 ^ 64) with
  | (.ok x, s) =>
    if x < z.limit then rowWords s c e op z n (some ((z.tbase + x * z.tstride) % 2 ^ 64)) 0 z.words
    else if z.ofill then rowWords s c e op z n none 0 z.words
    else (.inr .ok, s)
  | (r, s) => (.inl r, s)

/-! ### A group (12 R233) -/

/-- Elements of group `g`. -/
def GatherRec.group (z : GatherRec) (g : Nat) : List Nat := (List.range 64).filter fun i => decide (64 * g + i < z.count)

/-- What a group has come to. -/
structure GroupOut where
  /-- elements written -/
  done : Mask
  /-- first suspending fault: cause, kind, address -/
  fault : Option (Nat × Nat × Nat)
  /-- a status that ends the operation -/
  ends : Option Nat
  /-- an element waits for another device -/
  waits : Bool

/-- Runs the elements of a group that are not written yet: a fault leaves its element out and the others go on. An element has at most
one request on its way and a group has 64 elements, so an engine stays below its 256 requests (12 R232). -/
def gatherGroup (c e : Nat) (z : GatherRec) (g : Nat) (s : State) (done : Mask) : GroupOut × State :=
  (z.group g).foldl (fun (a : GroupOut × State) i =>
    let r := a.1
    if inMask r.done i || r.ends.isSome then a
    else match engOp? a.2 c e with
      | none => a
      | some op =>
        match gatherElement a.2 c e op z (64 * g + i) with
        | (.inr .ok, s) => ({ r with done := r.done ||| laneBit i }, engCount s c op.asid 1)
        | (.inr (.fault cause va), s) => ({ r with fault := r.fault.or (some (cause, 5, va)) }, s)
        | (.inr (.bad cause), s) => ({ r with ends := some cause }, s)
        | (.inl (.fault cause va), s) => ({ r with fault := r.fault.or (some (cause, 4, va)) }, s)
        | (.inl (.poison va), s) => ({ r with fault := r.fault.or (some (0x095, 4, va)) }, s)
        | (.inl (.bad cause), s) => ({ r with ends := some cause }, s)
        | (.inl .waits, s) => ({ r with waits := true }, s)
        | (.inl (.ok _), s) => (r, s)) ({ done := done, fault := none, ends := none, waits := false }, s)

/-- A gather may run: head of its queue, accepted, not suspended. -/
def gatherRuns (s : State) (c e : Nat) (op : OpEntry) : Bool :=
  (match op.kind with | .gather k => ((s.core c).gathQ.getD k []).head? == some e | _ => false)
  && op.accepted && !op.complete && !op.suspended && op.asks == 0

/-- Performs the present group of a gather, and moves on to the next one, or completes (12 R232, R233). -/
def gatherStep (s : State) (c e : Nat) : State :=
  match engOp? s c e with
  | none => s
  | some op =>
    if !gatherRuns s c e op then s
    else
      let z := gatherOf op.record
      let s := if op.next = 0 && op.gdone == 0#64 then engAcquire s c e z.acq else s
      let (r, s) := gatherGroup c e z op.next s op.gdone
      let s := modEng s c e fun o => { o with gdone := r.done }
      match r.ends with
      | some cause => opDone (modEng s c e fun o => { o with pmask := r.done }) c e cause
      | none =>
        if r.waits then s
        else match r.fault with
          | some (cause, kind, va) => engSuspend (modEng s c e fun o => { o with pmask := r.done }) c e cause kind va
          | none =>
            let s := modEng s c e fun o => { o with next := op.next + 1, gdone := 0, got := [] }
            if z.count ≤ 64 * (op.next + 1) then opDone s c e 0 else s

/-- GATHER_GROUP: a group of 64 elements is performed (12 R232). -/
def execGatherGroup (core entry : Nat) (s : State) : Host.Outcome State Fault Refusal := .next (gatherStep s core entry)

/-! ### GATH and XFER -/

/-- The gather engine with fewer queued operations; engine 0 when they are equal (12 R226). -/
def gatherEngine (k : Core) : Nat := if (k.gathQ.getD 1 []).length < (k.gathQ.getD 0 []).length then 1 else 0

/-- GATH (12 R226, R227; 19 R364). -/
def execGath (c : BitVec 2) (h : BitVec 4) (a : BitVec 6) (s : State) : Host.Outcome State Fault Refusal :=
  .next (issue (.gath c h a) (engineMeta c [a.toNat] true) noExtra (fun x s => recordFault 0x106 64 (x.rs s a.toNat))
    (fun x s =>
      let g := gatherEngine (s.core x.core)
      issueWithLeave x s (.gather g) (x.rs s a.toNat) 0#64 1 h.toNat
        (decide (((s.core x.core).gathQ.getD g []).length < 8)) .engineFull
        fun e k => { k with gathQ := modAt k.gathQ g fun q => q ++ [e] }) s)

/-- XFER (13 R253; 22 R439). -/
def execXfer (c : BitVec 2) (h : BitVec 4) (a : BitVec 6) (s : State) : Host.Outcome State Fault Refusal :=
  .next (issue (.xfer c h a) (engineMeta c [a.toNat] true) noExtra (fun x s => recordFault 0x106 128 (x.rs s a.toNat))
    (fun x s =>
      issueWithLeave x s .xfer (x.rs s a.toNat) 0#64 1 h.toNat true .engineFull
        fun e k => { k with xferQ := k.xferQ ++ [e] }) s)

/-! ### The XFER record (13 Table 13.8) -/

/-- The fields of the extension. -/
structure XferExt where
  /-- grid extents, plus one -/
  g : List Nat
  rbase : Nat
  self : Bool
  repl : Nat
  rop : Nat
  coll : Nat
  /-- coordinate offsets -/
  d : List Int
  dctr : Nat
  dcen : Bool
  lchunk : Nat
  cbase : Nat
deriving DecidableEq, Repr

/-- Reads the fields of the extension. -/
def xferOf (w : List DWord) : XferExt :=
  { g := [recField w 8 0 10 + 1, recField w 8 10 10 + 1, recField w 8 20 10 + 1], rbase := recField w 8 30 10
    self := recField w 8 40 1 == 1, repl := recField w 8 41 3, rop := recField w 8 44 4, coll := recField w 8 48 16
    d := [sextInt 10 (recField w 9 0 10), sextInt 10 (recField w 9 10 10), sextInt 10 (recField w 9 20 10)]
    dctr := recField w 9 32 12, dcen := recField w 9 44 1 == 1, lchunk := recField w 9 45 5, cbase := recField w 10 0 32 }

/-- Extent of a grid dimension. -/
def XferExt.n (z : XferExt) (i : Nat) : Nat := z.g.getD i 1

/-- Bytes of a chunk. -/
def XferExt.chunk (z : XferExt) : Nat := 2 ^ z.lchunk

/-- A coordinate of the grid is chosen in dimension `i` by a device at coordinate `m`. -/
def XferExt.picks (z : XferExt) (i m x : Nat) : Bool :=
  z.repl.testBit i || x == (((m : Int) + z.d.getD i 0) % (z.n i : Int)).toNat

/-- The destination ranks, ascending (13 R254). -/
def XferExt.dests (z : XferExt) (rank : Nat) : List Nat :=
  let me := rank - z.rbase
  let mx := me % z.n 0
  let my := me / z.n 0 % z.n 1
  let mz := me / (z.n 0 * z.n 1)
  (List.range (z.n 0 * z.n 1 * z.n 2)).filterMap fun i =>
    let t := z.rbase + i
    if z.picks 0 mx (i % z.n 0) && z.picks 1 my (i / z.n 0 % z.n 1) && z.picks 2 mz (i / (z.n 0 * z.n 1))
        && (t != rank || z.self) then some t else none

/-- The reserved bits of the extension are zero. -/
def xferReserved (w : List DWord) : Bool :=
  recField w 9 30 2 == 0 && recField w 9 50 14 == 0 && recField w 10 32 32 == 0
  && (List.range 5).all fun i => wordAt w (11 + i) == 0#64

/-- The status with which an XFER record is refused, if it is (13 R253). -/
def xferCause (s : State) (asid : Nat) (w : List DWord) : Option Nat :=
  match shapeCause s asid w true with
  | some cause => some cause
  | none =>
    let z := shapeOf w
    let q := xferOf w
    let inGrid := decide (q.rbase ≤ s.rank) && decide (s.rank < q.rbase + q.n 0 * q.n 1 * q.n 2)
    if !xferReserved w || decide (q.lchunk < 9) || decide (20 < q.lchunk) || decide (12 < q.rop)
        || (q.rop != 0 && (z.dspace != 0 || z.esz != (if q.rop = 3 then 2 else 4))) then some 0x106
    else if decide (1024 < q.rbase + q.n 0 * q.n 1 * q.n 2) || !inGrid then
      (if z.dspace != 0 && inGrid && (q.dests s.rank).any (· != s.rank) then some 0x106 else some 0x150)
    else if z.dspace != 0 && (q.dests s.rank).any (· != s.rank) then some 0x106
    else none

/-- An XFER is accepted; one with no destination completes at once (13 R254). -/
def acceptXfer (s : State) (c e : Nat) : State :=
  match engOp? s c e with
  | none => s
  | some op =>
    if op.accepted || op.complete || op.suspended then s
    else match readRecord s c e op 16 with
      | (.error r, s) => engStopRead s c e r
      | (.ok ws, s) =>
        let ws := withStampWord 3 op ws
        let s := modEng s c e fun o => { o with record := ws, got := [] }
        match xferCause s op.asid ws with
        | some cause => opDone s c e cause
        | none =>
          let s := engAcquire s c e (shapeOf ws).acq
          let s := modEng s c e fun o => { o with accepted := true }
          if ((xferOf ws).dests s.rank).isEmpty then opDone s c e 0 else s

/-- A gather is accepted (12 R232). -/
def acceptGather (s : State) (c e : Nat) : State :=
  match engOp? s c e with
  | none => s
  | some op =>
    if op.accepted || op.complete || op.suspended then s
    else match readRecord s c e op 8 with
      | (.error r, s) => engStopRead s c e r
      | (.ok ws, s) =>
        let ws := withStampWord 6 op ws
        let s := modEng s c e fun o => { o with record := ws, got := [] }
        match gatherCause s op.asid ws with
        | some cause => opDone s c e cause
        | none => modEng s c e fun o => { o with accepted := true }

/-- ENGINE_ACCEPT: an engine reads and checks the record of its next operation (12 R229). -/
def execEngineAccept (core entry : Nat) (s : State) : Host.Outcome State Fault Refusal :=
  .next (
    match engOp? s core entry with
    | none => s
    | some op =>
      if core < ioCore && !acceptFirst s core entry op then s
      else match op.kind with
        | .copy => acceptCopy s core entry
        | .gather _ => acceptGather s core entry
        | .xfer => acceptXfer s core entry
        | _ => s)

/-! ### One element at a time -/

/-- The copy engine moves one element: what the moves of a copy look like between two steps of other agents (log 2). -/
def engineElement (core entry : Nat) (s : State) : Host.Outcome State Fault Refusal := .next (copyRun s core entry 1)

end Sys2Proof.Machine
end

