-- ==== Sys2Proof/Machine/PipeOps.lean ====
section
/-! DEFINITION. The pipe instructions, major 0x21 (03 R58 to R66; 20 R388 to R391). -/

namespace Sys2Proof.Machine

open Sys2Proof

/-! ### Bindings -/

/-- What the contract needs of a pipe instruction. -/
def pipeMeta (c : BitVec 2) (la : Option (BitVec 4)) (srcs dsts : List (BitVec 6)) (stamp : Bool) : Meta :=
  { sc := c.toNat, dist := if la.isSome then 0 else 2, la := la.map (·.toNat), srcs := srcs.map fun r => .s r.toNat,
    dsts := dsts.map fun r => .s r.toNat, stamp := stamp, handler := false, access := true }

/-- The lead's stream register. -/
def Ix.stream (x : Ix) (s : State) (q : BitVec 3) : Option Stream := (x.warp? s x.lead).bind fun w => (w.qregs.getD q.toNat none)

/-- The pipe of a bound stream register, by the side that the instruction needs: 0x140, 0x141 (03 R60). `side`: some true
consumer, some false producer, none either. -/
def boundPipe (x : Ix) (s : State) (q : BitVec 3) (side : Option Bool) : Except Nat (Nat × Pipe) :=
  match x.stream s q with
  | none => .error 0x140
  | some b =>
    match side with
    | some c => if b.consumer != c then .error 0x141 else
      (match s.pipes.get? b.pipe with | some p => .ok (b.pipe, p) | none => .error 0x140)
    | none => match s.pipes.get? b.pipe with | some p => .ok (b.pipe, p) | none => .error 0x140

/-- The cause of a failed binding. -/
def boundFault (x : Ix) (s : State) (q : BitVec 3) (side : Option Bool) (k : Nat → Pipe → Option Nat) : Option Nat :=
  match boundPipe x s q side with
  | .error c => some c
  | .ok (key, p) => k key p

/-- Runs an effect on the bound pipe. -/
def withPipe (x : Ix) (s : State) (q : BitVec 3) (k : Nat → Pipe → Res) : Res :=
  match x.stream s q with
  | none => .done s
  | some b => match s.pipes.get? b.pipe with
    | some p => k b.pipe p
    | none => .done s

/-- The number in a slot of a pipe whose state meets a condition. -/
def Pipe.findSlot (p : Pipe) (a : DWord) (f : Nat → SeqState → Bool) : Option Nat :=
  match p.slotIndex a with
  | none => none
  | some k => (p.slots.find? fun q => p.slotOf q.1 == k && f q.1 q.2.st).map (·.1)

/-- Reserved by a warp of the block; an engine's reservation is none (03 R60). -/
def SeqState.reservedBy (st : SeqState) (core slot : Nat) : Bool :=
  match st with | .reserved c k w => c == core && k == slot && w != 0x1F | _ => false

/-- Held by the block through QPOP. -/
def SeqState.heldBy (st : SeqState) (core slot : Nat) : Bool := st == .held core slot

/-! ### QOPEN -/

/-- The pipe that a selector names, or the fault (03 R60; 20 R389). -/
def openFault (x : Ix) (s : State) (v : DWord) : Except Nat Stream :=
  match x.block? s with
  | none => .error 0x141
  | some b => match s.grids.get? b.grid with
    | none => .error 0x141
    | some g => match g.alm with
      | none => .error 0x141
      | some alm =>
        let consumer := bit v 8
        let key := pipeKey b.asid alm (bits v 0 7)
        if bit v 7 || bits v 9 55 != 0 then .error 0x141
        else match (s.ctx b.asid).alms.get? alm, s.pipes.get? key with
          | some a, some p =>
            if a.npipes ≤ bits v 0 7 then .error 0x141
            else if (if consumer then p.cons else p.prod) != g.stage then .error 0x141
            else if p.scope == 2 && p.nearSide == consumer then .error 0x141
            else .ok { pipe := key, consumer := consumer }
          | _, _ => .error 0x141

/-- QOPEN: binds q in every member (03 R60; 20 R389). -/
def execQopen (c : BitVec 2) (q : BitVec 3) (a : BitVec 6) (s : State) : Host.Outcome State Fault Refusal :=
  .next (issue (.qopen c q a) (pipeMeta c none [a] [] false) noExtra
    (fun x s => match openFault x s (x.rs s a.toNat) with | .error e => some e | .ok _ => none)
    (fun x s => match openFault x s (x.rs s a.toNat) with
      | .error _ => .done s
      | .ok b => .done (dropUnbound (x.each s fun _ w => { w with qregs := setAt w.qregs q.toNat (some b) }) x.core)) s)

/-! ### QRSV -/

/-- Numbers that a core can take now: those it holds, those on their way, or a block that the home grants it (03 R56). -/
def drawGrants (s : State) (c key : Nat) : State :=
  if !((s.core c).grant key).nums.isEmpty then s
  else
    let s := if ((s.core c).grant key).coming.isEmpty then askGrant s key c else s
    grantArrive s key c

/-- QRSV: the next granted number is reserved, and its slot's address written; an acquire of the release that freed the slot (03 R60;
09 Table 9.5; 20 R390, R391). -/
def execQrsv (c : BitVec 2) (l : BitVec 4) (q : BitVec 3) (d : BitVec 6) (s : State) : Host.Outcome State Fault Refusal :=
  .next (issue (.qrsv c l q d) (pipeMeta c (some l) [] [d] false) noExtra
    (fun x s => boundFault x s q (some false) fun _ p => if p.closed then some 0x143 else none)
    (fun x s => withPipe x s q fun key p =>
      let t := drawGrants s x.core key
      match ((t.core x.core).grant key).nums with
      | [] => .wait .fullPipe fun s => askGrant s key x.core
      | n :: r =>
        let t := t.modCore x.core fun k =>
          { k with grants := k.grants.put key { k.grant key with nums := r, last := t.kalends.toNat } }
        let t := t.modPipe key fun p => p.setSt n (.reserved x.core x.slot x.lead)
        let t := t.modWarp x.core x.slot x.lead fun w => { w with reserved := w.reserved ++ [(key, n)] }
        .done (x.ws (raisePts t x.core (p.freeTs.getD (p.slotOf n) 0#20)) d.toNat (p.addrOf n))) s)

/-! ### QCMT -/

/-- The faults of QCMT (03 R60; 20 R389). -/
def commitFault (x : Ix) (s : State) (q : BitVec 3) (d a : BitVec 6) : Option Nat :=
  boundFault x s q (some false) fun _ p =>
    if (p.findSlot (x.rs s a.toNat) fun _ st => st.reservedBy x.core x.slot).isNone then some 0x142
    else if p.ssize < (x.rs s d.toNat).toNat then some 0x144 else none

/-- Every input item that a block holds is marked by a commit (14 R277). -/
def markItems (s : State) (c slot : Nat) : State :=
  match s.block? c slot with
  | none => s
  | some b =>
    let vals := b.warps.flatMap fun w => w.pipeItems.filterMap fun q => (s.pipes.get? q.1).map fun p => p.addrOf q.2.1
    s.modBlock c slot fun b => { b with marked := dedup (b.marked ++ vals) }

/-- A number that a block held reserved is reserved no longer. -/
def dropReserved (s : State) (c slot key n : Nat) : State :=
  s.modBlock c slot fun b =>
    { b with warps := b.warps.map fun w => { w with reserved := w.reserved.filter fun r => r != (key, n) } }

/-- QCMT: a release at the pipe's scope, then the commit sets out with its header (03 R60, R66; 14 R277). -/
def execQcmt (c : BitVec 2) (q : BitVec 3) (d a : BitVec 6) (s : State) : Host.Outcome State Fault Refusal :=
  .next (issue (.qcmt c q d a) (pipeMeta c none [a, d] [] true) noExtra (fun x s => commitFault x s q d a)
    (fun x s => withPipe x s q fun key p =>
      match x.block? s, x.warp? s x.lead, p.findSlot (x.rs s a.toNat) fun _ st => st.reservedBy x.core x.slot with
      | some b, some w, some n =>
        if p.scope == 2 && x.members.any (fun m => remoteWrites s x.core x.slot m x.split) then .wait .memory id
        else
          let len := if (x.rs s d.toNat).toNat = 0 then p.ssize else (x.rs s d.toNat).toNat
          let st : DWord := match hintOf x.hints 4 with | some h => x.rs s (h % 64) | none => w.stamp
          let t := releaseCore s x.core b.asid p.memScope
          let hdr := mkHeader t st n len false (hintOf x.hints 4).isSome
            { core := x.core, block := b.number.toNat, warp := x.lead }
          let t := sendCommit t key n hdr (t.core x.core).pts
          .done (markItems (dropReserved t x.core x.slot key n) x.core x.slot)
      | _, _, _ => .done s) s)

/-! ### QPOP -/

/-- What QPOP's taking comes to (03 R50, R60). -/
inductive Popped where
  /-- a slot: its number and the stamp of its header -/
  | slot (n : Nat) (stamp : DWord)
  /-- the header of the next slot fails its check -/
  | corrupt (n : Nat)
  /-- nothing may be delivered now -/
  | none
deriving DecidableEq, Repr

/-- QPOP's taking: the next slot, or none; a slot whose header fails its check is retained for firmware (03 R50). -/
def popNext (s : State) (c slot key : Nat) : Popped × State :=
  match (s.pipes.get? key).bind fun p => p.nextItem?.map fun n => (p, n) with
  | none => (.none, s)
  | some (p, n) =>
    let h := (p.slots.getD n (Slot.blank .filled)).hdr
    if headerOk h then
      let s := deliver s c key n (.held c slot)
      (.slot n (headerStamp h), s.modBlock c slot fun b => { b with held := b.held ++ [(key, n)] })
    else (.corrupt n, retainSlot s key n)

/-- QPOP; a header that fails its check traps 0x145 in the popping warp. At end-of-stream it is ordered after every commit and the close
(03 R50, R60; 09 Table 9.5; 20 R390, R391). -/
def execQpop (c : BitVec 2) (l : BitVec 4) (q : BitVec 3) (d : BitVec 6) (s : State) : Host.Outcome State Fault Refusal :=
  .next (issue (.qpop c l q d) (pipeMeta c (some l) [] [d] false) noExtra
    (fun x s => boundFault x s q (some true) fun _ _ => none)
    (fun x s => withPipe x s q fun key p =>
      match popNext s x.core x.slot key with
      | (.slot n st, t) => .done (x.each t fun _ w => { w.setS d.toNat (p.addrOf n) with stamp := st })
      | (.corrupt _, t) => .trap { cause := 0x145 } t
      | (.none, t) =>
        if p.eos then .done (x.ws (raisePts t x.core p.endTs) d.toNat 0#64) else .wait .emptyPipe id) s)

/-! ### QREL, QSTAT, QSTAMP, QCLOSE -/

/-- The block of an instance holds a number of a pipe through QPOP. -/
def Ix.holds (x : Ix) (s : State) (key n : Nat) : Bool := match x.block? s with | some b => b.held.contains (key, n) | none => false

/-- QREL: frees a slot that the block holds through QPOP (03 R60). -/
def execQrel (c : BitVec 2) (q : BitVec 3) (a : BitVec 6) (s : State) : Host.Outcome State Fault Refusal :=
  .next (issue (.qrel c q a) (pipeMeta c none [a] [] false) noExtra
    (fun x s => boundFault x s q (some true) fun key p =>
      if (p.findSlot (x.rs s a.toNat) fun n st => st.heldBy x.core x.slot
            && x.holds s key n).isNone then some 0x142
      else none)
    (fun x s => withPipe x s q fun key p =>
      match p.findSlot (x.rs s a.toNat) fun n st => st.heldBy x.core x.slot && x.holds s key n with
      | some n =>
        if p.scope == 2 && x.members.any (fun m => remoteWrites s x.core x.slot m x.split) then .wait .memory id
        else
          let t := s.modBlock x.core x.slot fun b => { b with held := b.held.filter fun h => h != (key, n) }
          .done (freeNumber t x.core key n)
      | none => .done s) s)

/-- QSTAT: the status at the home (03 R60, Table 3.9). -/
def execQstat (c : BitVec 2) (l : BitVec 4) (q : BitVec 3) (d : BitVec 6) (s : State) : Host.Outcome State Fault Refusal :=
  .next (issue (.qstat c l q d) (pipeMeta c (some l) [] [d] false) noExtra
    (fun x s => boundFault x s q none fun _ _ => none)
    (fun x s => withPipe x s q fun _ p => .done (x.ws s d.toNat p.status)) s)

/-- A number whose stamp QSTAMP may read: reserved or held by the block, or a pipe item of one of the warp's lanes
(03 R60). -/
def stampable (x : Ix) (s : State) (key n : Nat) (st : SeqState) : Bool :=
  st.reservedBy x.core x.slot
  || (st.heldBy x.core x.slot && match x.block? s with | some b => b.held.contains (key, n) | none => false)
  || match x.warp? s x.lead with
     | some w => w.pipeItems.any fun i => i.1 == key && i.2.1 == n
     | none => false

/-- QSTAMP: the header's stamp, or 0 for a number not yet committed (03 R60). -/
def execQstamp (c : BitVec 2) (l : BitVec 4) (q : BitVec 3) (d a : BitVec 6) (s : State) :
    Host.Outcome State Fault Refusal :=
  .next (issue (.qstamp c l q d a) (pipeMeta c (some l) [a] [d] false) noExtra
    (fun x s => boundFault x s q none fun key p =>
      if (p.findSlot (x.rs s a.toNat) (stampable x s key)).isNone then some 0x142 else none)
    (fun x s => withPipe x s q fun key p =>
      match p.findSlot (x.rs s a.toNat) (stampable x s key) with
      | none => .done s
      | some n =>
        let e := p.slots.getD n (Slot.blank .void)
        let v := match e.st with | .reserved _ _ _ => 0#64 | _ => headerStamp e.hdr
        .done (x.ws s d.toNat v)) s)

/-- QCLOSE: closes the pipe at its home (03 R64), as a release at the pipe's scope (09 Table 9.5). -/
def execQclose (c : BitVec 2) (q : BitVec 3) (s : State) : Host.Outcome State Fault Refusal :=
  .next (issue (.qclose c q) (pipeMeta c none [] [] false) noExtra
    (fun x s => boundFault x s q (some false) fun _ _ => none)
    (fun x s => withPipe x s q fun key p =>
      if p.scope == 2 && x.members.any (fun m => remoteWrites s x.core x.slot m x.split) then .wait .memory id
      else
        let t := releaseCore s x.core (x.asid s) p.memScope
        let ts := (t.core x.core).pts
        .done (closePipe (t.modPipe key fun p => { p with endTs := tsMax p.endTs ts }) key)) s)

end Sys2Proof.Machine
end

