-- ==== Sys2Proof/Machine/Tile.lean ====
section
/-! DEFINITION. TRD, TWR, TACC and TZERO: tile slices (05 R108, R109; 22 R418 to R421). -/

namespace Sys2Proof.Machine

open Sys2Proof

/-- Address in a core's tile file of element (row, column) of a physical tile (08 Table 8.3). -/
def tileAddr (k row col : Nat) : Nat := k * 0x10000 + row * 0x200 + 4 * col

/-- Reads a tile element. -/
def tileElem (s : State) (c k row col : Nat) : Word := BitVec.ofNat 32 (Mem.num (s.core c).tiles (tileAddr k row col) 4)

/-- Writes a tile element. -/
def setTile (s : State) (c k row col : Nat) (v : Word) : State :=
  s.modCore c fun x => { x with tiles := Mem.store x.tiles (tileAddr k row col) 4 v.toNat }

/-- A warp writes a tile element: what the matrix unit has there is kept apart (09 R190). -/
def warpTile (s : State) (c k row col : Nat) (v : Word) : State := setTile (keepUnit s c (tileAddr k row col)) c k row col v

/-- A tile slice: core, physical tile, row or column, index. -/
structure Slice where
  core : Nat
  tile : Nat
  col : Bool
  idx : Nat
deriving DecidableEq, Repr

/-- Element `j` of a slice (22 R419). -/
def Slice.get (z : Slice) (s : State) (j : Nat) : Word :=
  if z.col then tileElem s z.core z.tile j z.idx else tileElem s z.core z.tile z.idx j

/-- Writes element `j` of a slice. -/
def Slice.put (z : Slice) (s : State) (j : Nat) (v : Word) : State :=
  if z.col then warpTile s z.core z.tile j z.idx v else warpTile s z.core z.tile z.idx j v

/-- The slice index: rs(S) + IMM4, without wrap (05 R109). -/
def sliceIndex (x : Ix) (s : State) (r : BitVec 6) (i : BitVec 4) : Nat := (x.rs s r.toNat).toNat + i.toNat

/-- The slice of an instance (05 R108; 22 R420: T and S are the lead's). -/
def Ix.slice (x : Ix) (s : State) (rc : BitVec 1) (t : BitVec 3) (r : BitVec 6) (i : BitVec 4) : Slice :=
  { core := x.core, tile := (match x.block? s with | some b => b.tileBase | none => 0) + t.toNat, col := rc == 1#1,
    idx := sliceIndex x s r i }

/-- The warp-uniform faults of a slice, in their order: 0x047, 0x046 (22 R419). -/
def sliceFault (t : BitVec 3) (r : BitVec 6) (i : BitVec 4) (x : Ix) (s : State) : Option Nat :=
  match x.block? s with
  | none => none
  | some b =>
    if b.kernel.t ≤ t.toNat then some 0x047 else if 128 ≤ sliceIndex x s r i then some 0x046 else none

/-- The active non-helper lanes of every member, members ascending, each with both halves of the slice. -/
def sliceWrites (x : Ix) (s : State) : List (Nat × Warp × Nat × Nat) :=
  (x.warps s).flatMap fun p => (p.2.lanesOn (x.em p.2)).flatMap fun l => [(p.1, p.2, l, 0), (p.1, p.2, l, 1)]

/-- TRD: every member reads the slice (22 R420). -/
def execTrd (c : BitVec 2) (rc : BitVec 1) (t : BitVec 3) (v : BitVec 6) (r : BitVec 6) (i : BitVec 4) (s : State) :
    Host.Outcome State Fault Refusal :=
  let vd := vop v 2
  .next (issue (.trd c rc t v r i) { sc := c.toNat, dist := 3, srcs := [.s r.toNat], vout := [vd] } noExtra
    (sliceFault t r i)
    (withOperands [vd] fun x s =>
      let z := x.slice s rc t r i
      .done (x.putLanes s vd fun _ _ l => (z.get s l).toNat + (z.get s (64 + l)).toNat * 2 ^ 32)) s)

/-- TWR: bits copied unchanged; the highest-numbered member's value remains (22 R420). -/
def execTwr (c : BitVec 2) (rc : BitVec 1) (t : BitVec 3) (v : BitVec 6) (r : BitVec 6) (i : BitVec 4) (s : State) :
    Host.Outcome State Fault Refusal :=
  let va := vop v 2
  .next (issue (.twr c rc t v r i) { sc := c.toNat, dist := 3, vin := [va], srcs := [.s r.toNat] } noExtra
    (sliceFault t r i)
    (withOperands [va] fun x s =>
      let z := x.slice s rc t r i
      .done ((sliceWrites x s).foldl (fun s p =>
        z.put s (64 * p.2.2.2 + p.2.2.1) (word32 (readOp p.2.1 va p.2.2.1) p.2.2.2)) s)) s)

/-- One contribution of TACC: the element after it, and the flags (22 R419). -/
def accElem (fp : BitVec 8) (old new : Word) : Word × Flags :=
  let env : FEnv := { mode := RMode.ofCode (bits fp 0 2), ftz := bit fp 2, sat := false }
  let (r, fl) := faddElem .f32 env old.toNat new.toNat 0
  (BitVec.ofNat 32 r, fl)

/-- TACC: members in ascending order, each contribution rounded on its own (22 R420); then the flags. -/
def execTacc (c : BitVec 2) (rc : BitVec 1) (t : BitVec 3) (v : BitVec 6) (r : BitVec 6) (i : BitVec 4) (s : State) :
    Host.Outcome State Fault Refusal :=
  let va := vop v 2
  .next (issue (.tacc c rc t v r i) { sc := c.toNat, dist := 3, vin := [va], srcs := [.s r.toNat] } noExtra
    (sliceFault t r i)
    (withOperands [va] fun x s =>
      let z := x.slice s rc t r i
      let fp := x.fpm s
      let (u, fl) := (sliceWrites x s).foldl (fun (a : State × List (Nat × Nat × Flags)) p =>
        let j := 64 * p.2.2.2 + p.2.2.1
        let (e, f) := accElem fp (z.get a.1 j) (word32 (readOp p.2.1 va p.2.2.1) p.2.2.2)
        (z.put a.1 j e, (p.1, p.2.2.1, f) :: a.2)) (s, [])
      accrue x (x.members.map fun m => (m, (fl.filter fun q => q.1 == m).map fun q => (q.2.1, q.2.2))) u) s)

/-- TZERO: +0.0 in the elements of the active non-helper lanes, once (22 R420). -/
def execTzero (c : BitVec 2) (rc : BitVec 1) (t : BitVec 3) (r : BitVec 6) (i : BitVec 4) (s : State) :
    Host.Outcome State Fault Refusal :=
  .next (issue (.tzero c rc t r i) { sc := c.toNat, dist := 3, srcs := [.s r.toNat] } noExtra (sliceFault t r i)
    (fun x s =>
      let z := x.slice s rc t r i
      .done ((sliceWrites x s).foldl (fun s p => z.put s (64 * p.2.2.2 + p.2.2.1) 0#32) s)) s)

end Sys2Proof.Machine
end

