-- ==== Sys2Proof/Machine/Matrix.lean ====
section
/-! DEFINITION. The matrix unit: operand classes, panels, K-steps, the scale stream, job cards, the nest, virtual A, epilogues; MMK,
MMJ and the events of the unit (11 R208 to R225; 07 R149 to R152; 20 R380). -/

namespace Sys2Proof.Machine

open Sys2Proof

/-! ### Formats and panels (11 R208, R209) -/

/-- The floating-point format of an efmt code, if it is one (03 Table 3.4). -/
def efmtOf (code : Nat) : Option Fmt :=
  match code with
  | 1 => some .f32
  | 2 => some .f16
  | 3 => some .bf16
  | 4 => some .e5m2
  | 5 => some .e4m3
  | 6 => some .e3m2
  | 7 => some .e2m3
  | 8 => some .e2m1
  | _ => none

/-- Bits of an element of an efmt code. -/
def efmtBits (code : Nat) : Nat := match efmtOf code with | some f => f.width | none => 8

/-- An operand class (11 Table 11.1): elements of a K-step, K-groups. -/
structure MxClass where
  k : Nat
  groups : Nat
deriving DecidableEq, Repr

/-- The operand class of a format code, if the unit takes it. -/
def mxClass (code : Nat) : Option MxClass :=
  if code = 4 ∨ code = 5 ∨ code = 9 then some { k := 32, groups := 1 }
  else if code = 6 ∨ code = 7 ∨ code = 8 then some { k := 64, groups := 2 }
  else if code = 2 ∨ code = 3 then some { k := 16, groups := 1 }
  else none

/-- Bytes of a panel row. -/
def rowBytes (k code : Nat) : Nat := k * efmtBits code / 8

/-- The value of an element pattern: mxint8 stands for q × 2⁻⁶ (07 R149). -/
def mxValue (code x : Nat) : FVal :=
  match efmtOf code with
  | some f => f.decode x
  | none => let q := sextInt 8 x; .fin (decide (q < 0)) q.natAbs (-6)

/-- The elements of a packed row: a little-endian stream of elements (11 R209). -/
def unpackRow (k code : Nat) (bs : List Byte) : List FVal :=
  let x := ofBytes bs
  let n := efmtBits code
  (List.range k).map fun e => mxValue code (x / 2 ^ (n * e) % 2 ^ n)

/-- Packs element patterns of one row. -/
def packRow (code : Nat) (xs : List Nat) : List Byte :=
  let n := efmtBits code
  toBytes (xs.length * n / 8) ((xs.zipIdx.foldl (fun t p => t + p.1 % 2 ^ n * 2 ^ (n * p.2)) 0))

/-! ### The arithmetic of a K-step (11 R213; 07 R152) -/

/-- An exact group sum: NaN, the infinities met, and the exact finite part; a zero sum is negative only when every product is a
negative zero (DEDUCED, log 14). -/
structure GroupSum where
  nan : Bool
  pos : Bool
  neg : Bool
  sign : Bool
  mag : Nat
  exp : Int
  allNegZero : Bool
deriving DecidableEq, Repr

/-- The empty sum. -/
def GroupSum.zero : GroupSum :=
  { nan := false, pos := false, neg := false, sign := false, mag := 0, exp := 0, allNegZero := true }

/-- Adds one product exactly. -/
def GroupSum.add (g : GroupSum) (a b : FVal) : GroupSum :=
  match a, b with
  | .nan _, _ => { g with nan := true }
  | _, .nan _ => { g with nan := true }
  | .inf m, .inf n => if m = n then { g with pos := true } else { g with neg := true }
  | .inf m, .fin n x _ =>
    if x = 0 then { g with nan := true } else if m = n then { g with pos := true } else { g with neg := true }
  | .fin n x _, .inf m =>
    if x = 0 then { g with nan := true } else if m = n then { g with pos := true } else { g with neg := true }
  | .fin n1 m1 e1, .fin n2 m2 e2 =>
    let neg := n1 != n2
    let (s, m, e) := addExact g.sign g.mag g.exp neg (m1 * m2) (e1 + e2) false
    { g with sign := s, mag := m, exp := e, allNegZero := g.allNegZero && neg && m1 * m2 == 0 }

/-- The sum as a value, scaled by a power of two. -/
def GroupSum.value (g : GroupSum) (sh : Int) : FVal :=
  if g.nan || (g.pos && g.neg) then .nan false
  else if g.pos then .inf false
  else if g.neg then .inf true
  else if g.mag = 0 then .fin g.allNegZero 0 0
  else .fin g.sign g.mag (g.exp + sh)

/-- One K-group added to an accumulator element: the exact sum, scaled, added and rounded once (07 R152). -/
def accumulate (flush : Bool) (acc : Word) (as bs : List FVal) (ra rb : Nat) : Word :=
  let g := (as.zip bs).foldl (fun g p => g.add p.1 p.2) GroupSum.zero
  let v := if ra = 255 ∨ rb = 255 then FVal.nan false else g.value ((ra : Int) - 127 + ((rb : Int) - 127))
  let (x, _) := Fmt.f32.input flush acc.toNat
  BitVec.ofNat 32 (Fmt.f32.addV { FEnv.rne with ftz := flush } x v).1

/-- The scales of one record: byte `i` is the scale of row or column `i`; an unscaled step scales by 1 (11 R213, R214). -/
abbrev Scales := List Nat

/-- The scale of a row. -/
def scaleOf (r : Scales) (i : Nat) : Nat := r.getD i 0x7F

/-- An element of a tile as the unit has it: its own value where a warp has written the sector (09 R190). -/
def unitElem (s : State) (c tile i j : Nat) : Word :=
  let a := tileAddr tile i j
  match (s.core c).unitOwn.get? (sectorNo a) with
  | some v => BitVec.ofNat 32 (v / 2 ^ (8 * (a % 32)) % 2 ^ 32)
  | none => tileElem s c tile i j

/-- The unit writes an element of a tile, beside what a warp has written in its sector. -/
def setUnit (s : State) (c tile i j : Nat) (v : Word) : State :=
  let a := tileAddr tile i j
  match (s.core c).unitOwn.get? (sectorNo a) with
  | some x =>
    let k := 8 * (a % 32)
    s.modCore c fun t => { t with unitOwn := t.unitOwn.put (sectorNo a) (x - x / 2 ^ k % 2 ^ 32 * 2 ^ k + v.toNat * 2 ^ k) }
  | none => setTile s c tile i j v

/-- Performs the arithmetic of a K-step on a physical tile: A rows, B rows, and a pair of records for each K-group. -/
def kstepTile (s : State) (c tile : Nat) (flush : Bool) (size : Nat) (as bs : List (List FVal)) (rs : List (Scales × Scales)) : State :=
  (List.range 128).foldl (fun s i => (List.range 128).foldl (fun s j =>
    let a := as.getD i []
    let b := bs.getD j []
    let v := rs.zipIdx.foldl (fun acc r =>
      accumulate flush acc ((a.drop (r.2 * size)).take size) ((b.drop (r.2 * size)).take size) (scaleOf r.1.1 i) (scaleOf r.1.2 j))
      (unitElem s c tile i j)
    setUnit s c tile i j v) s) s

/-- The unit sets a physical tile to +0.0 (11 R216), beside what a warp has written there. -/
def zeroTile (s : State) (c tile : Nat) : State :=
  s.modCore c fun x =>
    { x with
      tiles := x.tiles.filter fun q => q.1 / 0x10000 != tile || x.unitOwn.has (sectorNo q.1)
      unitOwn := x.unitOwn.map fun (p : Nat × Nat) => (p.1, if sectorTile p.1 = tile then 0 else p.2) }

/-! ### The job card (11 Tables 11.4, 11.5) -/

/-- A level of the nest. -/
structure Level where
  n : Nat
  rot : Nat
  res : Nat
  as_ : Int
  bs_ : Int
  cs_ : Int
  res2 : Nat
deriving DecidableEq, Repr

/-- A card as one number, bit 0 the lowest of byte 0. -/
def cardNum (w : List DWord) : Nat := ofBytes (bytesOf w)

/-- Field of a card at a bit position. -/
def cardField (w : List DWord) (lo n : Nat) : Nat := cardNum w / 2 ^ lo % 2 ^ n

/-- Level entry `j`. -/
def levelOf (w : List DWord) (j : Nat) : Level :=
  let b := (0x30 + 12 * j) * 8
  { n := cardField w b 16, rot := cardField w (b + 16) 3, res := cardField w (b + 19) 1
    as_ := sextInt 22 (cardField w (b + 20) 22), bs_ := sextInt 22 (cardField w (b + 42) 22)
    cs_ := sextInt 22 (cardField w (b + 64) 22), res2 := cardField w (b + 86) 10 }

/-- The fixed fields of a card. -/
structure Card where
  afmt : Nat
  bfmt : Nat
  ofmt : Nat
  scaled : Bool
  flush : Bool
  zeroc : Bool
  va : Bool
  aspace : Nat
  bspace : Nat
  sspace : Nat
  ekind : Nat
  espace : Nat
  ctile0 : Nat
  /-- rotation set size -/
  ntiles : Nat
  nlev : Nat
  elev : Nat
  sr : Bool
  rel : Bool
  mscope : Nat
  omx : Bool
  epitch : Nat
  abase : Nat
  bbase : Nat
  sbase : Nat
  edest : Nat
  stamp : DWord
  srec : Nat
  levels : List Level
deriving DecidableEq, Repr

/-- Reads the fields of a card. -/
def cardOf (w : List DWord) : Card :=
  { afmt := recField w 0 0 4, bfmt := recField w 0 4 4, ofmt := recField w 0 8 4, scaled := recField w 0 12 1 == 1
    flush := recField w 0 13 1 == 1, zeroc := recField w 0 14 1 == 1, va := recField w 0 15 1 == 1
    aspace := recField w 0 16 2, bspace := recField w 0 18 2, sspace := recField w 0 20 2, ekind := recField w 0 22 2
    espace := recField w 0 24 2, ctile0 := recField w 0 26 3, ntiles := recField w 0 29 3 + 1, nlev := recField w 0 32 3
    elev := recField w 0 35 3, sr := recField w 0 38 1 == 1, rel := recField w 0 39 1 == 1, mscope := recField w 0 40 3
    omx := recField w 0 43 1 == 1, epitch := recField w 0 48 16, abase := recField w 1 0 56, bbase := recField w 2 0 56
    sbase := recField w 3 0 56, edest := recField w 4 0 56, stamp := wordAt w 5, srec := recField w 13 32 24
    levels := (List.range 5).map (levelOf w) }

/-- Level `j` of a card. -/
def Card.lev (z : Card) (j : Nat) : Level := z.levels.getD j { n := 0, rot := 0, res := 0, as_ := 0, bs_ := 0, cs_ := 0, res2 := 0 }

/-- Iterations of level `j`: levels at or beyond nlev count 1 (11 R216). -/
def Card.n (z : Card) (j : Nat) : Nat := if j < z.nlev then (z.lev j).n else 1

/-- The virtual A words (11 Table 11.5). -/
structure VirtA where
  H : Nat
  W : Nat
  C : Nat
  OW : Nat
  OH : Nat
  KH : Nat
  KW : Nat
  SH : Nat
  SW : Nat
  PH : Nat
  PW : Nat
  DH : Nat
  DW : Nat
  seed : Nat
deriving DecidableEq, Repr

/-- Reads the virtual A words. -/
def virtOf (w : List DWord) : VirtA :=
  { H := recField w 14 0 16, W := recField w 14 16 16, C := recField w 14 32 16, OW := recField w 14 48 16
    OH := recField w 15 0 16, KH := recField w 15 16 4 + 1, KW := recField w 15 20 4 + 1, SH := recField w 15 24 4 + 1
    SW := recField w 15 28 4 + 1, PH := recField w 15 32 4, PW := recField w 15 36 4, DH := recField w 15 40 4 + 1
    DW := recField w 15 44 4 + 1, seed := recField w 15 48 16 }

/-! ### The checks of a card (11 R220) -/

/-- Bytes of an output row of 128 elements. -/
def Card.outRow (z : Card) : Nat := 128 * efmtBits z.ofmt / 8

/-- Epilogues that the nest runs. -/
def Card.epilogues (z : Card) : Nat :=
  ((List.range 5).filter fun j => decide (z.elev ≤ j)).foldl (fun t j => t * z.n j) 1

/-- The reserved bits of a card are zero. -/
def cardReserved (w : List DWord) : Bool :=
  let z := cardOf w
  recField w 0 44 4 == 0 && recField w 1 56 8 == 0 && recField w 2 56 8 == 0 && recField w 3 56 8 == 0 && recField w 4 56 8 == 0
  && recField w 13 56 8 == 0 && z.levels.all (fun l => l.res == 0 && l.res2 == 0)
  && ((List.range 5).all fun j => decide (j < z.nlev) || cardField w ((0x30 + 12 * j) * 8) 96 == 0)
  && (z.va || (wordAt w 14 == 0#64 && recField w 15 0 48 == 0))

/-- The conditions of a virtual A (11 R217). -/
def virtOk (w : List DWord) : Bool :=
  let z := cardOf w
  let v := virtOf w
  match mxClass z.afmt with
  | none => true
  | some m => z.aspace == 1 && v.C % m.k == 0 && (z.lev 0).n * m.k == v.KH * v.KW * v.C && (z.lev 0).as_ == 0

/-- A card is malformed: 0x102. -/
def cardBad (w : List DWord) : Bool :=
  let z := cardOf w
  !cardReserved w || z.nlev == 0 || decide (5 < z.nlev) || z.elev == 0 || decide (z.nlev < z.elev)
  || ((List.range z.nlev).any fun j => (z.lev j).n == 0)
  || ((List.range z.elev).any fun j => (z.lev j).rot != 0 || (z.lev j).cs_ != 0)
  || decide (8 < z.ctile0 + z.ntiles) || z.sspace == 3 || z.espace == 3 || decide (5 < z.mscope)
  || (z.ekind != 0 && decide (z.epitch * 32 < z.outRow)) || (z.ekind == 2 && decide (1 < z.epilogues))
  || (z.sr && z.ofmt == 1) || (z.va && !virtOk w)

/-- A format that the epilogue does not take. -/
def badOfmt (z : Card) : Bool := z.ekind != 0 && (z.ofmt == 0 || decide (9 < z.ofmt))

/-- The formats of a card do not go together: 0x101. -/
def cardFormats (z : Card) : Bool :=
  match mxClass z.afmt, mxClass z.bfmt with
  | some a, some b =>
    a != b || (z.scaled && a.k == 16) || badOfmt z || (z.omx && (z.ofmt == 1 || z.ofmt == 2 || z.ofmt == 3))
    || (z.ofmt == 9 && !z.omx)
  | _, _ => true

/-- The operand tiles that a card names. -/
def Card.operandTiles (z : Card) : List Nat :=
  (if z.aspace = 3 then [z.abase / 0x10000 % 8] else []) ++ (if z.bspace = 3 then [z.bbase / 0x10000 % 8] else [])

/-- A tile of the rotation set. -/
def Card.inSet (z : Card) (t : Nat) : Bool := decide (z.ctile0 ≤ t) && decide (t < z.ctile0 + z.ntiles)

/-- The status with which a card is refused, if it is (11 R220). -/
def cardCause (b : Block) (w : List DWord) : Option Nat :=
  let z := cardOf w
  if cardBad w then some 0x102
  else if cardFormats z then some 0x101
  else if decide (b.kernel.t < z.ctile0 + z.ntiles) || z.operandTiles.any (fun t => decide (b.kernel.t ≤ t)) then some 0x047
  else if z.operandTiles.any z.inSet then some 0x105
  else none

/-! ### Reading operands (11 R209, R221) -/

/-- Reads consecutive bytes by parts of `p` bytes. -/
def readParts (s : State) (c e : Nat) (op : OpEntry) (sp p a : Nat) : Nat → List Byte → Except ERead (List Byte) × State
  | 0, acc => (.ok acc, s)
  | k + 1, acc => match engRead s c e op sp p a with
    | (.ok v, s) => readParts s c e op sp p ((a + p) % 2 ^ 64) k (acc ++ toBytes p v)
    | (r, s) => (.error r, s)

/-- An operand outside scratch is the unit's 0x103 (11 R212, R223). -/
def boundAs (r : Except ERead (List Byte) × State) : Except ERead (List Byte) × State :=
  match r with
  | (.error (.bad 0x08A), s) => (.error (.bad 0x103), s)
  | r => r

/-- The operand's displacement brings a byte address; below zero it lies in no space. -/
def operandAt (base : Nat) (d : Int) : Option Nat := let a := (base : Int) + d; if a < 0 then none else some a.toNat

/-- Reads `n` bytes of an operand at a displacement of its base: from memory, scratch, or a tile's image (11 Table 11.3). -/
def readOperand (s : State) (c e : Nat) (op : OpEntry) (sp base : Nat) (d : Int) (n : Nat) : Except ERead (List Byte) × State :=
  if sp = 3 then
    match operandAt (base % 0x10000) d, opBlock s c op with
    | some o, some b =>
      if 0x10000 < o + n then (.error (.bad 0x103), s)
      else (.ok (Mem.readN (s.core c).tiles ((b.tileBase + base / 0x10000 % 8) * 0x10000 + o) n), s)
    | _, _ => (.error (.bad 0x103), s)
  else
    match operandAt base d with
    | none => (.error (.bad (if sp = 0 then 0x080 else 0x103)), s)
    | some a => if a % 8 = 0 then boundAs (readParts s c e op sp 8 a (n / 8) []) else boundAs (readParts s c e op sp 1 a n [])

/-- Reads the rows of a panel from row `i` on. -/
def readPanel (s : State) (c e : Nat) (op : OpEntry) (sp base : Nat) (d : Int) (k code i : Nat) :
    Nat → List (List FVal) → Except ERead (List (List FVal)) × State
  | 0, acc => (.ok acc, s)
  | f + 1, acc =>
    let n := rowBytes k code
    match readOperand s c e op sp base (d + ((i * n : Nat) : Int)) n with
    | (.ok bs, s) => readPanel s c e op sp base d k code (i + 1) f (acc ++ [unpackRow k code bs])
    | (.error r, s) => (.error r, s)

/-- Row `r` of a virtual A: the place of its elements in the tensor; none for a padding row (11 R217). -/
def virtRow (z : Card) (v : VirtA) (m : Int) (t k : Nat) : Option (Int × Nat) :=
  let kk := k * t
  let fr := kk / (v.KW * v.C)
  let fs := kk / v.C % v.KW
  let c0 := kk % v.C
  let n := m.toNat / (v.OH * v.OW)
  let oh := m.toNat / v.OW % v.OH
  let ow := m.toNat % v.OW
  let ih : Int := ((oh * v.SH + fr * v.DH : Nat) : Int) - v.PH
  let iw : Int := ((ow * v.SW + fs * v.DW : Nat) : Int) - v.PW
  if ih < 0 ∨ (v.H : Int) ≤ ih ∨ iw < 0 ∨ (v.W : Int) ≤ iw then none
  else
    let el := ((n * v.H + ih.toNat) * v.W + iw.toNat) * v.C + c0
    some (((z.abase + el * efmtBits z.afmt / 8 : Nat) : Int), rowBytes k z.afmt)

/-- Reads the rows of a virtual A from row `i` on. An output size of zero leaves the rows' places unstated: their bytes are
free (log 3). -/
def readVirt (s : State) (c e : Nat) (op : OpEntry) (z : Card) (v : VirtA) (m0 : Int) (t k i : Nat) :
    Nat → List (List FVal) → Except ERead (List (List FVal)) × State
  | 0, acc => (.ok acc, s)
  | f + 1, acc =>
    let m := m0 + (i : Int)
    if m < 0 then (.error (.bad 0x103), s)
    else if v.OH * v.OW = 0 then
      let (x, s) := s.draw
      readVirt s c e op z v m0 t k (i + 1) f (acc ++ [unpackRow k z.afmt (toBytes (rowBytes k z.afmt) x)])
    else match virtRow z v m t k with
      | none => readVirt s c e op z v m0 t k (i + 1) f (acc ++ [List.replicate k (.fin false 0 0)])
      | some (a, n) => match readOperand s c e op 1 0 a n with
        | (.ok bs, s) => readVirt s c e op z v m0 t k (i + 1) f (acc ++ [unpackRow k z.afmt bs])
        | (.error r, s) => (.error r, s)

/-- Reads the scale records of a K-step: for each K-group one of A, then one of B (11 R214). -/
def readScales (s : State) (c e : Nat) (op : OpEntry) (z : Card) (r : Nat) :
    Nat → List (Scales × Scales) → Except ERead (List (Scales × Scales)) × State
  | 0, acc => (.ok acc, s)
  | f + 1, acc =>
    match readOperand s c e op z.sspace z.sbase ((128 * r : Nat) : Int) 256 with
    | (.ok bs, s) =>
      let ns := bs.map (·.toNat)
      readScales s c e op z (r + 2) f (acc ++ [(ns.take 128, ns.drop 128)])
    | (.error x, s) => (.error x, s)

/-! ### The nest (11 R216) -/

/-- Index of level `j`. -/
def OpEntry.ix (op : OpEntry) (j : Nat) : Nat := op.idx.getD j 0

/-- Byte displacement of the present index vector along a stride. -/
def Card.shift (z : Card) (op : OpEntry) (f : Level → Int) : Int :=
  32 * (List.range z.nlev).foldl (fun t j => t + (op.ix j : Int) * f (z.lev j)) 0

/-- Every level below `j` is at its last index. -/
def Card.lastBelow (z : Card) (op : OpEntry) (j : Nat) : Bool := (List.range j).all fun k => op.ix k + 1 == z.n k

/-- The tile after the rotations at the end of a block (11 R216). -/
def Card.rotate (z : Card) (op : OpEntry) : Nat :=
  (List.range z.nlev).foldl (fun cur j =>
    if 1 ≤ j ∧ z.lastBelow op j then z.ctile0 + (cur - z.ctile0 + (z.lev j).rot) % z.ntiles else cur) op.cur

/-- The next index vector, i[0] fastest; true when the nest has ended. -/
def Card.advance (z : Card) (op : OpEntry) : List Nat × Bool :=
  (List.range 5).foldl (fun (a : List Nat × Bool) j =>
    if a.2 then
      (if op.ix j + 1 < z.n j then (a.1 ++ [op.ix j + 1], false) else (a.1 ++ [0], true))
    else (a.1 ++ [op.ix j], false)) ([], true)

/-- The operation passes the present index vector: rotation at the end of a block, then the next vector. -/
def passIndex (z : Card) (op : OpEntry) : OpEntry :=
  let cur := if z.lastBelow op z.elev then z.rotate op else op.cur
  let (idx, done) := z.advance op
  { op with idx := idx, cur := cur, nestDone := done, got := [] }

/-! ### K-steps -/

/-- An operation of the unit may go on: accepted, not complete, not suspended, with its leave. -/
def OpEntry.runs (op : OpEntry) : Bool := op.accepted && !op.complete && !op.suspended && op.asks == 0

/-- The head of a core's matrix queue, if it is accepted and runs. -/
def matrixHead (s : State) (c : Nat) : Option (Nat × OpEntry) :=
  match (s.core c).matQ.head? with
  | none => none
  | some e => match s.op? c e with
    | some op => if op.runs then some (e, op) else none
    | none => none

/-- The operation whose K-steps the unit performs: the first of the queue with K-steps left or with scale records still to be read
past its last one. Behind one that is suspended the others wait (11 R222, R223). -/
def runnerOf (s : State) (c : Nat) : List Nat → Option (Nat × OpEntry)
  | [] => none
  | e :: r => match s.op? c e with
    | some op =>
      if !op.runs then none
      else if op.nestDone && (op.epend || (cardOf op.record).srec ≤ op.sused + op.surplus) then runnerOf s c r
      else some (e, op)
    | none => none

/-- The operation whose K-steps the unit of a core performs. -/
def matrixRunner (s : State) (c : Nat) : Option (Nat × OpEntry) := runnerOf s c (s.core c).matQ

/-- A physical tile that an epilogue is still to read (11 R222). -/
def epilogueTile (s : State) (c tile : Nat) : Bool :=
  (s.core c).matQ.any fun e => match s.op? c e with
    | some o => o.epend && !o.epOut && (match s.block? c o.slot with
      | some b => b.tileBase + o.epCur == tile
      | none => false)
    | none => false

/-- The present K-step waits: for an epilogue of its tile; one that ends a block with an epilogue, or the nest, until the epilogues
before it are done (11 R218, R222). -/
def stepWaits (s : State) (c e : Nat) (op : OpEntry) (z : Card) (b : Block) : Bool :=
  epilogueTile s c (b.tileBase + op.cur)
  || (((z.ekind != 0 && z.lastBelow op z.elev) || (z.advance op).2) && (op.epend || (s.core c).matQ.head? != some e))

/-- What a K-step reads: A rows, B rows, scales. -/
def readStep (s : State) (c e : Nat) (op : OpEntry) (z : Card) (m : MxClass) :
    Except ERead (List (List FVal) × List (List FVal) × List (Scales × Scales)) × State :=
  let da := z.shift op (·.as_)
  let (ra, s) :=
    if z.va then
      let m0 := (List.range z.nlev).foldl (fun (t : Int) j => if j = 0 then t else t + (op.ix j : Int) * (z.lev j).as_) 0
      readVirt s c e op z (virtOf op.record) m0 (op.ix 0) m.k 0 128 []
    else readPanel s c e op z.aspace z.abase da m.k z.afmt 0 128 []
  match ra with
  | .error r => (.error r, s)
  | .ok as_ => match readPanel s c e op z.bspace z.bbase (z.shift op (·.bs_)) m.k z.bfmt 0 128 [] with
    | (.error r, s) => (.error r, s)
    | (.ok bs_, s) =>
      if z.scaled then match readScales s c e op z op.sused m.groups [] with
        | (.error r, s) => (.error r, s)
        | (.ok rs, s) => (.ok (as_, bs_, rs), s)
      else (.ok (as_, bs_, List.replicate m.groups ([], [])), s)

/-- An operation whose nest has ended completes, once its epilogues are done and its remote writes performed (11 R221). -/
def matrixTail (s : State) (c e : Nat) : State :=
  match s.op? c e with
  | none => s
  | some op => if op.nestDone && !op.epend && !op.complete && !engRemote s c e then opDone s c e 0 else s

/-- This index vector is the last of the nest. -/
def Card.isLast (z : Card) (op : OpEntry) : Bool := (z.advance op).2

/-- The fetcher reads one scale record that no K-step takes; with the last of them the stream is desynchronised, unless the operation
is unscaled and has its K-steps before it (11 R214). -/
def readOver (s : State) (c e : Nat) (op : OpEntry) (z : Card) : State :=
  match readOperand s c e op z.sspace z.sbase ((128 * (op.sused + op.surplus) : Nat) : Int) 128 with
  | (.error r, s) => engStopRead s c e r
  | (.ok _, s) =>
    let s := s.modOp c e fun o => { o with surplus := op.surplus + 1, got := [] }
    if z.scaled && decide (z.srec ≤ op.sused + op.surplus + 1) then opDone s c e 0x104 else s

/-- An operation after the K-step at its index vector: `sused` records have been consumed. Behind the last K-step of a stream with
records left no epilogue follows (11 R214, R216). -/
def afterStep (z : Card) (sused : Nat) (op : OpEntry) : OpEntry :=
  let last := z.isLast op
  let extra := last && z.scaled && decide (sused < z.srec)
  let o := { passIndex z op with sused := sused, consumed := op.consumed || (last && !extra) }
  if z.ekind ≠ 0 && z.lastBelow op z.elev && !extra then { o with epend := true, epIdx := op.idx, epCur := op.cur } else o

/-- A K-step whose operands have been read (11 R213, R214, R216). -/
def applyStep (s : State) (c e : Nat) (op : OpEntry) (z : Card) (m : MxClass) (b : Block) (as_ bs_ : List (List FVal))
    (rs : List (Scales × Scales)) : State :=
  let s := kstepTile s c (b.tileBase + op.cur) z.flush (m.k / m.groups) as_ bs_ rs
  let s := pmCount s c op.asid 8 1
  let s := s.modOp c e fun o => afterStep z (if z.scaled then op.sused + 2 * m.groups else 0) o
  if z.isLast op && !z.scaled && z.srec ≠ 0 then opDone s c e 0x104 else matrixTail s c e

/-- The next K-step of an operation, in its block: the tile is set to zero where a block of accumulation begins, the operands and
records are read, the products are added. A step whose records are missing is not performed: the fetcher delivers what there is, and
the stream is desynchronised (11 R214, R216). -/
def stepOf (s : State) (c e : Nat) (op : OpEntry) (z : Card) (m : MxClass) (b : Block) : State :=
  let need := if z.scaled then 2 * m.groups else 0
  let s := if z.zeroc && (List.range z.elev).all (fun j => op.ix j == 0) then zeroTile s c (b.tileBase + op.cur) else s
  if z.srec < op.sused + need then
    (if op.sused + op.surplus < z.srec then readOver s c e op z else opDone s c e 0x104)
  else match readStep s c e op z m with
    | (.error r, s) => engStopRead s c e r
    | (.ok (as_, bs_, rs), s) => applyStep s c e op z m b as_ bs_ rs

/-- K_STEP: the unit of a core performs the next K-step of its running operation, or its fetcher reads a scale record that no K-step
takes: those of an unscaled operation before its first step, those left over behind the last one (11 R213, R214). -/
def execKStep (core : Nat) (s : State) : Host.Outcome State Fault Refusal :=
  .next (
    match matrixRunner s core with
    | none => s
    | some (e, op) =>
      let z := cardOf op.record
      match mxClass z.afmt, opBlock s core op with
      | none, _ => s
      | some _, none => opDone s core e 0x047
      | some m, some b =>
        if (op.nestDone || !z.scaled) && decide (op.sused + op.surplus < z.srec) then readOver s core e op z
        else if stepWaits s core e op z b then s
        else stepOf s core e op z m b)

/-! ### Epilogues (11 R218, R219) -/

/-- floor(log2 x) of the positive value m × 2^e. -/
def floorLog2 (m : Nat) (e : Int) : Int := e + (bitLen m : Int) - 1

/-- Largest element exponent of an MX format (07 Table 7.8). -/
def emaxElem (code : Nat) : Int := match code with | 4 => 15 | 5 => 8 | 6 => 4 | 7 => 2 | 8 => 2 | _ => 0

/-- The larger of two magnitudes. -/
def magMax (a b : Nat × Int) : Nat × Int :=
  let e := if a.2 < b.2 then a.2 else b.2
  if a.1 * 2 ^ (a.2 - e).toNat < b.1 * 2 ^ (b.2 - e).toNat then b else a

/-- The E8M0 scale of a block of f32 values (07 R149). -/
def mxScale (code : Nat) (xs : List FVal) : Nat :=
  if xs.any fun x => match x with | .fin _ _ _ => false | _ => true then 0xFF
  else
    let a := xs.foldl (fun (a : Nat × Int) x => match x with | .fin _ m e => magMax a (m, e) | _ => a) (0, 0)
    if a.1 = 0 then 0
    else (clamp 0 254 (floorLog2 a.1 a.2 - emaxElem code + 127)).toNat

/-- An element quantised under a scale (07 R150). -/
def mxQuant (code scale : Nat) (zero : Bool) (mode : RMode) (x : FVal) : Nat :=
  if scale = 0xFF then (if code = 4 ∨ code = 5 then 0x7F else 0)
  else if zero then 0
  else match x with
    | .fin n m e =>
      let e := e + (127 - (scale : Int))
      (match efmtOf code with
        | some f => (f.roundFin { mode := mode, ftz := false, sat := true } n m e false).1
        | none =>
          let (q, _) := roundInt mode n m (e + 6)
          let q := if 127 < q then 127 else q
          if n then (256 - q) % 256 else q)
    | _ => 0

/-- An element converted for the output: f32 copies the bits, the others by R147 with SAT (11 R218). -/
def convertOut (code : Nat) (mode : RMode) (w : Word) : Nat :=
  if code = 1 then w.toNat
  else match efmtOf code with
    | some f => (f.convV { mode := mode, ftz := false, sat := true } (Fmt.f32.decode w.toNat)).1
    | none => 0

/-- The roundings of a row: one generator state for each element, in column order (11 R218; 07 R139). -/
def rowModes (sr : Bool) (seed i : Nat) : List RMode :=
  if sr then
    ((List.range 128).foldl (fun (a : List RMode × Word) _ => let x := srNext a.2; (a.1 ++ [.sr (srBits x)], x))
      ([], BitVec.ofNat 32 (seed * 2 ^ 16 + i + 1))).1
  else List.replicate 128 .rne

/-- A row of the output: its bytes, and with omx its four scales. -/
def outRow (z : Card) (seed i : Nat) (row : List Word) : List Byte × List Byte :=
  let ms := rowModes z.sr seed i
  if z.omx then
    let blocks := (List.range 4).map fun b =>
      let ws := (row.drop (32 * b)).take 32
      let xs := ws.map fun w => Fmt.f32.decode w.toNat
      let sc := mxScale z.ofmt xs
      let zero := xs.all fun x => match x with | .fin _ m _ => m == 0 | _ => false
      (sc, (xs.zip ((ms.drop (32 * b)).take 32)).map fun p => mxQuant z.ofmt sc zero p.2 p.1)
    (packRow z.ofmt (blocks.flatMap (·.2)), blocks.map fun b => BitVec.ofNat 8 b.1)
  else (packRow z.ofmt ((row.zip ms).map fun p => convertOut z.ofmt p.2 p.1), [])

/-- The output of a tile: bytes by offset from its destination (11 R218). -/
def outImage (s : State) (c tile : Nat) (z : Card) (seed : Nat) : List (Nat × List Byte) :=
  (List.range 128).flatMap fun i =>
    let (bs, sc) := outRow z seed i ((List.range 128).map fun j => tileElem s c tile i j)
    (32 * z.epitch * i, bs) :: (if z.omx then [(32 * z.epitch * 128 + 4 * i, sc)] else [])

/-- Length of the output. -/
def Card.outLength (z : Card) : Nat := 32 * z.epitch * 128 + (if z.omx then 512 else 0)

/-- The output cut into accesses: 8 bytes where the address is a multiple of 8, single bytes elsewhere. -/
def outAccesses (dest : Nat) (img : List (Nat × List Byte)) : List (Nat × Nat × Nat) :=
  img.flatMap fun p =>
    let a := dest + p.1
    if a % 8 = 0 ∧ p.2.length % 8 = 0 then
      (List.range (p.2.length / 8)).map fun i => (a + 8 * i, 8, ofBytes ((p.2.drop (8 * i)).take 8))
    else p.2.zipIdx.map fun b => (a + b.2, 1, b.1.toNat)

/-- Finds the first access that cannot be made, before any is made: no partial epilogue is written (11 R223). -/
def checkOut (s : State) (c e : Nat) (op : OpEntry) (sp : Nat) : List (Nat × Nat × Nat) → Bool × State
  | [] => (true, s)
  | (a, n, _) :: r => match engPlace s c op sp n a .engWrite with
    | (.logged cause, t) => (false, engStopWrite t c e (.fault cause a))
    | (.bad cause, t) => (false, opDone t c e cause)
    | (.at_ p, t) => match engWriteCause t false op.asid n p.at_ with
      | some 0x095 => (false, engStopWrite t c e (.fault 0x095 a))
      | some cause => (false, opDone t c e cause)
      | none => checkOut t c e op sp r

/-- Makes the accesses of an output. -/
def writeOut (s : State) (c e : Nat) (op : OpEntry) (sp : Nat) (l : List (Nat × Nat × Nat)) : State :=
  l.foldl (fun s p => (engWrite s c e op sp p.2.1 p.1 p.2.2).2) s

/-- Where an epilogue goes: space and address, with the pipe and the number that it is to commit; or it waits; or it ends the
operation. -/
inductive EpDest where
  | to_ (sp addr : Nat) (commit : Option (Nat × Nat))
  | waits
  | ends (cause : Nat)
deriving DecidableEq, Repr

/-- A slot that the issuing block holds reserved, by its address (11 R219 ekind 2). -/
def reservedSlot (s : State) (c slot : Nat) (a : Nat) : Option (Nat × Pipe) :=
  match s.block? c slot with
  | none => none
  | some b => (b.warps.flatMap (·.reserved)).findSome? fun q => match s.pipes.get? q.1 with
    | some p => if (p.addrOf q.2).toNat = a then some (q.2, p) else none
    | none => none

/-- The destination of the present epilogue (11 R218, R219). -/
def epDest (s : State) (c e : Nat) (op : OpEntry) (z : Card) : EpDest × State :=
  let d := z.shift op (·.cs_)
  let at_ (base : Nat) : Nat := (((base : Int) + d) % 2 ^ 64).toNat
  match z.ekind with
  | 1 => (.to_ z.espace (at_ z.edest) none, s)
  | 2 => (match reservedSlot s c op.slot z.edest with
    | none => (.ends 0x142, s)
    | some (_, p) => if p.ssize < z.outLength then (.ends 0x144, s) else (.to_ 0 (at_ z.edest) none, s))
  | _ => match op.pq with
    | none => (.ends 0x140, s)
    | some q => match s.pipes.get? q.pipe with
      | none => (.ends 0x140, s)
      | some p =>
        if p.ssize < z.outLength then (.ends 0x144, s)
        else match op.eseq with
          | some n => (.to_ 0 (p.addrOf n).toNat (some (q.pipe, n)), s)
          | none =>
            if p.closed then (.ends 0x143, s)
            else
              let s := drawGrants s c q.pipe
              match ((s.core c).grant q.pipe).nums with
              | [] => (.waits, s)
              | n :: r =>
                let s := s.modCore c fun k =>
                  { k with grants := k.grants.put q.pipe { k.grant q.pipe with nums := r, last := s.kalends.toNat } }
                let s := s.modPipe q.pipe fun p => p.setSt n (.reserved c op.slot 0x1F)
                (.to_ 0 (p.addrOf n).toNat (some (q.pipe, n)),
                  s.modOp c e fun o => { o with eseq := some n, ets := tsMax o.ets (p.freeTs.getD (p.slotOf n) 0#20) })

/-- The commit of a pipe epilogue: header with p_warp 0x1F and ostamp, the items of the block marked (11 R219; 14 R277). -/
def commitEpilogue (s : State) (c e : Nat) (op : OpEntry) (z : Card) (key n : Nat) : State :=
  let number := match s.block? c op.slot with | some b => b.number.toNat | none => 0
  let hdr := mkHeader s z.stamp n z.outLength false true { core := c, block := number, warp := 0x1F }
  let ets := match s.op? c e with | some o => o.ets | none => op.ets
  let s := sendCommit (drainFlits s) key n hdr ets
  (markItems s c op.slot).modOp c e fun o => { o with eseq := none }

/-- The epilogue as an operation's own index and tile have it. -/
def OpEntry.atEpilogue (op : OpEntry) : OpEntry := { op with idx := op.epIdx, cur := op.epCur }

/-- An epilogue whose writes have been made ends when the last of them has been performed: the commit follows them, and a cancellation
that waited for it takes effect (11 R219, R221, R223). -/
def endEpilogue (s : State) (c e : Nat) : State :=
  match s.op? c e with
  | none => s
  | some op =>
    if engRemote s c e then s
    else
      let s := match op.pq, op.eseq with
        | some q, some n => commitEpilogue s c e op (cardOf op.record) q.pipe n
        | _, _ => s
      let s := s.modOp c e fun o => { o with epend := false, epOut := false }
      if op.cancelled then opDone s c e 0x108 else matrixTail s c e

/-- Performs the pending epilogue of an operation. -/
def runEpilogue (s : State) (c e : Nat) (op : OpEntry) (z : Card) : State :=
  if op.epOut then endEpilogue s c e
  else match opBlock s c op with
  | none => opDone s c e 0x047
  | some b => match epDest s c e op.atEpilogue z with
    | (.waits, s) => s
    | (.ends cause, s) => opDone s c e cause
    | (.to_ sp a _, s) =>
      let s := settleTile s c (b.tileBase + op.epCur)
      let acc := outAccesses a (outImage s c (b.tileBase + op.epCur) z (virtOf op.record).seed)
      match checkOut s c e op sp acc with
      | (false, s) => s
      | (true, s) => endEpilogue ((writeOut s c e op sp acc).modOp c e fun o => { o with epOut := true }) c e

/-- EPILOGUE: the unit of a core performs the pending epilogue of its running operation (11 R218). -/
def execEpilogue (core : Nat) (s : State) : Host.Outcome State Fault Refusal :=
  .next (
    match matrixHead s core with
    | none => s
    | some (e, op) => if op.epend then runEpilogue s core e op (cardOf op.record) else matrixTail s core e)

/-! ### Acceptance (11 R215, R219, R220) -/

/-- The stream binding that a card of ekind 3 captures. -/
def captureBinding (s : State) (c : Nat) (op : OpEntry) (z : Card) : Except Nat (Option Stream) :=
  if z.ekind ≠ 3 then .ok none
  else match (s.warp? c op.slot op.warp).bind fun w => (w.qregs.getD (z.edest % 8) none) with
    | none => .error 0x140
    | some b => if b.consumer then .error 0x141 else .ok (some b)

/-- The operation that the unit accepts next: the first of its queue that it has not accepted (11 R210). -/
def nextAccept (s : State) (c : Nat) : Option Nat :=
  ((s.core c).matQ.take 4).find? fun e => match s.op? c e with | some o => !o.accepted && !o.complete | none => false

/-- MATRIX_ACCEPT: the unit of a core reads and checks the card of its next operation, whatever the ones before it do (11 R210, R215,
R220). -/
def execMatrixAccept (core : Nat) (s : State) : Host.Outcome State Fault Refusal :=
  .next (
    match nextAccept s core with
    | none => s
    | some e => match s.op? core e with
      | none => s
      | some op =>
        if op.suspended then s
        else match readRecord s core e op 16 with
          | (.error r, s) => engStopRead s core e r
          | (.ok ws, s) =>
            let ws := withStampWord 5 op ws
            let z := cardOf ws
            let s := s.modOp core e fun o => { o with record := ws, got := [] }
            match s.block? core op.slot with
            | none => s
            | some b => match cardCause b ws with
              | some cause => opDone s core e cause
              | none => match captureBinding s core op z with
                | .error cause => opDone s core e cause
                | .ok q => s.modOp core e fun o => { o with accepted := true, pq := q, cur := z.ctile0 })

/-- MATRIX_FAULT_RESUME: firmware has served the fault of a record; the operation goes on (11 R223). -/
def execMatrixFaultResume (core rseq : Nat) (s : State) : Host.Outcome State Fault Refusal :=
  .next (
    match s.ctxs.find? fun x => x.2.records.any fun r =>
        r.written && r.rseq.toNat == rseq && (match r.who with
          | .engine c e _ => c == core && (match s.op? c e with | some o => o.kind == .matrix | none => false)
          | _ => false) with
    | none => s
    | some (asid, x) =>
      match x.records.find? fun r => r.written && r.rseq.toNat == rseq with
      | some r => (match r.who with
        | .engine c e n =>
          dropRecord (if stillWaits s c e n then modEng s c e fun o => { o with suspended := false } else s) asid r.rseq
        | _ => s)
      | none => s)

/-! ### MMK and MMJ -/

/-- The equivalent card of an MMK (11 R212). -/
def mmkCard (a b p f sb : DWord) : List DWord :=
  let w0 := bits f 0 4 + bits f 4 4 * 2 ^ 4 + bits f 11 1 * 2 ^ 12 + bits f 12 1 * 2 ^ 13 + bits f 13 1 * 2 ^ 14
    + bits a 56 2 * 2 ^ 16 + bits b 56 2 * 2 ^ 18 + bits f 14 2 * 2 ^ 20 + bits f 8 3 * 2 ^ 26 + 1 * 2 ^ 32 + 1 * 2 ^ 35
  let lev := bits p 0 16 + bits p 16 22 * 2 ^ 20 + bits p 38 22 * 2 ^ 42
  [BitVec.ofNat 64 w0, BitVec.ofNat 64 (bits a 0 56), BitVec.ofNat 64 (bits b 0 56), BitVec.ofNat 64 (bits sb 0 56), 0#64, 0#64,
    BitVec.ofNat 64 lev, 0#64, 0#64, 0#64, 0#64, 0#64, 0#64, BitVec.ofNat 64 (bits f 16 16 * 2 ^ 32), 0#64, 0#64]

/-- A panel lies outside its space (11 R212): scratch, cluster scratch, tile. -/
def panelOutside (s : State) (x : Ix) (b : Block) (sp base : Nat) (d : Int) (n : Nat) : Bool :=
  let inScratch (a : Nat) : Bool := match scratchPlace s x.core b sp a with | .at_ _ => true | _ => false
  if sp = 0 then false
  else if sp = 3 then
    decide (2 ^ 19 ≤ base) || (match operandAt (base % 0x10000) d with | some o => decide (0x10000 < o + n) | none => true)
  else match operandAt base d with
    | none => true
    | some a => !(inScratch a && inScratch (a + n - 1) && (sp == 1 || a / 2 ^ 19 == (a + n - 1) / 2 ^ 19))

/-- The faults of MMK at issue (11 R212). -/
def mmkFault (a b : Nat) (x : Ix) (s : State) : Option Nat :=
  let pa := x.rs s a
  let pb := x.rs s (a + 1)
  let p := x.rs s (a + 2)
  let f := x.rs s (a + 3)
  let sb := x.rs s b
  let z := cardOf (mmkCard pa pb p f sb)
  let steps := bits p 0 16
  match x.block? s with
  | none => none
  | some k =>
    if bits pa 58 6 ≠ 0 ∨ bits pb 58 6 ≠ 0 ∨ bits p 60 4 ≠ 0 ∨ bits f 32 32 ≠ 0 ∨ bits sb 56 8 ≠ 0 ∨ z.sspace = 3 then some 0x102
    else if cardFormats z then some 0x101
    else if decide (k.kernel.t ≤ z.ctile0) || z.operandTiles.any (fun t => decide (k.kernel.t ≤ t)) then some 0x047
    else if z.operandTiles.contains z.ctile0 then some 0x105
    else match mxClass z.afmt with
      | none => some 0x101
      | some m =>
        let na := 128 * rowBytes m.k z.afmt
        let nb := 128 * rowBytes m.k z.bfmt
        let l := z.lev 0
        let last : Int := 32 * ((steps : Int) - 1)
        if steps ≠ 0 ∧ (panelOutside s x k z.aspace z.abase 0 na || panelOutside s x k z.bspace z.bbase 0 nb
            || panelOutside s x k z.aspace z.abase (last * l.as_) na || panelOutside s x k z.bspace z.bbase (last * l.bs_) nb) then
          some 0x103
        else none

/-- Another warp of the core was granted leave for a matrix operation before this one, and may still issue it: operations are accepted
in the order of the grants (11 R210). -/
def grantedBefore (s : State) (x : Ix) : Bool :=
  ((s.die (coreDie x.core)).reqs.takeWhile fun q => !q.mine x.core x.slot x.lead x.pc).any fun q =>
    q.granted && q.cost == 3 && q.core == x.core && decide (q.pc.toNat < regainPc) && (match s.block? x.core q.slot with
      | some b => !b.frozen && !b.stopped && (match b.warps[q.warp]? with | some w => !w.retired && w.frozen.isNone | none => false)
      | none => false)

/-- A matrix operation is issued: the queue of 4 is what it waits for last (11 R210). The issuing core's dirty words of L1D go
home, so that every access before the issue is visible to the operand reads (11 R190). -/
def issueMatrix (x : Ix) (s : State) (raddr : DWord) (card : List DWord) (h : Nat) : Res :=
  let room := decide (((s.core x.core).matQ.length) < 4) && !grantedBefore s x
  match issueWithLeave x s .matrix raddr 0#64 3 h room .matrixFull (fun e k => { k with matQ := k.matQ ++ [e] }) with
  | .done t =>
    let t := flushCore t x.core (x.asid t) false
    (match (t.core x.core).matQ.getLast? with
      | some e => .done (t.modOp x.core e fun o => { o with record := card, ets := (t.core x.core).pts })
      | none => .done t)
  | r => r

/-- MMK (11 R211, R212; 20 R380). -/
def execMmk (c : BitVec 2) (h : BitVec 4) (a b : BitVec 6) (s : State) : Host.Outcome State Fault Refusal :=
  let n := a.toNat
  .next (issue (.mmk c h a b) (engineMeta c [n, n + 1, n + 2, n + 3, b.toNat] false) noExtra (mmkFault n b.toNat)
    (fun x s =>
      if bits (x.rs s (n + 2)) 0 16 = 0 then
        match freeEntryNo s x.core with
        | none => .wait .engineFull id
        | some e =>
          let op := { newOp s x .matrix 0#64 0#64 with accepted := true }
          .done (opDone (giveHandle (putOp s x.core e op) x h.toNat (.op e op.serial)) x.core e 0)
      else
        issueMatrix x s 0#64 (mmkCard (x.rs s n) (x.rs s (n + 1)) (x.rs s (n + 2)) (x.rs s (n + 3)) (x.rs s b.toNat)) h.toNat) s)

/-- MMJ (11 R215; 20 R380). -/
def execMmj (c : BitVec 2) (h : BitVec 4) (a : BitVec 6) (s : State) : Host.Outcome State Fault Refusal :=
  .next (issue (.mmj c h a) (engineMeta c [a.toNat] true) noExtra (fun x s => recordFault 0x102 128 (x.rs s a.toNat))
    (fun x s => issueMatrix x s (x.rs s a.toNat) [] h.toNat) s)

end Sys2Proof.Machine
end

