-- ==== Sys2Proof/Machine/Preempt.lean ====
section
/-! DEFINITION. Pre-emption and restoring: when a stopped block may be saved, taking it off its core, and putting it on one
(04 R95; 14 R271 to R274). -/

namespace Sys2Proof.Machine

open Sys2Proof

/-! ### Stopping -/

/-- Stops every block that a condition selects, with its whole gang; `saving` asks the device to save them (14 R272). -/
def freezeBlocks (s : State) (p : Nat → Block → Bool) (saving : Bool) : State :=
  let hit := s.blocks.filter fun b => p b.1 b.2
  let mates (b : Block) : Bool := hit.any fun h => h.2.grid == b.grid && h.2.gang == b.gang
  { s with
    blocks := s.blocks.map fun b =>
      if p b.1 b.2 || (decide (1 < b.2.gsize) && mates b.2) then
        (b.1, { b.2 with frozen := true, saving := b.2.saving || saving })
      else b }

/-- An operation may be saved as it stands: one that has been accepted, for which the save area has no entry with its record, runs to
its end or to a fault first, unless it still waits at its instruction (14 R273, Table 14.8; DEDUCED, log 62). -/
def OpEntry.still (op : OpEntry) : Bool :=
  op.complete || op.suspended || (match op.kind with
    | .copy => !op.accepted || op.waits
    | .gather _ => !op.accepted
    | .xfer => !op.accepted
    | .csave => op.next == 0
    | .matrix => !op.epOut
    | _ => true)

/-- An XFER of a collective whose holiday holds its gangs: its chunks below N are acknowledged, and it is saved with next
chunk N (13 R258, R259; 14 R273). -/
def holidayXfer (s : State) (op : OpEntry) : Bool :=
  op.kind == .xfer && op.accepted && op.sent.length == op.acked.length
  && s.holidays.any fun h => h.1 != 0 && h.1 == recField op.record 8 48 16 && h.2.asid == op.asid && decide (3 ≤ h.2.stepNo)

/-- No result of the block is pending outside the operand log, and its operations may be saved (14 R272, R273). -/
def quiet (s : State) (c slot : Nat) (b : Block) : Bool :=
  !(s.remPend.any fun p => p.2.core == c && p.2.slot == slot && p.2.warp != engineWarp)
  && (b.warps.all fun w => match w.xshuf with | some x => x.got.isNone | none => true)
  && (blockOps s c slot).all fun p => (p.2.still || holidayXfer s p.2) && !opBusy s c p.1

/-! ### Taking a block off its core -/

/-- Numbers that a block and its operations hold: pipe key, number, delivered. -/
def blockNumbers (b : Block) (ops : List (Nat × OpEntry)) : List (Nat × Nat × Bool) :=
  (b.warps.flatMap fun w => w.reserved.map fun q => (q.1, q.2, false))
  ++ (ops.filterMap fun p => match p.2.pq, p.2.eseq with | some q, some n => some (q.pipe, n, false) | _, _ => none)
  ++ b.held.map (fun q => (q.1, q.2, true))
  ++ b.warps.flatMap fun w => w.pipeItems.map fun q => (q.1, q.2.1, true)

/-- A warp as its block is saved: no request, no place in the hot set; times are kept as what has elapsed. -/
def Warp.stopped (w : Warp) (cycle : Nat) : Warp :=
  { w with
    hot := false, restaging := false, refillBlocked := false, keepUntil := 0, swapFirst := false, yielded := false, exiting := none
    refillSince := w.refillSince.map (cycle - ·), rftSince := cycle - w.rftSince
    xshuf := w.xshuf.map fun x => { x with since := cycle - x.since }
    splits := w.splits.map fun p => { p with faultWait := false, await := none, operands := none }
    frozen := w.frozen.map fun f => (f.1.map fun p => { p with faultWait := false, await := none, operands := none }, f.2) }

/-- A warp whose block is restored: signatures start from 0 (15 R289). -/
def Warp.resumed (w : Warp) (cycle quarter : Nat) : Warp :=
  { w with
    quarter := quarter, restarted := true, waitSince := cycle, lastIssue := cycle
    refillSince := w.refillSince.map (cycle - ·), rftSince := cycle - w.rftSince
    xshuf := w.xshuf.map fun x => { x with since := cycle - x.since }
    splits := w.splits.map fun p => { p with sig := 0 }
    frozen := w.frozen.map fun f => (f.1.map fun p => { p with sig := 0 }, f.2) }

/-- What a record's waiter becomes when its block leaves its core; none: the record is forgotten, since a fresh one is
written at the restore, or the instruction meets its fault again (14 R271). -/
def Who.leaves (c slot grid number : Nat) (entries : List Nat) (logs : List (Nat × Nat)) (w : Who) : Option Who :=
  match w with
  | .trap c' k m q => if c' = c ∧ k = slot then some (.savedTrap grid number m q) else some w
  | .log c' q j => if c' = c ∧ logs.contains (q, j) then none else some w
  | .noLog c' k _ _ _ => if c' = c ∧ k = slot then none else some w
  | .engine c' e n => if c' = c ∧ entries.contains e then some (.savedOp grid number e n) else some w
  | w => some w

/-- What a record's waiter becomes when its block is restored. -/
def Who.returns (c slot grid number : Nat) (w : Who) : Who :=
  match w with
  | .savedTrap g n m q => if g = grid ∧ n = number then .trap c slot m q else w
  | .savedOp g n e k => if g = grid ∧ n = number then .engine c e k else w
  | w => w

/-- Cells of a byte memory in a range, by offset. -/
def cellsIn (m : Mem) (a n : Nat) : List Host.Cell :=
  (m.filter fun x => decide (a ≤ x.1) && decide (x.1 < a + n)).map fun x => (x.1 - a, x.2)

/-- Puts cells back, over bytes that read zero. -/
def putCells (m : Mem) (a n : Nat) (cells : List Host.Cell) : Mem :=
  cells.foldl (fun m x => m.write (a + x.1) x.2) (m.filter fun x => decide (x.1 < a) || decide (a + n ≤ x.1))

/-- Operations that wait at their instruction, for leave or for their acceptance, are withdrawn: the instruction has not issued
(14 R272). -/
def withdrawWaiting (s : State) (c slot : Nat) : State :=
  s.modCore c fun x =>
    ((x.ops.filter fun p => p.2.slot == slot && p.2.waits && !p.2.suspended && !p.2.complete).map (·.1)).foldl (fun x e =>
      { x.dequeue e with ops := x.ops.del e }) x

/-- An operation as it is saved: it gives its leave back and asks for it again; a multicast that has not been sent reads its elements
again (14 R272, R273). -/
def OpEntry.put (o : OpEntry) : OpEntry :=
  { o with
    asks := o.asks + o.leave, leave := 0, surplus := 0
    next := if o.image.isEmpty then o.next else 0, image := [] }

/-- Takes a stopped block off its core (14 R272 to R274): what it was, and the state without it. What the core has written goes home
before, as at a release at device scope (18 R348). -/
def saveBlock (s : State) (c slot : Nat) (b : Block) : Saved × State :=
  let s := settleTiles (returnAllGrants s c (some b.asid)) c b
  let s := mergeCovered (releaseCore s c b.asid 3) c 3
  let s := withdrawWaiting s c slot
  let ops := blockOps s c slot
  let logs := ((s.core c).oplog.filter fun e => e.2.slot == slot)
  let cycle := s.cycle.toNat
  let number := b.number.toNat
  let sv : Saved :=
    { block := { b with
        frozen := false, saving := false, warps := b.warps.map fun w => (haltWarp s b.asid w).stopped cycle }
      core := c, slot := slot
      scratch := cellsIn (s.core c).scratch b.scrBase b.scrSize
      tiles := cellsIn (s.core c).tiles (b.tileBase * 0x10000) (b.kernel.t * 0x10000)
      ops := ops.map fun p => (p.1, p.2.put)
      mats := (s.core c).matQ.filter fun e => ops.any fun p => p.1 == e
      logs := logs, pts := (s.core c).pts }
  let s := (List.range b.warps.length).foldl (fun s m => dropLeave s c slot m) s
  let s := (blockNumbers b ops).foldl (fun s q => s.modPipe q.1 fun p => p.setSt q.2.1 (.away q.2.2)) s
  let s := s.modCore c fun x => { x with oplog := x.oplog.filter fun e => e.2.slot != slot }
  let s := s.modCtx b.asid fun x =>
    { x with records := x.records.filterMap fun r =>
        (r.who.leaves c slot b.grid number (ops.map (·.1)) (logs.map fun e => (e.1 / 16, e.1 % 16))).map fun w => { r with who := w } }
  (sv, removeBlock s c slot b)

/-- The device saves the blocks it has been asked to, as soon as each may be (04 R95); they wait to be restored before any new
block. -/
def saveReady (s : State) : State :=
  s.blocks.foldl (fun s p =>
    let c := p.1 / 96
    let slot := p.1 % 96
    match s.block? c slot with
    | some b =>
      if b.saving && quiet s c slot b then
        let (sv, s) := saveBlock s c slot b
        settleHalt (s.modGrid b.grid fun g => { g with restore := g.restore ++ [sv] }) c
      else s
    | none => s) s

/-- Pre-empts the blocks that a condition selects. -/
def preempt (s : State) (p : Nat → Block → Bool) : State := saveReady (freezeBlocks s p true)

/-! ### Restoring (14 R274) -/

/-- Entries of the operand log that the saved entries take: the lowest free ones of the quarters that receive their warps. -/
def logPlaces (used : List (Nat × Nat)) (quarters : List Nat) : List (Nat × LogEntry) → Option (List (Nat × Nat))
  | [] => some []
  | e :: r =>
    let q := quarters.getD e.2.warp 0
    match (List.range 16).find? fun j => !used.contains (q, j) with
    | none => none
    | some j => (logPlaces ((q, j) :: used) quarters r).map fun l => (q, j) :: l

/-- A saved block may go to a core: its slot and its operation entries are free there, with room for the rest. -/
def restorable (s : State) (sv : Saved) (c : Nat) : Option (Room × List (Nat × Nat)) :=
  match room? s c sv.block.kernel sv.ops.length (some sv.slot) with
  | none => none
  | some m =>
    let used := (s.core c).oplog.map fun e => (e.1 / 16, e.1 % 16)
    if sv.ops.any fun p => (s.core c).ops.has p.1 then none
    else (logPlaces used m.quarters sv.logs).map fun l => (m, l)

/-- Windows of a warp whose log entries have moved: old and new quarter and entry. -/
def moveLog (moves : List ((Nat × Nat) × Nat × Nat)) (w : Warp) : Warp :=
  let f (l : List Split) : List Split := l.map fun p => { p with wins := p.wins.map fun e =>
    match e.pend with
    | .log q j => (match moves.find? fun v => v.1 == (q, j) with
      | some v => { e with pend := .log v.2.1 v.2.2 }
      | none => e)
    | _ => e }
  { w with splits := f w.splits, frozen := w.frozen.map fun z => (f z.1, z.2) }

/-- Puts the operations of a saved block back into the queues, matrix operations in their order; those past the unit's 4 places wait for
one behind them. -/
def requeue (x : Core) (sv : Saved) : Core :=
  let live := sv.ops.filter fun p => !p.2.complete
  { x with
    ops := sv.ops.foldl (fun t p => t.put p.1 p.2) x.ops
    copyQ := x.copyQ ++ (live.filter fun p => p.2.kind == .copy || p.2.kind == .csave || p.2.kind == .crest).map (·.1)
    gathQ := x.gathQ.zipIdx.map fun q => q.1 ++ (live.filter fun p => p.2.kind == .gather q.2).map (·.1)
    xferQ := x.xferQ ++ (live.filter fun p => p.2.kind == .xfer).map (·.1)
    matQ := x.matQ ++ sv.mats }

/-- Restored operations ask for their leave again (14 R272). -/
def askAgain (s : State) (c slot : Nat) (ops : Tab OpEntry) : State :=
  ops.foldl (fun s p =>
    if p.2.asks = 0 || p.2.complete then s
    else askLeave s c slot p.2.warp (BitVec.ofNat 64 (regainPc + p.1)) p.2.asks) s

/-- A fresh fault record for a log entry that has been restored (14 R271). -/
def freshRecord (s : State) (c slot asid : Nat) (q j : Nat) (e : LogEntry) : State :=
  let kind := match (decodeWord e.word).toOption.bind memOpOf with | some o => o.acc.code | none => 0
  let lane := (lowestLane e.lanes).getD 0
  let va := (e.base.toNat + (e.addr.lane lane).toNat + (immExt e.hints 0 0 % 2 ^ 64).toNat) % 2 ^ 64
  queueRecord s asid (faultWords s c slot e.warp e.cause kind va e.lanes e.pc (some j)) (.log c q j)

/-- The core that a record's place names (10 Table 10.6). -/
def FaultRec.core (r : FaultRec) : Nat := recField r.words 4 0 3 * 128 + recField r.words 4 3 7

/-- The quarter that a record's place names. -/
def FaultRec.quarter (r : FaultRec) : Nat := recField r.words 4 32 2

/-- Answers that firmware gave to traps of a block while it was saved take effect (14 R271). -/
def answersDue (s : State) (c slot asid : Nat) : State :=
  let due := (s.ctx asid).records.filter fun r => r.answer != 0 && (match r.who with
    | .trap c' k _ _ => c' == c && k == slot
    | _ => false)
  { s with agenda := due.map (fun r => Turn.answer true r.answer r.core r.quarter r.rseq.toNat) ++ s.agenda }

/-- Puts a saved block on a core (14 R271 to R274): it is stopped until its whole gang is back. -/
def restoreBlock (s : State) (sv : Saved) (c : Nat) (m : Room) (places : List (Nat × Nat)) : State :=
  let b := sv.block
  let slot := sv.slot
  let cycle := s.cycle.toNat
  let moves := sv.logs.zip places
  let warps := b.warps.zipIdx.map fun w =>
    moveLog (moves.map fun p => ((p.1.1 / 16, p.1.1 % 16), p.2)) (w.1.resumed cycle (m.quarters.getD w.2 0))
  let s := (wakeDie s (coreDie c)).setBlock c slot { b with
    warps := warps, tileBase := m.tile, scrBase := m.scr, frozen := true, restored := true }
  let s := s.modGrid b.grid fun g => { g with resident := g.resident + 1 }
  let s := s.modCore c fun x =>
    { requeue x sv with
      scratch := putCells x.scratch m.scr b.scrSize sv.scratch
      tiles := putCells x.tiles (m.tile * 0x10000) (b.kernel.t * 0x10000) sv.tiles }
  let s := askAgain (raisePts s c sv.pts) c slot sv.ops
  let back (warp : Nat) : SeqState := .reserved c slot warp
  let s := b.warps.zipIdx.foldl (fun s w => w.1.reserved.foldl (fun s q => s.modPipe q.1 fun p => p.setSt q.2 (back w.2)) s) s
  let s := sv.ops.foldl (fun s p => match p.2.pq, p.2.eseq with
    | some q, some n => s.modPipe q.pipe fun p => p.setSt n (back 0x1F)
    | _, _ => s) s
  let s := b.held.foldl (fun s q => s.modPipe q.1 fun p => p.setSt q.2 (.held c slot)) s
  let s := b.warps.foldl (fun s w => w.pipeItems.foldl (fun s q => s.modPipe q.1 fun p => p.setSt q.2.1 (.item c slot)) s) s
  let s := s.modCtx b.asid fun x =>
    { x with records := x.records.map fun r => { r with who := r.who.returns c slot b.grid b.number.toNat } }
  let s := answersDue s c slot b.asid
  moves.foldl (fun s p =>
    let e := { p.1.2 with busy := false }
    freshRecord (s.modCore c fun x => { x with oplog := x.oplog.put (logKey p.2.1 p.2.2) e }) c slot b.asid p.2.1 p.2.2 e) s

/-- The restored blocks of a gang go on together once none of them is saved any more (18 R350). -/
def resumeGang (s : State) (gk : Nat) (gang : BitVec 32) : State :=
  match s.grids.get? gk with
  | none => s
  | some g =>
    let mine (b : Block) : Bool := b.grid == gk && b.gang == gang
    if g.restore.any (fun v => mine v.block) || g.away.any (fun v => mine v.block)
        || s.blocks.any (fun p => mine p.2 && !p.2.restored && p.2.frozen) then s
    else
      let cores := dedup ((s.blocks.filter fun p => mine p.2).map fun p => p.1 / 96)
      let s := { s with
        blocks := s.blocks.map fun p =>
          if mine p.2 && p.2.restored then (p.1, { p.2 with frozen := false, restored := false }) else p }
      cores.foldl (fun s c => (List.range 4).foldl (fun s q => fillHot s c q 8) s) s

/-- Restores the first saved block of a grid that a core of its share can take: the best core of R90 (04 R95). -/
def restoreNext (s : State) (gk : Nat) (g : Grid) : State :=
  match g.restore with
  | [] => s
  | sv :: rest =>
    let best := (g.share.filterMap fun c => (restorable s sv c).map fun m => (c, m)).foldl
      (fun (r : Option (Nat × Room × List (Nat × Nat))) q => match r with
        | none => some q
        | some p =>
          if freeWarps s p.1 < freeWarps s q.1 ∨ (freeWarps s p.1 = freeWarps s q.1 ∧ q.1 < p.1) then some q else some p) none
    match best with
    | none => s
    | some (c, m, l) =>
      let s := s.modGrid gk fun g => { g with restore := rest }
      resumeGang (restoreBlock s sv c m l) gk sv.block.gang

end Sys2Proof.Machine
end

