-- ==== Sys2Proof/Machine/Fail.lean ====
section
/-! DEFINITION. Blocks that end without finishing: the failure of a block and its masking, and the cancelling of work
(14 R275 to R278; 04 R85). -/

namespace Sys2Proof.Machine

open Sys2Proof

/-! ### Ending a block without saving it -/

/-- Records that a block waits for are answered by nothing (04 R85). -/
def Who.ofBlock (c slot : Nat) (entries : List Nat) (logs : List (Nat × Nat)) : Who → Bool
  | .trap c' k _ _ => c' == c && k == slot
  | .log c' q j => c' == c && logs.contains (q, j)
  | .noLog c' k _ _ _ => c' == c && k == slot
  | .engine c' e _ => c' == c && entries.contains e
  | _ => false

/-- Takes a block off its core for good: its accesses are released, its operations end with status 0x108, its reserved
numbers become void. Its items and held slots are the caller's. -/
def killBlock (s : State) (c slot : Nat) (b : Block) : State :=
  let s := mergeCovered (releaseCore s c b.asid 3) c 3
  let ops := blockOps s c slot
  let logs := ((s.core c).oplog.filter fun e => e.2.slot == slot).map fun e => (e.1 / 16, e.1 % 16)
  let s := s.modCtx b.asid fun x =>
    { x with records := x.records.filter fun r => !r.who.ofBlock c slot (ops.map (·.1)) logs }
  let s := ops.foldl (fun s p => opDone s c p.1 0x108) s
  let s := b.warps.zipIdx.foldl (fun s w => dropLeave (voidReserved s w.1.reserved) c slot w.2) s
  let names (e : Nat) : Bool := (ops.map (·.1)).contains e
  let s := { s with
    remPend := s.remPend.filter fun (p : Nat × RemPend) =>
      !(p.2.core == c && (if p.2.warp = engineWarp then names p.2.slot else p.2.slot == slot))
    remIns := s.remIns.filter fun i => !(i.2.trapAt.core == c && i.2.trapAt.slot == slot)
    mcasts := s.mcasts.filter fun (m : Mcast) => !(m.op.1 == c && names m.op.2) }
  let s := s.modCore c fun x => { x with oplog := x.oplog.filter fun e => e.2.slot != slot }
  settleHalt (removeBlock s c slot b) c

/-- Frees the numbers that a block holds, delivered to it through QPOP. -/
def freeHeld (s : State) (c : Nat) (b : Block) : State := b.held.foldl (fun s q => freeNumber s c q.1 q.2) s

/-- Numbers that a block holds as items. -/
def itemNumbers (b : Block) : List (Nat × Nat) := dedup ((b.warps.flatMap (·.pipeItems)).map fun q => (q.1, q.2.1))

/-- Drops a saved block for good: reserved numbers become void, delivered ones are freed at the home (04 R85). -/
def dropSaved (s : State) (sv : Saved) : State :=
  let b := sv.block
  let s := s.modCtx b.asid fun x => { x with records := x.records.filter fun r => match r.who with
    | .savedTrap g n _ _ => !(g == b.grid && n == b.number.toNat)
    | .savedOp g n _ _ => !(g == b.grid && n == b.number.toNat)
    | _ => true }
  (blockNumbers b sv.ops).foldl (fun s q => match s.pipes.get? q.1 with
    | some p => putPipe s q.1 (if q.2.2 then p.release q.2.1 else p.voidNum q.2.1)
    | none => s) s

/-! ### Returned items (14 R277, R278) -/

/-- Inserts a number into an ascending list. -/
def insertAsc (n : Nat) : List Nat → List Nat
  | [] => [n]
  | a :: r => if n < a then n :: a :: r else if n = a then a :: r else a :: insertAsc n r

/-- Counts one returned item in ERRCNT (14 Table 14.10). -/
def countReplay (s : State) : State :=
  { s with errcnt := BitVec.ofNat 64 (s.errcnt.toNat % 2 ^ 48 + (s.errcnt.toNat / 2 ^ 48 + 1) % 2 ^ 16 * 2 ^ 48) }

/-- An unmarked pipe item goes back ahead of every pending item; the third time it is dropped (14 R277, R278). -/
def returnPipeItem (s : State) (asid place key n : Nat) : State :=
  match s.pipes.get? key with
  | none => s
  | some p =>
    let k := (p.slots.getD n (Slot.blank .filled)).returns + 1
    if 3 ≤ k then hostEvent (putPipe s key (p.release n)) (some asid) 0x1EA n place
    else
      let p := (p.setSt n .filled).modSlot n fun x => { x with returns := k }
      countReplay (putPipe s key { p with returned := insertAsc n p.returned })

/-- An index goes back to the front of the range; the third time it is dropped. -/
def returnIndex (s : State) (gk asid place n : Nat) : State :=
  match s.grids.get? gk with
  | none => s
  | some g =>
    let k := g.returns.getD n 0 + 1
    if 3 ≤ k then hostEvent s (some asid) 0x1EA n place
    else countReplay (s.modGrid gk fun g => { g with returned := insertAsc n g.returned, returns := g.returns.put n k })

/-- Values of the live lanes of a block. -/
def liveItems (b : Block) : List Nat :=
  dedup (b.warps.flatMap fun w => (maskLanes w.live).map fun l => (w.item.lane l).toNat + (w.itemhi.lane l).toNat * 2 ^ 32)

/-- What becomes of the items of a failed block in a replay domain, where it freed them as core `c` (14 R277). -/
def replayItems (s : State) (c place : Nat) (g : Grid) (b : Block) : State :=
  if g.qpipe.isSome then
    (itemNumbers b).foldl (fun s q => match s.pipes.get? q.1 with
      | none => s
      | some p =>
        if b.marked.contains (p.addrOf q.2) then
          hostEvent (freeNumber s c q.1 q.2) (some b.asid) 0x1EB q.2 place
        else returnPipeItem s b.asid place q.1 q.2) s
  else (liveItems b).foldl (fun s n => returnIndex s b.grid b.asid place n) s

/-! ### Failure -/

/-- The grid lies in a replay domain (14 R277). -/
def Grid.replays (g : Grid) : Bool := g.qpipe.isSome || g.kernel.replayable

/-- Takes every block of a grid off its core, with its items and held slots freed. -/
def killGrid (s : State) (gk : Nat) : State :=
  let s := s.blocks.foldl (fun s p =>
    match s.blocks.get? p.1 with
    | some b =>
      if b.grid = gk then
        let c := p.1 / 96
        let s := (itemNumbers b).foldl (fun s q => freeNumber s c q.1 q.2) (freeHeld s c b)
        killBlock s c (p.1 % 96) b
      else s
    | none => s) s
  match s.grids.get? gk with
  | none => s
  | some g => (g.restore ++ g.away).foldl dropSaved (s.modGrid gk fun g => { g with restore := [], away := [] })

/-- The indices of a range that are never assigned are counted as dropped (03 R74). -/
def dropRange (s : State) (gk : Nat) : State :=
  s.modGrid gk fun g => { g with
    dropped := g.dropped + (if g.qpipe.isNone then g.returned.length + (g.stop - g.next) else 0)
    next := if g.qpipe.isNone then g.stop else g.next, returned := [] }

/-- A block fails with a cause (14 R277): masked in a replay domain, together with its whole gang; otherwise its grid stops
and completes with the cause. -/
def failBlock (s : State) (c slot cause : Nat) : State :=
  match s.block? c slot with
  | none => s
  | some b =>
    match s.grids.get? b.grid with
    | none => killBlock s c slot b
    | some g =>
      if g.replays then
        let place := placeBits s c slot 0
        let s := (gangKeys s b.grid b.gang).foldl (fun s k => match s.blocks.get? k with
          | some b' => killBlock (replayItems (freeHeld s (k / 96) b') (k / 96) place g b') (k / 96) (k % 96) b'
          | none => s) s
        let mine (v : Saved) : Bool := v.block.gang == b.gang
        let s := s.modGrid b.grid fun g => { g with
          restore := g.restore.filter (fun v => !mine v), away := g.away.filter fun v => !mine v }
        ((g.restore ++ g.away).filter mine).foldl (fun s v =>
          let t := dropSaved s { v with block := { v.block with warps := v.block.warps.map fun w => { w with pipeItems := [] } } }
          replayItems t c place g v.block) s
      else
        let place := placeBits s c slot 0
        let s := hostEvent (dropRange (killGrid s b.grid) b.grid) (some b.asid) 0x1EB cause place
        (match s.grids.get? b.grid with
          | some g => completeGrid s b.grid g cause
          | none => s)

end Sys2Proof.Machine
end

