-- ==== Sys2Proof/Machine/EvBalance.lean ====
section
/-! DEFINITION. Almanacs while they run: the equinox balancer and handoff, the deadlock detector, the stages' completion records
and the end of an almanac (03 R69, R71 to R75). -/

namespace Sys2Proof.Machine

open Sys2Proof

/-! ### Almanacs -/

/-- The almanac with a number in a context. -/
def alm? (s : State) (asid n : Nat) : Option Almanac := (s.ctx asid).alms.get? n

/-- Changes an almanac. -/
def modAlm (s : State) (asid n : Nat) (f : Almanac → Almanac) : State :=
  s.modCtx asid fun x => { x with alms := modKey x.alms n f }

/-- Every almanac: context and number. -/
def allAlms (s : State) : List (Nat × Nat) := s.ctxs.flatMap fun c => c.2.alms.map fun a => (c.1, a.1)

/-- The producer stage of a pipe runs on this device. -/
def Pipe.hasProd (p : Pipe) : Bool := p.scope != 2 || p.nearSide

/-- The consumer stage of a pipe runs on this device. -/
def Pipe.hasCons (p : Pipe) : Bool := p.scope != 2 || !p.nearSide

/-! ### Handoff (03 R72) -/

/-- Cores marked to go to a grid. -/
def comingCores (s : State) (gk : Nat) : Nat :=
  (s.cores.filter fun c => match c.2.handoff with | some h => h.2.1 == gk | none => false).length

/-- Cores marked to leave a grid. -/
def leavingCores (s : State) (gk : Nat) : Nat :=
  (s.cores.filter fun c => match c.2.handoff with | some h => h.1 == gk | none => false).length

/-- Marks a core for handoff: its grants go back, and the REFILLs that block on it end (03 R72). -/
def markHandoff (s : State) (c donor receiver us : Nat) : State :=
  let s := s.modCore c fun x => { x with handoff := some (donor, receiver, s.kalends.toNat + 1000 * us) }
  let s := returnAllGrants s c none
  let periods := s.periods
  let s := [donor, receiver].foldl (fun s g => s.modGrid g fun g => { g with moved := some periods }) s
  { s with blocks := s.blocks.map fun p =>
      if p.1 / 96 = c then (p.1, { p.2 with warps := p.2.warps.map Warp.wake }) else p }

/-- A core leaves its donor and joins its receiver (03 R72); a resize that names it goes on. -/
def endHandoff (s : State) (c : Nat) : State :=
  match (s.core c).handoff with
  | none => s
  | some (donor, receiver, _) =>
    let s := s.modCore c fun x => { x with handoff := none }
    let s := s.modGrid donor fun g => { g with share := g.share.filter (· != c) }
    let s := s.modGrid receiver fun g => { g with share := if g.share.contains c then g.share else g.share ++ [c] }
    { s with pkts := s.pkts.map fun (p : Nat × Packet) =>
        if p.2.cores.contains c then
          let left := p.2.cores.filter (· != c)
          (p.1, { p.2 with cores := left, st := if left.isEmpty then .ended 0 else p.2.st })
        else p }

/-- HANDOFF_COMPLETE: the last block of a marked core has gone, or its donor has completed (03 R72). -/
def execHandoffComplete (core : Nat) (s : State) : Host.Outcome State Fault Refusal :=
  .next (match (s.core core).handoff with
    | none => s
    | some (donor, _, _) =>
      let gone := match s.grids.get? donor with | some g => g.complete | none => true
      if gone || (coreBlocks s core).isEmpty then endHandoff s core else s)

/-- HANDOFF_TIMEOUT: the blocks that remain are pre-empted with context save (03 R72; 04 R95). -/
def execHandoffTimeout (core : Nat) (s : State) : Host.Outcome State Fault Refusal :=
  .next (match (s.core core).handoff with
    | none => s
    | some (_, _, due) =>
      if (s.kalends - BitVec.ofNat 64 due).toNat < 2 ^ 63 then saveReady (preempt s fun k _ => k / 96 == core) else s)

/-! ### The equinox balancer (03 R71) -/

/-- The stages for which a pipe asks one more core. -/
def Pipe.asks (p : Pipe) (hyst : Nat) : List Nat :=
  let o := 100 * p.filled / p.depth
  if p.closed then []
  else if p.target + hyst < o then (if p.hasCons then [p.cons] else [])
  else if o + hyst < p.target then (if p.hasProd then [p.prod] else []) else []

/-- The score of each stage: the number of requests made for it. -/
def stageScores (s : State) (asid n : Nat) (a : Almanac) : List Nat :=
  let asked := (almPipes s asid n).flatMap fun p => p.2.asks a.hyst
  (List.range a.stages.length).map fun i => (asked.filter (· == i)).length

/-- A stage has not been in a move within the minimum interval. -/
def Grid.mayMove (g : Grid) (periods minInt : Nat) : Bool :=
  match g.moved with | none => true | some p => decide (minInt ≤ periods - p)

/-- Stages with index, key and grid. -/
def almGrids (s : State) (a : Almanac) : List (Nat × Nat × Grid) :=
  a.stages.zipIdx.filterMap fun k => (s.grids.get? k.1).map fun g => (k.2, k.1, g)

/-- The best of a list by a strict order; earlier ones win ties. -/
def bestBy {α : Type} (better : α → α → Bool) : List α → Option α
  | [] => none
  | a :: r => some (r.foldl (fun m x => if better x m then x else m) a)

/-- The receiver of a move: highest score, then priority, then the lower index. -/
def receiver (s : State) (a : Almanac) (scores : List Nat) : Option (Nat × Nat × Grid) :=
  let sc (x : Nat × Nat × Grid) : Nat := scores.getD x.1 0
  bestBy (fun x y => decide (sc y < sc x) || (sc x == sc y && decide (y.2.2.prio < x.2.2.prio)))
    ((almGrids s a).filter fun x => decide (0 < sc x) && !x.2.2.complete
      && decide (x.2.2.share.length + comingCores s x.2.1 < x.2.2.maxShare) && x.2.2.mayMove s.periods a.minInt)

/-- Cores of a donor that may go to a receiver. -/
def movable (s : State) (donor receiver : Grid) : List Nat :=
  donor.share.filter fun c => bit receiver.dies (coreDie c) && !(s.core c).assignsNothing

/-- The donor of a move: lowest priority, then the higher index. The cores already marked to leave it no longer count, so that no stage falls
below its minimum share (02 R47). -/
def donor (s : State) (a : Almanac) (scores : List Nat) (r : Grid) : Option (Nat × Nat × Grid) :=
  bestBy (fun x y => decide (x.2.2.prio < y.2.2.prio) || (x.2.2.prio == y.2.2.prio && decide (y.1 < x.1)))
    ((almGrids s a).filter fun x => scores.getD x.1 0 == 0 && decide (x.2.2.minShare + leavingCores s x.2.1 < x.2.2.share.length)
      && x.2.2.mayMove s.periods a.minInt && !(movable s x.2.2 r).isEmpty)

/-- Resident warps of a core. -/
def residentWarps (s : State) (c : Nat) : Nat := ((coreWarps s c).filter fun w => !w.2.2.retired).length

/-- The core that a donor gives: fewest resident warps, then the lowest number. -/
def donorCore (s : State) (d r : Grid) : Option Nat :=
  bestBy (fun x y => decide (residentWarps s x < residentWarps s y) || (residentWarps s x == residentWarps s y && decide (x < y)))
    (movable s d r)

/-- One move of a decision. -/
def oneMove (s : State) (a : Almanac) (scores : List Nat) : State :=
  match receiver s a scores with
  | none => s
  | some r => match donor s a scores r.2.2 with
    | none => s
    | some d => match donorCore s d.2.2 r.2.2 with
      | none => s
      | some c => markHandoff s c d.2.1 r.2.1 a.handoffTo

/-- A decision of the balancer for one almanac. -/
def balance (s : State) (asid n : Nat) : State :=
  match alm? s asid n with
  | none => s
  | some a =>
    if a.mode != 1 then s
    else
      let scores := stageScores s asid n a
      (List.range a.maxMoves).foldl (fun s _ => oneMove s a scores) s

/-! ### The deadlock detector (03 R73) -/

/-- The pipe that a split waits for, and whether it waits to reserve: a QPOP, a QRSV. -/
def splitPipe (s : State) (asid : Nat) (w : Warp) (p : Split) : Option (Nat × Bool) :=
  if p.stall != .emptyPipe && p.stall != .fullPipe && p.redo.isNone then none
  else
    let key (q : BitVec 3) : Option Nat := ((w.qregs.getD q.toNat none).map fun x => x.pipe)
    match (peekWord s asid p.pc.toNat).map decodeWord with
    | some (.ok (.qpop _ _ q _)) => (key q).map fun k => (k, false)
    | some (.ok (.qrsv _ _ q _)) => (key q).map fun k => (k, true)
    | _ => none

/-- The waits of a warp in pipes: a blocked REFILL waits for its launch queue. -/
def warpPipes (s : State) (b : Block) (w : Warp) : List (Nat × Bool) :=
  if w.refillBlocked then (match (s.grids.get? b.grid).bind (·.qpipe) with | some k => [(k, false)] | none => [])
  else w.valid.filterMap fun p => splitPipe s b.asid w p.2

/-- A split waits in a pipe instruction. -/
def splitHeld (s : State) (b : Block) (w : Warp) (p : Split) : Bool := w.refillBlocked || (splitPipe s b.asid w p).isSome

/-- Every split of a warp waits in a pipe instruction, or the warp has retired. -/
def warpHeld (s : State) (b : Block) (m : Nat) : Bool :=
  match b.warps[m]? with
  | none => true
  | some w => w.retired || w.valid.all fun p => splitHeld s b w p.2

/-- A split waits in an instance all of whose awaited members that have not arrived wait in pipe instructions. -/
def splitAtInst (s : State) (b : Block) (m : Nat) (p : Split) : Bool :=
  let held (k : InstKey) (i : Inst) : Bool := (b.membersOf k).all fun j =>
    i.arrived.contains j || (match b.warps[j]? with | some v => v.live == 0#64 | none => true) || warpHeld s b j
  (p.rwait && ((match b.blockInst with | some i => i.pc == p.pc && held .block i | none => false)
    || b.setInst.any fun q => q.2.pc == p.pc && (b.membersOf (.set q.1)).contains m && held (.set q.1) q.2))
  || (!p.rwait && p.stall == .rendezvous && (match b.blockInst with
    | some i => i.bar.isSome && i.arrived.contains m && held .block i
    | none => false))

/-- Every resident warp of a core waits so (03 R73). A core with a block that debug has stopped is not blocked (15 R284). -/
def coreBlocked (s : State) (c : Nat) : Bool :=
  let bs := coreBlocks s c
  if bs.any fun b => b.2.stopped then false
  else if (s.core c).handoff.isSome && bs.all (fun b => b.2.warps.all (·.retired)) then false
  else bs.all fun b => b.2.warps.zipIdx.all fun w =>
    w.1.retired || (!w.1.suspended && !w.1.valid.isEmpty && w.1.valid.all fun p => splitHeld s b.2 w.1 p.2 || splitAtInst s b.2 w.2 p.2)

/-- An edge of the wait graph: from stage, to stage, pipe index. -/
def waitEdges (s : State) (asid n : Nat) (a : Almanac) : List (Nat × Nat × Nat) :=
  dedup (s.blocks.flatMap fun b => match (a.stages.zipIdx.find? fun k => k.1 == b.2.grid).map (·.2) with
    | none => []
    | some i => b.2.warps.flatMap fun w =>
        if w.retired then []
        else (warpPipes s b.2 w).filterMap fun e =>
          if pipeAsid e.1 != asid || pipeAlm e.1 != n then none
          else match s.pipes.get? e.1 with
            | none => none
            | some p =>
              if e.2 then (if p.hasCons then some (i, p.cons, pipeIdx e.1) else none)
              else if p.hasProd then some (i, p.prod, pipeIdx e.1) else none)

/-- The stages that edges reach from a list of stages. -/
def reachStages (es : List (Nat × Nat × Nat)) : Nat → List Nat → List Nat
  | 0, l => l
  | f + 1, l => reachStages es f (dedup (l ++ es.filterMap fun e => if l.contains e.1 then some e.2.1 else none))

/-- The stages reached from a stage by at least one edge. -/
def afterStage (es : List (Nat × Nat × Nat)) (i : Nat) : List Nat :=
  reachStages es 32 (es.filterMap fun e => if e.1 = i then some e.2.1 else none)

/-- The stages on a cycle with a stage; none when it lies on no cycle. -/
def cycleOf (es : List (Nat × Nat × Nat)) (n i : Nat) : List Nat :=
  (List.range n).filter fun j => (afterStage es i).contains j && (afterStage es j).contains i

/-- Every core of a stage is blocked. -/
def stageBlocked (s : State) (a : Almanac) (i : Nat) : Bool :=
  match (a.stages[i]?).bind fun k => s.grids.get? k with
  | some g => g.share.all fun k => coreBlocked s k
  | none => false

/-- The blocked cycles of an almanac: among the stages all of whose cores are blocked, the sets of stages that the edges join into cycles,
with the pipes of those edges, ascending (03 R73; DEDUCED, log 68). -/
def blockedCycles (s : State) (asid n : Nat) (a : Almanac) : List (List Nat × List Nat) :=
  let es := (waitEdges s asid n a).filter fun e => stageBlocked s a e.1 && stageBlocked s a e.2.1
  let m := a.stages.length
  (dedup (((List.range m).map (cycleOf es m)).filter fun c => !c.isEmpty)).map fun c =>
    (c, (List.range a.npipes).filter fun k => es.any fun e => e.2.2 == k && c.contains e.1 && c.contains e.2.1)

/-- Commit and free counters of pipes. -/
def pipeCounters (s : State) (asid n : Nat) (ps : List Nat) : List (BitVec 48 × BitVec 48) :=
  ps.map fun k => match s.pipes.get? (pipeKey asid n k) with | some p => (p.commits, p.frees) | none => (0, 0)

/-- One sample of a cycle that is watched: periods without a change of its counters are counted while it stands; after a change its event
may be raised again (03 R73). -/
def Cycle.sample (x : Cycle) (stands : Bool) (seen : List (BitVec 48 × BitVec 48)) : Cycle :=
  if x.seen = seen then { x with count := if stands then x.count + 1 else 0 } else { x with seen := seen, count := 0, raised := false }

/-- One sample of the detector (03 R73). A cycle that no longer stands is kept only to know that its event has been raised. -/
def watchDeadlock (s : State) (asid n : Nat) : State :=
  match alm? s asid n with
  | none => s
  | some a =>
    let now := blockedCycles s asid n a
    let stands (x : Cycle) : Bool := now.contains (x.stages, x.pipes)
    let old := (a.cycles.map fun x => x.sample (stands x) (pipeCounters s asid n x.pipes)).filter fun x => stands x || x.raised
    let new := (now.filter fun q => !(a.cycles.any fun x => x.stages == q.1 && x.pipes == q.2)).map fun q =>
      ({ stages := q.1, pipes := q.2, seen := pipeCounters s asid n q.2, count := 0, raised := false } : Cycle)
    modAlm s asid n fun a => { a with cycles := old ++ new }

/-- BALANCER_SAMPLE: every 50 µs, the balancer's decisions and the detector's samples (03 R71, R73). -/
def execBalancerSample (s : State) : Host.Outcome State Fault Refusal :=
  .next (if s.passed s.sampleAt < 50000 then s
    else
      let s := { s with sampleAt := s.kalends.toNat, periods := s.periods + 1 }
      let l := allAlms s
      let s := l.foldl (fun s a => watchDeadlock s a.1 a.2) s
      l.foldl (fun s a => balance s a.1 a.2) s)

/-- Bits of a list of numbers, from a base on. -/
def maskFrom (base : Nat) (l : List Nat) : Nat := (l.filter fun k => base ≤ k ∧ k < base + 64).foldl (fun m k => m ||| 2 ^ (k - base)) 0

/-- The pipeline-deadlock record (03 Table 3.11). -/
def deadlockWords (s : State) (asid n : Nat) (a : Almanac) (stages ps : List Nat) : List DWord :=
  [BitVec.ofNat 64 (0x1A2 + 7 * 2 ^ 9 + asid * 2 ^ 12), a.tag, BitVec.ofNat 64 (maskFrom 0 stages + n * 2 ^ 32),
    BitVec.ofNat 64 (maskFrom 0 ps), 0#64, 0#64, s.kalends, BitVec.ofNat 64 (maskFrom 64 ps)]

/-- The first cycle whose event is due: it stands, the threshold is reached, and it has not been raised. -/
def dueCycle (s : State) (asid n : Nat) (a : Almanac) : Option Cycle :=
  a.cycles.find? fun x => !x.raised && decide (a.dlThresh ≤ x.count) && (blockedCycles s asid n a).contains (x.stages, x.pipes)

/-- DEADLOCK_DETECTED: the threshold is reached, and the event is raised once (03 R73). -/
def execDeadlockDetected (alm : Nat) (s : State) : Host.Outcome State Fault Refusal :=
  .next (match alm? s (alm / 16) (alm % 16) with
    | none => s
    | some a => match dueCycle s (alm / 16) (alm % 16) a with
      | none => s
      | some x =>
        let ws := deadlockWords s (alm / 16) (alm % 16) a x.stages x.pipes
        let raise (y : Cycle) : Cycle := if y.stages = x.stages ∧ y.pipes = x.pipes then { y with raised := true } else y
        queueRecord (modAlm s (alm / 16) (alm % 16) fun a => { a with cycles := a.cycles.map raise }) (alm / 16) ws .event true)

/-! ### Completion (03 R75) -/

/-- The stage completion record (03 Table 3.10). -/
def stageRecord (s : State) (a : Almanac) (g : Grid) : List Byte :=
  let spilled := ((stageOutputs s g).map fun p => p.2.spills.toNat).sum % 2 ^ 48
  toBytes 8 a.tag.toNat ++ toBytes 8 g.doneAt ++ toBytes 8 (g.dropped % 2 ^ 64) ++ toBytes 8 spilled ++ toBytes 8 (g.status % 2 ^ 9)
    ++ toBytes 24 0

/-- A home whose mirror still lacks a number keeps its almanac, unless it was cancelled (03 R69; 04 R85). -/
def mirrorBusy (s : State) (asid n : Nat) : Bool :=
  !(s.grids.any fun g => g.2.asid == asid && g.2.alm == some n && g.2.cancelled)
    && (almPipes s asid n).any fun p => p.2.scope == 2 && p.2.nearSide && p.2.matched && !p.2.peerLost
    && (!p.2.inflight.isEmpty || p.2.eosSeq.isNone || p.2.slots.any fun x => x.2.st.isFilled && !x.2.mirrored)

/-- An almanac goes: its number, its stages and its pipes with their home entries are free; cores marked between its stages
are marked no more. -/
def dropAlm (s : State) (asid n : Nat) (a : Almanac) : State :=
  let marked := (s.cores.filter fun c => match c.2.handoff with
    | some h => a.stages.contains h.1 || a.stages.contains h.2.1 | none => false).map (·.1)
  let s := marked.foldl endHandoff s
  let mine (k : Nat) : Bool := pipeAsid k == asid && pipeAlm k == n
  { s with
    ctxs := modKey s.ctxs asid fun x => { x with alms := x.alms.del n }
    grids := s.grids.filter fun g => !a.stages.contains g.1
    pipes := s.pipes.filter fun p => !mine p.1
    cores := s.cores.map fun (c : Nat × Core) =>
      (c.1, { c.2 with grants := c.2.grants.filter fun g => !mine g.1, frees := c.2.frees.filter fun f => !mine f.1 }) }

/-- The status with which an almanac's launch completes: that of the first stage whose status is not 0; cancelled: 0x1EE
(03 R75; 04 R85). -/
def almStatus (s : State) (a : Almanac) : Nat :=
  let gs := (almGrids s a).map (·.2.2)
  if gs.any (·.cancelled) then 0x1EE else ((gs.map (·.status)).find? (· != 0)).getD 0

/-- The almanac completes: its launch, and the drains that wait for it (03 R74, R75). -/
def finishAlm (s : State) (asid n : Nat) (a : Almanac) : State :=
  let st := almStatus s a
  let down := (almGrids s a).any (·.2.2.downgrade)
  let s := s.modPkt a.pkt fun p => { p with st := .ended st, downgrade := down }
  dropAlm (a.drainers.foldl (fun s k => s.modPkt k fun p => { p with st := .ended 0 }) s) asid n a

/-- Writes the record of the first stage that has none, once that stage is complete; the last one completes the almanac. -/
def writeStage (s : State) (asid n : Nat) (a : Almanac) : State :=
  match (almGrids s a).find? fun g => !g.2.2.recorded, s.pkts.get? a.pkt with
  | some (i, gk, g), some p =>
    if !g.complete || p.waiting || (i + 1 == a.stages.length && mirrorBusy s asid n) then s
    else
      let (done, s) := cpRecord s a.pkt p (a.crec.toNat + 64 * i) (stageRecord s a g)
      if !done then s
      else
        let s := (s.modGrid gk fun g => { g with recorded := true }).modPkt a.pkt fun p => { p with fault := none }
        if i + 1 == a.stages.length then finishAlm s asid n a else s
  | _, _ => s

/-- STAGE_RECORD_WRITE (03 R75). -/
def execStageRecordWrite (alm : Nat) (s : State) : Host.Outcome State Fault Refusal :=
  .next (match alm? s (alm / 16) (alm % 16) with
    | some a => writeStage s (alm / 16) (alm % 16) a
    | none => s)

/-- A rejected almanac stops: nothing of it runs on, and its launch reports the offset (03 R49, R69). -/
def rejectAlm (s : State) (asid n : Nat) (a : Almanac) (offset : Nat) : State :=
  let s := a.stages.foldl killGrid s
  let s := s.modPkt a.pkt fun p => { p with st := .ended 0x1E4, offset := offset }
  dropAlm (a.drainers.foldl (fun s k => s.modPkt k fun p => { p with st := .ended 0 }) s) asid n a

/-- PEER_MATCH_TIMEOUT: a pod-scope pipe whose peer has not matched within 100 ms of launch is rejected (03 R69). -/
def execPeerMatchTimeout (pipe : Nat) (s : State) : Host.Outcome State Fault Refusal :=
  .next (match s.pipes.get? pipe, alm? s (pipeAsid pipe) (pipeAlm pipe) with
    | some p, some a =>
      if p.scope = 2 && !p.matched && decide (100000000 ≤ s.passed p.born) then
        rejectAlm s (pipeAsid pipe) (pipeAlm pipe) a (128 + 64 * (a.stages.length + pipeIdx pipe) + 0x28)
      else s
    | _, _ => s)

end Sys2Proof.Machine
end

