-- ==== Sys2Proof/Machine/Command.lean ====
section
/-! DEFINITION. Command packets: their fields, the checks of the front end, the rings, and the datagrams that carry packets
(04 R76 to R84; 16 R294, R295). -/

namespace Sys2Proof.Machine

open Sys2Proof

/-! ### Fields -/

/-- Bits of a record at a byte offset of a 64-bit word. -/
def pf (ws : List DWord) (o lo n : Nat) : Nat := recField ws (o / 8) lo n

/-- Kind of a packet. -/
def pKind (ws : List DWord) : Nat := pf ws 0 0 8

/-- Length of a packet in bytes. -/
def pLen (ws : List DWord) : Nat := 32 * pf ws 0 16 9

/-- Handle-list entries of a packet. -/
def pNh (ws : List DWord) : Nat := pf ws 0x18 0 10

/-- The handle list stands at the end of the packet (04 R76). -/
def pHandles (ws : List DWord) : List DWord :=
  let n := pLen ws / 8
  (List.range (pNh ws)).map fun i => wordAt ws (n - pNh ws + i)

/-- Context-control subcommand. -/
def pSub (ws : List DWord) : Nat := pf ws 32 0 8

/-! ### Checks (04 R77, R83, R84) -/

/-- A reserved field, or a range, that is broken: byte offset, and whether it is. -/
abbrev Check := Nat × Bool

/-- The lowest offset of a broken check: the first offending field. -/
def firstBad (l : List Check) : Option Nat :=
  (l.filter (·.2)).foldl (fun m c => match m with | none => some c.1 | some a => some (if c.1 < a then c.1 else a)) none

/-- A field that must be zero. -/
def zeroAt (ws : List DWord) (o lo n : Nat) : Check := (o + lo / 8, pf ws o lo n != 0)

/-- Bytes that must be zero, one field. -/
def zeroBytes (ws : List DWord) (o n : Nat) : Check := (o, (List.range (n / 8)).any fun i => wordAt ws (o / 8 + i) != 0#64)

/-- Checks of the header (04 Table 4.1). -/
def headerChecks (ws : List DWord) : List Check :=
  [(1, pf ws 0 8 8 != 1), (2, pf ws 0 16 9 == 0 || decide (256 < pf ws 0 16 9)), zeroAt ws 0 25 7, zeroAt ws 0 42 6,
    zeroAt ws 0 50 14, (0x10, pf ws 0x10 0 5 != 0), zeroAt ws 0x10 56 8, (0x18, decide (512 < pNh ws)), zeroAt ws 0x18 10 54]

/-- The fewest bytes of a body, as far as its kind tells (04 Tables 4.2, 4.3; R84). -/
def bodyLeast (ws : List DWord) : Nat :=
  match pKind ws with
  | 1 => 64 + 64 * pf ws 0x40 20 3
  | 2 => 8
  | 3 => 16
  | 4 => 16
  | 5 => 32
  | 6 => 24
  | 7 => 8
  | 8 => 8 + 2 * pf ws 32 14 10
  | _ => 64

/-- Checks of the bodies of the plain kinds. -/
def bodyChecks (ws : List DWord) : List Check :=
  match pKind ws with
  | 1 =>
    [(0x38, decide (2 ^ 64 < pf ws 0x30 0 64 + pf ws 0x38 0 64)),
      (0x40, pf ws 0x40 0 10 == 0 || decide (768 < pf ws 0x40 0 10)), (0x41, pf ws 0x40 10 6 == 0),
      (0x42, decide (4 < pf ws 0x40 20 3)), zeroAt ws 0x40 23 41, zeroBytes ws 0x48 24]
  | 3 => [(0x28, decide (pLen ws < 48 + 8 * pNh ws + pf ws 0x28 0 13))]
  | 4 => [(0x28, pf ws 0x28 0 25 == 0 || decide (2 ^ 24 < pf ws 0x28 0 25)), zeroAt ws 0x28 25 39]
  | 5 => [(0x20, pf ws 0x20 0 2 == 3)]
  | 8 =>
    [(0x21, decide (768 < pf ws 32 14 10)),
      (0x28, (List.range (pf ws 32 14 10)).any fun i => decide (768 ≤ pf ws (0x28 + 2 * i / 8 * 8) (16 * (i % 4)) 16))]
  | _ => []

/-- A ring that a subcommand names may be acted on from a ring: it is there, and of the same context, or ring 0 asks
(04 R79, R84). -/
def ringFor (s : State) (from_ : Nat) (d : Ring) (n : Nat) : Option Ring :=
  match s.rings.get? n with
  | none => none
  | some x => if x.asid == d.asid || from_ == 0 then some x else none

/-- A context that a subcommand names: resident, and the ring's own unless ring 0 asks. -/
def ctxFor (s : State) (from_ : Nat) (d : Ring) (asid : Nat) : Bool := s.ctxs.has asid && (asid == d.asid || from_ == 0)

/-- Checks of the context-control bodies (04 Table 4.6, R84). -/
def ctlChecks (s : State) (from_ : Nat) (d : Ring) (ws : List DWord) : List Check :=
  let n := pf ws 0x28 0 10
  let ring (ok : Ring → Bool) : Check := (0x28, match ringFor s from_ d n with | some x => !ok x | none => true)
  let rest (o : Nat) : Check := zeroBytes ws o (0x60 - o)
  zeroAt ws 0x20 8 56 :: match pSub ws with
  | 1 =>
    [(0x28, s.rings.has n), zeroAt ws 0x28 10 54, (0x30, pf ws 0x30 0 12 != 0 || decide (hbmEnd < pf ws 0x30 0 52 + 2 ^ (pf ws 0x30 52 4 + 12))),
      (0x36, decide (12 < pf ws 0x30 52 4)), zeroAt ws 0x30 59 1, zeroAt ws 0x30 60 2, zeroAt ws 0x30 62 2, zeroAt ws 0x38 0 32,
      zeroAt ws 0x38 32 32, zeroAt ws 0x40 56 8, zeroAt ws 0x48 0 64, (0x50, !ctxFor s from_ d (pf ws 0x50 0 10)),
      zeroAt ws 0x50 10 6, zeroAt ws 0x50 16 16, zeroAt ws 0x50 32 32, zeroAt ws 0x58 0 64]
  | 2 => [ring fun x => !x.running || x.wptr == x.rptr, zeroAt ws 0x28 10 54, rest 0x30]
  | 3 => [ring fun x => !x.running, zeroAt ws 0x28 10 54, (0x30, pf ws 0x30 0 5 != 0), zeroAt ws 0x30 32 32, rest 0x38]
  | 4 => [ring fun _ => true, zeroAt ws 0x28 10 54, (0x30, pf ws 0x30 0 3 != 0), zeroAt ws 0x30 56 8, rest 0x38]
  | 5 =>
    [(0x28, (s.ctx d.asid).handles.has (pf ws 0x28 0 16)), zeroAt ws 0x28 16 48, zeroAt ws 0x30 56 8, (0x38, pf ws 0x38 0 48 == 0),
      zeroAt ws 0x38 48 16, rest 0x40]
  | 6 =>
    [(0x28, match (s.ctx d.asid).handles.get? (pf ws 0x28 0 16) with
        | some h => (h.wvalid && !h.wdone) || h.readers != 0
        | none => true), zeroAt ws 0x28 16 48, rest 0x30]
  | 7 => [(0x28, !ctxFor s from_ d n), zeroAt ws 0x28 10 54, rest 0x30]
  | 8 => [(0x28, !ctxFor s from_ d n), zeroAt ws 0x28 10 54, rest 0x30]
  | 9 =>
    [(0x28, decide (1 ≤ pf ws 0x28 0 32) && decide (pf ws 0x28 0 32 ≤ 1023)), zeroAt ws 0x28 40 24,
      (0x30, !ctxFor s from_ d (pf ws 0x30 0 10)), zeroAt ws 0x30 10 54, rest 0x38]
  | 10 =>
    [zeroAt ws 0x28 1 7, zeroAt ws 0x28 12 52, zeroAt ws 0x30 32 32, (0x38, !ctxFor s from_ d (pf ws 0x38 0 10)),
      zeroAt ws 0x38 10 54, rest 0x40]
  | _ => []

/-- Checks of the handle list (04 R77). -/
def handleChecks (s : State) (d : Ring) (ws : List DWord) : List Check :=
  let l := pHandles ws
  l.zipIdx.flatMap fun e =>
    let o := pLen ws - 8 * l.length + 8 * e.2
    let idx := bits e.1 0 16
    [(o, !(s.ctx d.asid).handles.has idx || (l.take e.2).any fun q => bits q 0 16 == idx), (o + 2, bits e.1 16 2 == 0),
      (o + 2, bits e.1 19 45 != 0)]

/-- The kind is known (04 Tables 4.2, 4.6). -/
def knownKind (ws : List DWord) : Bool :=
  decide (1 ≤ pKind ws) && decide (pKind ws ≤ 9) && (pKind ws != 9 || (decide (1 ≤ pSub ws) && decide (pSub ws ≤ 10)))

/-- Why the front end refuses the packet at rptr: cause and offset (04 R83). The specification does not order the two causes: a packet whose
header fails a check is malformed whatever its kind, and one of kind 9 without a body word has subcommand 0 (DESIGN CHOICE, log 65). -/
def packetBad (s : State) (ring : Nat) (d : Ring) (ws : List DWord) : Option (Nat × Nat) :=
  match firstBad (headerChecks ws) with
  | some o => some (0x1E4, o)
  | none =>
    if !knownKind ws then some (0x1E5, if pKind ws == 9 then 0x20 else 0)
    else
      let short : Check := (2, decide (pLen ws < 32 + bodyLeast ws + 8 * pNh ws) || (pKind ws == 9 && pLen ws != 96))
      let body := if pKind ws = 9 then ctlChecks s ring d ws else bodyChecks ws
      (firstBad (short :: body ++ handleChecks s d ws)).map fun o => (0x1E4, o)

/-! ### Rings (04 R79, R80) -/

/-- Size of a ring in bytes. -/
def Ring.size (d : Ring) : Nat := 2 ^ (d.lsize + 12)

/-- Physical address of a ring offset. -/
def Ring.at_ (d : Ring) (off : Nat) : Nat := bits d.base 0 52 + off % d.size

/-- Reads ring bytes from HBM, round the end of the ring. -/
def ringRead (s : State) (d : Ring) (off n : Nat) : List Byte := (List.range n).map fun i => Mem.read s.mem (d.at_ (off + i))

/-- Writes ring bytes to HBM, which the receive engine reaches directly (04 R89). -/
def ringWrite (s : State) (d : Ring) (off : Nat) (bs : List Byte) : State :=
  { s with mem := bs.zipIdx.foldl (fun m b => Mem.write m (d.at_ (off + b.2)) b.1) s.mem }

/-- Splits a payload into packets by their length fields; none if it does not delimit (04 R80). -/
def delimit : Nat → List Byte → Option (List (List Byte))
  | 0, _ => none
  | f + 1, bs =>
    if bs.isEmpty then some []
    else if bs.length < 32 then none
    else
      let n := pLen (wordsOf 4 bs)
      if n = 0 ∨ 8192 < n ∨ bs.length < n then none
      else (delimit f (bs.drop n)).map fun l => bs.take n :: l

/-- A notification of a discard (04 R80). -/
def discardNote (s : State) (ring : Nat) (nseq : DWord) (cause : Nat) : State :=
  sendDatagram s 2 (recordBytes s nseq cause false ring 0 0)

/-- The receive engine takes one packet: it writes it to its ring, or discards it (04 R80). -/
def receivePacket (s : State) (bs : List Byte) : State :=
  let ws := wordsOf 4 bs
  let ring := pf ws 0 32 10
  match s.rings.get? ring with
  | none => discardNote s ring 0 0x1ED
  | some d =>
    let drop (cause : Nat) : State :=
      discardNote { s with rings := s.rings.put ring { d with drops := d.drops + 1 } } ring d.nseq cause
    if pf ws 8 0 64 != d.nseq.toNat then drop 0x1E7
    else if d.size < (d.wptr - d.rptr).toNat + bs.length then drop 0x1E6
    else
      let s := ringWrite s d d.wptr.toNat bs
      { s with rings := s.rings.put ring { d with wptr := d.wptr + BitVec.ofNat 32 bs.length, nseq := d.nseq + 1 } }

/-- The payload of a kind-1 datagram (04 R76, R80). -/
def receivePayload (s : State) (bs : List Byte) : State :=
  match delimit (bs.length + 1) bs with
  | some l => l.foldl receivePacket s
  | none =>
    let ring := if bs.length < 6 then 0 else pf (wordsOf 1 bs) 0 32 10
    discardNote s ring (match s.rings.get? ring with | some d => d.nseq | none => 0) 0x1E4

/-! ### Datagrams (16 R294, R295) -/

/-- A datagram that the device accepts: its kind and payload. -/
def checkDatagram (x : Session) (bs : List Byte) : Option (Nat × List Byte) :=
  let ws := wordsOf 4 bs
  let n := pf ws 0x10 0 14
  let body := (bs.drop 32).take n
  if bs.length < 64 || bs.length != 64 + n || decide (8960 < n) || n % 32 != 0 || pf ws 0 0 16 != 0x5336
      || pf ws 0 24 8 != 0 || pf ws 0 32 32 != x.number.toNat || pf ws 0x10 14 50 != 0 || pf ws 0x18 0 64 != 0
      || bs.drop (32 + n) != toBytes 32 (Config.kmac256 x.keyIn (bs.take (32 + n))).toNat || decide (pf ws 8 0 64 ≤ x.dseqIn) then none
  else
    let kind := pf ws 0 16 8
    let payOk := kind == 1 || (kind == 4 && body.length == 32 && (body.drop 4).all (· == 0#8))
    if payOk then some (kind, body) else none

/-- A session after a datagram has been accepted in it. -/
def Session.accepted (x : Session) (s : State) (bs : List Byte) : Session :=
  { x with dseqIn := pf (wordsOf 4 bs) 8 0 64, last := s.kalends.toNat }

/-- A datagram arrives: accepted, with its kind and payload, or dropped and counted. The first one of a new session replaces
the old session (16 R293). An arrival ends retention (16 R299). -/
def acceptDatagram (s : State) (port : Nat) (bs : List Byte) : Option (Nat × List Byte) × State :=
  let drop : Option (Nat × List Byte) × State := (none, { s with dropped := s.dropped + 1 })
  if s.boot == .off then (none, s)
  else if s.boot == .halted then (none, if port = 0 then s.send .bootStatus else s)
  else if port != 0 then drop
  else match s.nextSession.bind fun x => (checkDatagram x bs).map fun r => (x, r) with
    | some (x, r) =>
      (some r, { s with session := some (x.accepted s bs), nextSession := none, tolerance := 0 } |> wakePackage)
    | none => match s.session.bind fun x => (checkDatagram x bs).map fun r => (x, r) with
      | some (x, r) => (some r, { s with session := some (x.accepted s bs) } |> wakePackage)
      | none => drop

end Sys2Proof.Machine
end

