-- ==== Sys2Proof/Machine/EvPlace.lean ====
section
/-! DEFINITION. The events of the distributor, of a resident block and of its rendezvous: placement, prologue copies, the start
of a warp, retirement, the hot set, JOIN, REFILL and barrier events (02 R26 to R45; 04 R89 to R92; 06 R121 to R125; 13 R257;
14 R269; 18 R332, R333). -/

namespace Sys2Proof.Machine

open Sys2Proof

/-! ### Placement -/

/-- No block of the launch of a grid has been placed. -/
def firstOfLaunch (s : State) (g : Grid) : Bool := s.grids.all fun p => p.2.pkt != g.pkt || p.2.placed == 0

/-- Clean words of a line are invalid afterwards; a line that keeps no word is gone. -/
def L1Line.dropClean (x : L1Line) : L1Line := { x with valid := x.valid &&& x.dirty }

/-- Clean L1 words of physical ranges are invalidated on a core, and the instruction lines with them (04 Table 4.8). -/
def Core.dropClean (x : Core) (rs : List (Nat × Nat)) : Core :=
  let lines := x.l1d.map fun p => if rs.any (lineIn p.1) then (p.1, p.2.dropClean) else p
  { x with
    l1d := lines.filter fun p => p.2.valid != 0#32 || p.2.dirty != 0#32
    l1i := x.l1i.filter fun p => !rs.any (lineIn p.1) }

/-- Mode of a handle-list entry (04 R77). -/
def entryMode (e : DWord) : Nat := bits e 16 2

/-- Handle index of a handle-list entry. -/
def entryIndex (e : DWord) : Nat := bits e 0 16

/-- The ranges that the first block of a launch must not find in an L1: its read and read-write entries whose handle has
wvalid set (04 Table 4.8). -/
def launchRanges (s : State) (p : Packet) : List (Nat × Nat) :=
  (p.handles.filter fun e => entryMode e == 1 || entryMode e == 3).flatMap fun e =>
    match (s.ctx p.asid).handles.get? (entryIndex e) with
    | some h => if h.wvalid then physRanges s p.asid h.base.toNat (h.base.toNat + h.length) else []
    | none => []

/-- The cache action before the first block of a launch is placed, on every core of its permitted dies: those of all its stages (04 R89). -/
def beforeFirst (s : State) (g : Grid) : State :=
  if !firstOfLaunch s g then s
  else match s.pkts.get? g.pkt with
    | none => s
    | some p =>
      let rs := launchRanges s p
      let dies := (s.grids.filter fun q => q.2.pkt == g.pkt).foldl (fun d q => d ||| q.2.dies) 0#6
      { s with cores := s.cores.map fun (c : Nat × Core) =>
          if bit dies (coreDie c.1) then (c.1, c.2.dropClean rs) else c }

/-- What a grid would place now: the first of its saved blocks, ahead of every new block, or new ones (04 R90, R95). -/
def nextPlacement (s : State) (gk : Nat) (g : Grid) : Option State :=
  if g.restore.isEmpty then placement s gk g
  else if (s.ctx g.asid).suspended || gangHeld s g then none
  else
    let t := restoreNext s gk g
    if (newCores s t).isEmpty then none else some t

/-- Another grid that comes first wants one of the cores (04 R90). -/
def outranked (s : State) (gk : Nat) (g : Grid) (cs : List Nat) : Bool :=
  s.grids.any fun p => p.1 != gk && p.2.before g && (match nextPlacement s p.1 p.2 with
    | some t => (newCores s t).any fun c => cs.contains c
    | none => false)

/-- A grid places its next block or gang, if room and rank allow it; restored blocks come first. A new block, or the blocks of a new gang,
take their items (02 R26; 04 R90, R95). -/
def placeNext (s : State) (gk : Nat) (gang : Bool) : State :=
  let s := screenSlots gk takeFuel s
  match s.grids.get? gk with
  | none => s
  | some g =>
    if g.restore.isEmpty && decide (1 < g.kernel.gsize) != gang then s
    else match nextPlacement (if g.restore.isEmpty then beforeFirst s g else s) gk g with
      | none => s
      | some t =>
        if outranked s gk g (newCores s t) then s
        else if g.restore.isEmpty then gangItems t gk (BitVec.ofNat 32 g.gangs) else t

/-- BLOCK_PLACEMENT: a block goes to a core of its grid's share (02 R40; 04 R90). -/
def execBlockPlacement (grid : Nat) (s : State) : Host.Outcome State Fault Refusal := .next (placeNext s grid false)

/-- GANG_PLACEMENT: a whole gang is placed, and its blocks take their items in block index order (02 R26, R41, R42; 04 R90). -/
def execGangPlacement (grid : Nat) (s : State) : Host.Outcome State Fault Refusal := .next (placeNext s grid true)

/-- The prologue copies of a block have ended: its warps may start, or the block fails (02 R43). The record of a translation
or permission fault has been written already. -/
def prologueDone (s : State) (c slot : Nat) (b : Block) : State :=
  let ops := b.prologue.filterMap fun e => (s.op? c e).map fun o => (e, o)
  if b.ready || ops.any (fun p => !p.2.complete) then s
  else match ops.find? fun p => p.2.status != 0 with
    | some (_, o) =>
      let s := if o.recorded then s
        else queueRecord s b.asid (engineWords s c o o.status 4 o.raddr.toNat) .event
      failBlock s c slot o.status
    | none =>
      let s := ops.foldl (fun s p => raisePts s c p.2.ets) s
      freeOps (s.modBlock c slot fun b => { b with ready := true, prologue := [] }) c

/-- PROLOGUE_COPY_COMPLETE (02 R43). -/
def execPrologueCopyComplete (core slot : Nat) (s : State) : Host.Outcome State Fault Refusal :=
  .next (match s.block? core slot with
    | some b => prologueDone s core slot b
    | none => s)

/-- WARP_START: a warp takes its first items and may issue, or retires at once (02 R26). -/
def execWarpStart (core slot warp : Nat) (s : State) : Host.Outcome State Fault Refusal := .next (startWarp s core slot warp)

/-- BLOCK_RETIRE: a block whose warps have retired and whose operations have completed (02 R44). -/
def execBlockRetire (core slot : Nat) (s : State) : Host.Outcome State Fault Refusal :=
  .next (match s.block? core slot with
    | some b => if retirable s core slot b then retireBlock s core slot b else s
    | none => s)

/-! ### REFILL and the hot set -/

/-- A blocked REFILL may go on: an item, the end of its queue, a marked core, or pre-emption (02 R33). -/
def refillMayWake (s : State) (c : Nat) (b : Block) : Bool :=
  b.saving || (s.core c).assignsNothing || (match s.grids.get? b.grid with
    | some g => queuePending s g || queueExhausted s g
    | none => true)

/-- REFILL_WAKE: a warp blocked at a REFILL issues it again (02 R33). -/
def execRefillWake (core slot warp : Nat) (s : State) : Host.Outcome State Fault Refusal :=
  .next (match s.block? core slot with
    | some b => if refillMayWake s core b then s.modWarp core slot warp Warp.wake else s
    | none => s)

/-- REFILL_RECONVERGE: the splits of a warp that wait at its REFILL merge (02 R31). -/
def execRefillReconverge (core slot warp : Nat) (s : State) : Host.Outcome State Fault Refusal :=
  .next (match s.block? core slot with
    | some b => s.modWarp core slot warp fun w => refillMerge w b.refillPc
    | none => s)

/-- Waits that qualify a hot warp for a swap: memory, a lookahead boundary, a handle or batch, a pipe, a rendezvous
(04 R92). -/
def Stall.swaps : Stall → Bool
  | .memory => true
  | .lookahead => true
  | .handle => true
  | .batch => true
  | .emptyPipe => true
  | .fullPipe => true
  | .rendezvous => true
  | _ => false

/-- Cycle since which a hot warp has waited: its last issue, or its entry into the hot set. -/
def Warp.waits (w : Warp) : Nat := if w.lastIssue < w.waitSince then w.waitSince else w.lastIssue

/-- A hot warp may be swapped: it has waited for more than 64 cycles on something that qualifies (04 R92), or stands behind a YIELD
(22 R441). -/
def Warp.swappable (w : Warp) (cycle : Nat) : Bool :=
  w.hot && !w.restaging && !w.valid.isEmpty && decide (w.keepUntil ≤ cycle)
    && ((w.swapFirst && w.yielded) || (decide (64 < cycle - w.waits) && w.valid.all fun p => p.2.stall.swaps))

/-- The hot warp that a quarter swaps: a first candidate, else the one that has waited longest (04 R92; 17 Table 17.7). -/
def swapOut (s : State) (c q : Nat) : Option (Nat × Nat × Warp) :=
  match (coreWarps s c).filter fun w => w.2.2.quarter == q && w.2.2.swappable s.cycle.toNat with
  | [] => none
  | a :: r =>
    let better (a b : Warp) : Bool :=
      (b.swapFirst && !a.swapFirst) || (a.swapFirst == b.swapFirst && decide (b.waits < a.waits))
    some (r.foldl (fun a b => if better a.2.2 b.2.2 then b else a) a)

/-- A quarter swaps a waiting hot warp for its earliest-placed ready cold one, at most once in 8 cycles (04 R92). -/
def swapWarps (s : State) (c q : Nat) : State :=
  let cycle := s.cycle.toNat
  if cycle < (s.core c).lastSwap.getD q 0 + 8 ∧ (s.core c).lastSwap.getD q 0 ≠ 0 then s
  else match swapOut s c q, coldNext s c q with
    | some (slot, m, _), some (slot', m', _) =>
      let s := s.modWarp c slot m fun w => { w.rewound with hot := false, restaging := false, swapFirst := false }
      let s := s.modCore c fun x => { x with lastSwap := setAt x.lastSwap q cycle }
      enterHot (pmCount s c (blockAsid s c slot) 14 1) c slot' m'
    | _, _ => s

/-- WARP_SWAP (04 R92). -/
def execWarpSwap (core quarter : Nat) (s : State) : Host.Outcome State Fault Refusal := .next (swapWarps s core quarter)

/-- RESTAGE_DONE: a warp's slice holds its region again, and the warp may issue (04 R92). -/
def execRestageDone (core slot warp : Nat) (s : State) : Host.Outcome State Fault Refusal :=
  .next (match s.block? core slot with
    | some b => s.modWarp core slot warp fun w => if w.copying b.kernel.d = 0#14 then { w with restaging := false } else w
    | none => s)

/-! ### Rendezvous, JOIN and barrier events -/

/-- The instance that an event's number names: 0 to 7 a set's, 8 the block's. -/
def instOf (n : Nat) : InstKey := if n < 8 then .set n else .block

/-- RENDEZVOUS_COMPLETE: every awaited member has arrived (02 R39; 06 R123; 18 R332). -/
def execRendezvousComplete (core slot inst : Nat) (s : State) : Host.Outcome State Fault Refusal :=
  .next (settle s core slot (instOf inst))

/-- An instance has been open for its timeout; an arrival or an EXITL that completes it in the same cycle wins (06 R125). -/
def instExpire (s : State) (c slot : Nat) (k : InstKey) : State :=
  let s := settle s c slot k
  match s.block? c slot with
  | none => s
  | some b => match b.inst k with
    | some i => if instDue s c b k i then instTimeout s c slot k b i else s
    | none => s

/-- The reconvergence of a REFILL has waited for the timeout: the warp traps, no item is assigned (02 R31). -/
def refillExpire (s : State) (c slot m : Nat) : State :=
  match s.block? c slot, s.warp? c slot m with
  | some b, some w =>
    let w := refillMerge w b.refillPc
    match w.refillSince with
    | none => s.modWarp c slot m fun _ => w
    | some t =>
      if s.cycle.toNat - t < w.refillLimit then s
      else match findIdx (fun p : Split => p.waitsAt b.refillPc) w.splits with
        | none => s
        | some (k, _) =>
          let s := s.modWarp c slot m fun w => { w with
            refillSince := none, splits := w.splits.map fun p => if p.waitsAt b.refillPc then { p with rwait := false } else p }
          takeTrap s { core := c, slot := slot, warp := m, split := k, pc := b.refillPc, sc := if b.kernel.items = 2 then 3 else 1 }
            { cause := 0x180 }
  | _, _ => s

/-- The wait of RFT for the other members has reached the timeout: every waiting member traps to firmware (14 R269). -/
def rftExpire (s : State) (c slot m : Nat) : State :=
  match s.block? c slot, s.warp? c slot m with
  | some b, some w =>
    if !w.rftWait || s.cycle.toNat - w.rftSince < w.rftLimit then s
    else
      let ms := w.trapMembers.filter fun k => match b.warps[k]? with | some v => v.rftWait | none => false
      ms.foldl (fun s k => match s.warp? c slot k with
        | none => s
        | some v =>
          let pc := (v.splits.getD 0 Split.empty).pc
          let s := s.modWarp c slot k fun v => { v with rftWait := false, trapMembers := [] }
          takeTrap s { core := c, slot := slot, warp := k, split := 0, pc := pc, sc := 1 } { cause := 0x180 }) s
  | _, _ => s

/-- RENDEZVOUS_TIMEOUT: of a set's or block's instance, a barrier, a REFILL's reconvergence, an XSHUF or an RFT (06 R125; 02
R31; 13 R257; 14 R269; 18 R333). -/
def execRendezvousTimeout (core slot inst : Nat) (s : State) : Host.Outcome State Fault Refusal :=
  .next (if inst < 9 then instExpire s core slot (instOf inst)
    else if inst < 32 then s
    else if inst < 64 then refillExpire s core slot (inst - 32)
    else if inst < 96 then xshufTimeout s core slot (inst - 64)
    else rftExpire s core slot (inst - 96))

/-- JOIN_COMPLETE: every group of a warp that is complete merges (06 R121). -/
def execJoinComplete (core slot warp : Nat) (s : State) : Host.Outcome State Fault Refusal :=
  .next (s.modWarp core slot warp fun w => joinSettle w s.cycle.toNat)

/-- A JOIN timer has run out: the splits then waiting in its group merge. In the cycle in which it runs out a completing arrival
wins, so the group waits while its warp may still issue in that cycle (`last` says that it may not) (06 R121). -/
def joinExpire (w : Warp) (k cycle : Nat) (last : Bool) : Warp :=
  let w := joinSettle w cycle
  match w.splits[k]? with
  | none => w
  | some p =>
    if p.valid && p.jwait && (decide (2 ≤ p.jdue) || (p.jdue == 1 && last)) then mergeGroup w p.pc p.depth cycle else w

/-- JOIN_TIMEOUT (06 R121). -/
def execJoinTimeout (core slot warp split : Nat) (s : State) : Host.Outcome State Fault Refusal :=
  .next (s.modWarp core slot warp fun w => joinExpire w split s.cycle.toNat (!mayArrive s core w))

/-- GANG_PHASE_COMPLETE: every awaited block of a gang is block-arrived (18 R332). -/
def execGangPhaseComplete (grid gang : Nat) (s : State) : Host.Outcome State Fault Refusal :=
  .next (gangPhase s grid (BitVec.ofNat 32 gang))

end Sys2Proof.Machine
end

