-- ==== Sys2Proof/Machine/EvCommand.lean ====
section
/-! DEFINITION. The events of the receive engine, the front end and the command processor: datagrams, fetching, starting and
completing packets, memory, fence and signal packets, and the subcommands on rings and handles (04 R78 to R89, R453). -/

namespace Sys2Proof.Machine

open Sys2Proof

/-- COMMAND_DATAGRAM: an accepted kind-1 datagram (04 R80; 16 R295). A power-control datagram is another event. -/
def execCommandDatagram (port : Nat) (bytes : List Byte) (s : State) : Host.Outcome State Fault Refusal :=
  .next (match acceptDatagram s port bytes with
    | (some (1, body), s) => receivePayload s body
    | (some _, _) => s
    | (none, s) => s)

/-! ### Fetching (04 R81 to R83, R87) -/

/-- A packet that counts among those of its ring: not the writing of an error record. -/
def Packet.counts (p : Packet) : Bool := p.kind != 0

/-- A ring holds a packet that the front end may take or must refuse (04 R81). -/
def ringReady (s : State) (n : Nat) (d : Ring) : Bool :=
  let avail := (d.wptr - d.rptr).toNat
  let len := pLen (wordsOf 4 (ringRead s d d.rptr.toNat 32))
  d.running && decide (32 ≤ avail) && (len == 0 || decide (8192 < len) || decide (len ≤ avail))
    && !(s.pkts.any fun p => p.2.ring == n && p.2.kind == 5)
    && decide ((s.pkts.filter fun p => p.2.asid == d.asid && p.2.counts && p.2.st != .fetched).length < 65536)

/-- The ring that the front end serves: the highest priority, then the next number after the ring of that priority served last (04 R81). -/
def nextRing (s : State) : Option (Nat × Ring) :=
  let turn (n : Nat) (prio : Nat) : Nat := (n + 1024 - s.lastRing.getD prio 0 - 1) % 1024
  ((s.rings.filter fun r => ringReady s r.1 r.2).foldl (fun (m : Option (Nat × Ring)) r => match m with
    | none => some r
    | some b => if b.2.prio < r.2.prio ∨ (b.2.prio = r.2.prio ∧ turn r.1 r.2.prio < turn b.1 b.2.prio) then some r else m) none)

/-- A packet as the front end takes it. -/
def takenPacket (s : State) (ring : Nat) (d : Ring) (ws : List DWord) (bs : List Byte) : Packet :=
  { ring := ring, asid := d.asid, kind := pKind ws, pseq := wordAt ws 1, crec := BitVec.ofNat 64 (pf ws 0x10 0 56)
    notify := bit (wordAt ws 0) 48, barrier := bit (wordAt ws 0) 49, launch := (s.ctx d.asid).nextLaunch
    body := (bs.drop 32).take (bs.length - 32 - 8 * pNh ws), handles := pHandles ws, st := .fetched
    since := s.kalends.toNat, offset := 0, downgrade := false, moved := 0, cores := [], fault := none, got := []
    waiting := false, ts := 0 }

/-- The front end takes the packet at rptr, or stops its ring (04 R81 to R83). -/
def fetchPacket (s : State) (n : Nat) (d : Ring) : State :=
  let len := pLen (wordsOf 4 (ringRead s d d.rptr.toNat 32))
  let len := if len = 0 ∨ 8192 < len then 32 else len
  let bs := ringRead s d d.rptr.toNat len
  let ws := wordsOf (len / 8) bs
  let bad := if (List.range (len / 32)).any fun i => poisoned s (d.at_ (d.rptr.toNat + 32 * i)) 32 then some (0x1E4, 0)
    else packetBad s n d ws
  match bad with
  | some (cause, o) => stopRing s n d (wordAt ws 1) cause 0 o
  | none =>
    let p := takenPacket s n d ws bs
    let s := s.modCtx d.asid fun x => { x with nextLaunch := x.nextLaunch + 1 }
    { s with
      rings := s.rings.put n { d with rptr := d.rptr + BitVec.ofNat 32 len }
      lastRing := setAt s.lastRing d.prio n, pkts := s.pkts.put s.nextPkt p, nextPkt := s.nextPkt + 1 }

/-- PACKET_FETCH (04 R81). -/
def execPacketFetch (s : State) : Host.Outcome State Fault Refusal :=
  .next (match nextRing s with
    | some (n, d) => fetchPacket s n d
    | none => s)

/-! ### Starting (04 R88) -/

/-- An entry of a handle list lets its packet start. -/
def entryFree (x : Ctx) (e : DWord) : Bool :=
  match x.handles.get? (entryIndex e) with
  | none => true
  | some h =>
    let written := !h.wvalid || h.wdone
    if entryMode e = 1 then written && decide (h.readers < 65535) else written && h.readers == 0

/-- What an entry does to its handle as its packet starts. -/
def BufHandle.start (h : BufHandle) (e : DWord) (launch : BitVec 32) : BufHandle :=
  if entryMode e = 1 then { h with readers := h.readers + 1 }
  else { h with writer := launch, wvalid := true, wdone := false, readers := 0 }

/-- What an entry does to its handle as its packet completes. -/
def BufHandle.finish (h : BufHandle) (e : DWord) : BufHandle :=
  if entryMode e = 1 then { h with readers := h.readers - 1 } else { h with wdone := true }

/-- Changes the handles that a packet's list names. -/
def onHandles (s : State) (p : Packet) (f : BufHandle → DWord → BufHandle) : State :=
  s.modCtx p.asid fun x =>
    { x with handles := p.handles.foldl (fun t e => modKey t (entryIndex e) fun h => f h e) x.handles }

/-- Packets that were fetched before a packet and are not complete. -/
def earlier (s : State) (k : Nat) (f : Packet → Bool) : Bool := s.pkts.any fun p => decide (p.1 < k) && p.2.counts && f p.2

/-- The lease time that a packet takes on as it starts: one that depends on packets that have completed is ordered after all that they did
(09 Table 9.5; DEDUCED, log 17). -/
def startTs (s : State) (p : Packet) : BitVec 20 := if p.handles.isEmpty && !p.barrier then 0#20 else maxPts s

/-- PACKET_START (04 R88). -/
def execPacketStart (pkt : Nat) (s : State) : Host.Outcome State Fault Refusal :=
  .next (match s.pkts.get? pkt with
    | none => s
    | some p =>
      if p.st != .fetched || (p.barrier && earlier s pkt fun q => q.ring == p.ring)
          || !(p.handles.all (entryFree (s.ctx p.asid))) then s
      else onHandles (s.modPkt pkt fun p => { p with st := .started, since := s.kalends.toNat, ts := startTs s p }) p
        fun h e => h.start e p.launch)

/-- Acts for a packet that has started, is of a kind, and does not wait for firmware. -/
def actOn (s : State) (k kind : Nat) (f : Packet → List DWord → State) : State :=
  match s.pkts.get? k with
  | none => s
  | some p =>
    if p.kind = kind && p.st == .started && !p.waiting then f p (wordsOf (p.body.length / 8) p.body) else s

/-- The end of a packet's action, with its status. -/
def endPkt (s : State) (k status : Nat) : State := s.modPkt k fun p => { p with st := .ended status, fault := none, got := [] }

/-- An access of a packet has stopped: it waits, or the packet ends with the cause (04 R453). -/
def stopPkt (s : State) (k kind : Nat) : PStop → State
  | .fault c va => cpSuspend s k c kind va
  | .bad c _ => endPkt s k c
  | .waits => s

/-! ### Memory packets (04 R89; 22 R442) -/

/-- Ranges of a packet's entries that a condition selects. -/
def entryRanges (s : State) (p : Packet) (f : DWord → Bool) : List (Nat × Nat) :=
  (p.handles.filter f).flatMap fun e => match (s.ctx p.asid).handles.get? (entryIndex e) with
    | some h => physRanges s p.asid h.base.toNat (h.base.toNat + h.length)
    | none => []

/-- Resident L2 lines of ranges. -/
def l2Lines (s : State) (rs : List (Nat × Nat)) : List Nat := (s.l2.map (·.1)).filter fun a => rs.any (lineIn a)

/-- Merges the commutative-update lines of ranges, then writes dirty L2 lines back (04 Table 4.8). -/
def writeBack (s : State) (rs : List (Nat × Nat)) : State :=
  let s := (l2Lines s rs).foldl mergeLine s
  (l2Lines s rs).foldl cleanLine s

/-- Invalidates an L2 line; one that still gathers commutative updates stays, with what HBM holds. -/
def invalidateLine (s : State) (a : Nat) : State :=
  match s.l2.get? a with
  | none => s
  | some h =>
    if h.cu then { s with l2 := s.l2.put a { h with data := hbmLine s.mem a, dirty := false } }
    else
      let sl := homeSlice a
      { s with l2 := s.l2.del a, mts := s.mts.put sl (tsMax (s.mts.getD sl 0#20) h.rts) }

/-- WRITE_MEMORY: dirty L2 lines of the write entries, those of read-write entries among them (DESIGN CHOICE, log 66), go back first; the bytes reach HBM directly; the entries' L2 lines are
invalid afterwards (04 Table 4.8, R453). -/
def execWriteMemory (pkt : Nat) (s : State) : Host.Outcome State Fault Refusal :=
  .next (actOn s pkt 3 fun p ws =>
    let va := pf ws 0 0 56
    let bs := (p.body.drop 16).take (pf ws 8 0 13)
    let rs := entryRanges s p fun e => entryMode e != 1
    let s := (l2Lines s rs).foldl cleanLine s
    let (n, e, s) := cpWrite pkt p true (bs.length + 1) (va + p.moved) (bs.drop p.moved) 0 s
    let s := s.modPkt pkt fun p => { p with moved := p.moved + n }
    match e with
    | some e => stopPkt s pkt 5 e
    | none => endPkt ((l2Lines s rs).foldl invalidateLine s) pkt 0)

/-- A read reply (16 R295): packet sequence number, byte offset, bytes. -/
def readReply (s : State) (p : Packet) (off : Nat) (bs : List Byte) : State :=
  sendDatagram s 3 (toBytes 8 p.pseq.toNat ++ toBytes 8 off ++ toBytes 16 0 ++ bs)

/-- Sends the replies of a read packet, from a byte offset on; `fuel` bounds their number. -/
def readReplies (k : Nat) (p : Packet) (va n : Nat) : Nat → Nat → State → Option PStop × State
  | 0, _, s => (none, s)
  | f + 1, off, s =>
    if n ≤ off then (none, s)
    else
      let m := if 8192 < n - off then 8192 else n - off
      match cpRead k p true (m + 1) (va + off) m [] s with
      | (.error e, s) => (some e, s)
      | (.ok bs, s) =>
        readReplies k p va n f (off + m) ((readReply s p off bs).modPkt k fun p => { p with moved := off + m })

/-- READ_MEMORY: the read entries' lines, those of read-write entries among them (DESIGN CHOICE, log 66), are written back first; the bytes come from HBM directly (04 Table 4.8, R453). -/
def execReadMemory (pkt : Nat) (s : State) : Host.Outcome State Fault Refusal :=
  .next (actOn s pkt 4 fun p ws =>
    let s := writeBack s (entryRanges s p fun e => entryMode e != 2)
    match readReplies pkt p (pf ws 0 0 56) (pf ws 8 0 25) 2049 p.moved s with
    | (some e, s) => stopPkt s pkt 4 e
    | (none, s) => endPkt s pkt 0)

/-! ### Fence and signal (04 R86) -/

/-- A fence stops its ring: no completion record, and the packet is gone (04 R86, R453). -/
def fenceStop (s : State) (k : Nat) (p : Packet) (cause : Nat) : State :=
  let s := onHandles { s with pkts := s.pkts.del k } p BufHandle.finish
  match s.rings.get? p.ring with
  | some d => stopRing s p.ring d p.pseq cause p.launch 0
  | none => s

/-- FENCE_PACKET: the fence completes once its condition holds (04 R86). -/
def execFencePacket (pkt : Nat) (s : State) : Host.Outcome State Fault Refusal :=
  .next (actOn s pkt 5 fun p ws =>
    match pf ws 0 0 2 with
    | 0 => if earlier s pkt fun q => q.ring == p.ring then s else endPkt s pkt 0
    | 1 => if earlier s pkt fun q => q.asid == p.asid then s else endPkt s pkt 0
    | _ =>
      let va := pf ws 8 0 64
      if va % 8 ≠ 0 then fenceStop s pkt p 0x081
      else match cpBytes s pkt p va 8 with
        | (.error (.bad c _), s) => fenceStop s pkt p c
        | (.error e, s) => stopPkt s pkt 4 e
        | (.ok bs, s) =>
          if pf ws 16 0 64 ≤ ofBytes bs then endPkt s pkt 0 else s.modPkt pkt fun p => { p with got := [] })

/-- FENCE_TIMEOUT (04 R86). -/
def execFenceTimeout (pkt : Nat) (s : State) : Host.Outcome State Fault Refusal :=
  .next (match s.pkts.get? pkt with
    | none => s
    | some p =>
      let ws := wordsOf (p.body.length / 8) p.body
      let us := pf ws 24 0 32
      if p.kind = 5 && p.st == .started && pf ws 0 0 2 == 2 && us != 0 && decide (1000 * us ≤ s.passed p.since) then
        fenceStop s pkt p 0x1E8
      else s)

/-- SIGNAL: a write of memory, or an add to a counter, as a release at system scope (04 R86). -/
def execSignal (pkt : Nat) (s : State) : Host.Outcome State Fault Refusal :=
  .next (actOn s pkt 6 fun p ws =>
    let v := wordAt ws 2
    if pf ws 0 0 1 = 1 then
      let ctr := pf ws 0 16 12
      if ownsCounter s p.asid ctr then endPkt (ctrRelease s ctr v (maxPts s)) pkt 0 else endPkt s pkt 0x14A
    else
      let va := pf ws 8 0 64
      if va % 8 ≠ 0 then endPkt s pkt 0x081
      else match cpWrite pkt p false 9 va (toBytes 8 v.toNat) 0 s with
        | (_, some e, s) => stopPkt s pkt 5 e
        | (_, none, s) => endPkt s pkt 0)

/-! ### Subcommands on rings, handles and contexts (04 R84, Table 4.6) -/

/-- Acts for a context-control packet whose condition still holds; otherwise its ring stops (04 R83, R84). -/
def control (s : State) (k sub : Nat) (f : Packet → List DWord → State) : State :=
  actOn s k 9 fun p ws =>
    if pf ws 0 0 8 ≠ sub then s
    else
      let bad := match s.rings.get? p.ring with
        | some d => (firstBad (ctlChecks s p.ring d (List.replicate 4 0#64 ++ ws))).map fun o => (d, o)
        | none => none
      match bad with
      | some (d, o) =>
        stopRing (onHandles { s with pkts := s.pkts.del k } p BufHandle.finish) p.ring d p.pseq 0x1E4 p.launch o
      | none => f p ws

/-- CREATE_RING. -/
def execCreateRing (pkt : Nat) (s : State) : Host.Outcome State Fault Refusal :=
  .next (control s pkt 1 fun _ ws =>
    let d : Ring :=
      { base := BitVec.ofNat 64 (pf ws 0x10 0 52), lsize := pf ws 0x10 52 4, prio := pf ws 0x10 56 3, running := true, wptr := 0
        rptr := 0, erec := BitVec.ofNat 64 (pf ws 0x20 0 56), nseq := 0, asid := pf ws 0x30 0 10, drops := 0 }
    endPkt { s with rings := s.rings.put (pf ws 8 0 10) d } pkt 0)

/-- DESTROY_RING. -/
def execDestroyRing (pkt : Nat) (s : State) : Host.Outcome State Fault Refusal :=
  .next (control s pkt 2 fun _ ws => endPkt { s with rings := s.rings.del (pf ws 8 0 10) } pkt 0)

/-- RESTART_RING. -/
def execRestartRing (pkt : Nat) (s : State) : Host.Outcome State Fault Refusal :=
  .next (control s pkt 3 fun _ ws =>
    endPkt { s with rings := modKey s.rings (pf ws 8 0 10) fun d =>
      { d with rptr := BitVec.ofNat 32 (pf ws 0x10 0 32), running := true } } pkt 0)

/-- The descriptor of Table 4.5. -/
def Ring.image (d : Ring) : List Byte :=
  toBytes 8 (d.base.toNat % 2 ^ 52 + d.lsize * 2 ^ 52 + d.prio * 2 ^ 56 + (if d.running then 1 else 2) * 2 ^ 60)
    ++ toBytes 8 (d.wptr.toNat + d.rptr.toNat * 2 ^ 32) ++ toBytes 8 d.erec.toNat ++ toBytes 8 d.nseq.toNat
    ++ toBytes 8 (d.asid + d.drops.toNat * 2 ^ 16) ++ toBytes 8 0

/-- QUERY_RING. -/
def execQueryRing (pkt : Nat) (s : State) : Host.Outcome State Fault Refusal :=
  .next (control s pkt 4 fun p ws =>
    match s.rings.get? (pf ws 8 0 10) with
    | none => s
    | some d => match cpWrite pkt p false 49 (pf ws 0x10 0 56) d.image 0 s with
      | (_, some e, s) => stopPkt s pkt 5 e
      | (_, none, s) => endPkt s pkt 0)

/-- REGISTER_HANDLE. -/
def execRegisterHandle (pkt : Nat) (s : State) : Host.Outcome State Fault Refusal :=
  .next (control s pkt 5 fun p ws =>
    let h : BufHandle :=
      { base := BitVec.ofNat 64 (pf ws 0x10 0 56), length := pf ws 0x18 0 48, writer := 0, wvalid := false, wdone := false, readers := 0 }
    endPkt (s.modCtx p.asid fun x => { x with handles := x.handles.put (pf ws 8 0 16) h }) pkt 0)

/-- UNREGISTER_HANDLE. -/
def execUnregisterHandle (pkt : Nat) (s : State) : Host.Outcome State Fault Refusal :=
  .next (control s pkt 6 fun p ws =>
    endPkt (s.modCtx p.asid fun x => { x with handles := x.handles.del (pf ws 8 0 16) }) pkt 0)

/-- SET_RENDEZVOUS_TIMEOUT: later instances and leases use the new values (04 R84). -/
def execSetRendezvousTimeout (pkt : Nat) (s : State) : Host.Outcome State Fault Refusal :=
  .next (control s pkt 9 fun _ ws =>
    let t := pf ws 8 0 32
    let l := pf ws 8 32 8
    endPkt (s.modCtx (pf ws 0x10 0 10) fun x =>
      { x with timeout := if t = 0 then 2 ^ 24 else t, lease := if l = 0 then 10 else l }) pkt 0)

/-! ### Completion (04 R78, R88) -/

/-- The end of a packet: its write-backs, its record as a release at system scope, its handles, its notification. -/
def completePkt (s : State) (k : Nat) (p : Packet) (status : Nat) : State :=
  if p.waiting || engRemote s cpCore k then s
  else
    let s := writeBack s (entryRanges s p fun e => bit e 18)
    let bs := recordBytes s p.pseq status p.downgrade p.ring p.launch p.offset
    let (done, s) := if p.crec = 0#64 then (true, s) else cpRecord s k p p.crec.toNat bs
    if !done then s
    else
      let s := onHandles s p BufHandle.finish
      let s := if p.notify then sendDatagram s 2 bs else s
      { s with pkts := s.pkts.del k, grids := s.grids.filter fun g => !(g.2.pkt == k && g.2.alm.isNone && g.2.complete) }

/-- PACKET_COMPLETE (04 R78). -/
def execPacketComplete (pkt : Nat) (s : State) : Host.Outcome State Fault Refusal :=
  .next (match s.pkts.get? pkt with
    | some p => match p.st with
      | .ended status => completePkt s pkt p status
      | _ => s
    | none => s)

end Sys2Proof.Machine
end

