-- ==== Sys2Proof/Machine/Holiday.lean ====
section
/-! DEFINITION. Chunks of transfers by number, and the holiday of a collective at one device: what it still owes of the present
step, as a member and as the initiator (13 R255, R258 to R260). -/

namespace Sys2Proof.Machine

open Sys2Proof

/-! ### Chunks and their numbers (13 R255) -/

/-- Chunks of a transfer for each destination. -/
def chunkCount (z : Shape) (q : XferExt) : Nat := (z.bytes + q.chunk - 1) / q.chunk

/-- Bytes of chunk `n`. -/
def chunkBytes (z : Shape) (q : XferExt) (n : Nat) : Nat := min q.chunk (z.bytes - n * q.chunk)

/-- Number of chunk `n`. -/
def XferExt.number (q : XferExt) (n : Nat) : Nat := (q.cbase + n) % 2 ^ 32

/-- A chunk number lies below another, modulo 2^32 over a window of 2^31. -/
def chunkBefore (a b : Nat) : Bool := a != b && decide ((b + 2 ^ 32 - a) % 2 ^ 32 < 2 ^ 31)

/-- The chunks of a transfer: destinations ascending, chunks ascending. -/
def allChunks (s : State) (op : OpEntry) : List (Nat × Nat) :=
  let z := shapeOf op.record
  let q := xferOf op.record
  (q.dests s.rank).flatMap fun t => (List.range (chunkCount z q)).map fun n => (t, n)

/-! ### The transfers of a collective -/

/-- Every operation of the device, with core and entry. -/
def allOps (s : State) : List (Nat × Nat × OpEntry) :=
  (s.cores.flatMap fun (c : Nat × Core) => c.2.ops.map fun o => (c.1, o.1, o.2))
  ++ s.vigils.filterMap fun v => v.2.op.map fun o => (ioCore, v.1, o)

/-- The transfers of a collective that run here. -/
def collOps (s : State) (coll : Nat) : List OpEntry :=
  ((allOps s).filter fun o =>
    o.2.2.kind == .xfer && o.2.2.accepted && !o.2.2.complete && (xferOf o.2.2.record).coll == coll).map (·.2.2)

/-- Every chunk of an operation that is numbered below N has been acknowledged. -/
def belowDone (s : State) (op : OpEntry) (n : Nat) : Bool :=
  let q := xferOf op.record
  (allChunks s op).all fun p => !chunkBefore (q.number p.2) n || op.acked.contains p

/-- The larger of two chunk numbers, where they are given. -/
def chunkMax : Option Nat → Option Nat → Option Nat
  | some a, some b => some (if chunkBefore a b then b else a)
  | some a, none => some a
  | none, b => b

/-- The highest next-to-start chunk number among the operations of a collective, over their destinations; none if there is no
operation (13 Table 13.10). -/
def nextToStart (s : State) (coll : Nat) : Option Nat :=
  (collOps s coll).foldl (fun r op =>
    let q := xferOf op.record
    (q.dests s.rank).foldl (fun r t => chunkMax r (some (q.number (op.sent.filter fun p => p.1 == t).length))) r) none

/-! ### Steps -/

/-- Ranks of a collective. -/
def CollGroup.ranks (g : CollGroup) : List Nat := (List.range 1024).filter fun k => g.members.getLsbD k

/-- The valid entry of a collective. -/
def collGroup (s : State) (coll : Nat) : Option CollGroup :=
  (s.groups.find? fun g => g.2.valid && g.2.coll == coll).map (·.2)

/-- Changes a holiday. -/
def modHoliday (s : State) (coll : Nat) (f : Holiday → Holiday) : State := { s with holidays := modKey s.holidays coll f }

/-- Sends a step of a holiday to every other member: 1 PAUSE, 2 STOP, 3 HOLD, 5 RESUME. -/
def tellMembers (s : State) (coll stepNo : Nat) (chunk : Option Nat) : State :=
  match s.holidays.get? coll, collGroup s coll with
  | some h, some g => (g.ranks.filter (· != s.rank)).foldl (fun s r => s.send (.holiday r coll h.hseq stepNo chunk)) s
  | _, _ => s

/-- A block of the context's gangs is resident. -/
def gangResident (s : State) (asid : Nat) : Bool := s.blocks.any fun b => b.2.asid == asid && decide (1 < b.2.gsize)

/-- The member has done what a step asks of it: its reply to PAUSE is due at once; to STOP when every chunk below N has been
acknowledged; to HOLD when every gang of the context has been saved (13 Table 13.10). -/
def memberDone (s : State) (coll : Nat) (h : Holiday) : Bool :=
  match h.stepNo with
  | 1 => true
  | 2 => (match h.chunk with
    | some n => (collOps s coll).all fun op => belowDone s op n
    | none => true)
  | _ => !gangResident s h.asid

/-- A member pre-empts every gang of the context (13 Table 13.10; 04 R95). -/
def holdGangs (s : State) (asid : Nat) : State := preempt s fun _ b => b.asid == asid && decide (1 < b.gsize)

/-- A device enters a step: it owes an answer. -/
def enterStep (s : State) (coll stepNo : Nat) (waiting : List Nat) (chunk : Option Nat) : State :=
  let s := modHoliday s coll fun h => { h with stepNo := stepNo, waiting := waiting, chunk := chunk, since := s.kalends.toNat }
  match s.holidays.get? coll with
  | some h => if stepNo = 3 then holdGangs s h.asid else s
  | none => s

/-- The initiator has every answer of its step: the next one begins. The specification gives no N where every member answers
"none": that number is free. -/
def nextStep (s : State) (coll : Nat) (h : Holiday) : State :=
  match h.stepNo, collGroup s coll with
  | 1, some g =>
    let (n, t) := s.draw
    let (n, s) := match h.chunk with | some n => (n, s) | none => (n % 2 ^ 32, t)
    tellMembers (enterStep s coll 2 g.ranks (some n)) coll 2 (some n)
  | 2, some g => tellMembers (enterStep s coll 3 g.ranks h.chunk) coll 3 none
  | 3, some _ => modHoliday s coll fun h => { h with stepNo := 4, since := s.kalends.toNat }
  | _, _ => s

/-- An answer to the present step of a holiday that this device began: the largest number replied is kept, and after the last
answer the next step begins. -/
def takeAnswer (s : State) (coll source : Nat) (chunk : Option Nat) : State :=
  match s.holidays.get? coll with
  | none => s
  | some h =>
    let waiting := h.waiting.filter (· != source)
    let h' := { h with waiting := waiting, chunk := if h.stepNo = 1 then chunkMax h.chunk chunk else h.chunk }
    let s := { s with holidays := s.holidays.put coll h' }
    if waiting.isEmpty then nextStep s coll h' else s

/-- This device answers the present step if it owes an answer and has done what the step asks. -/
def answerStep (s : State) (coll : Nat) : State :=
  match s.holidays.get? coll with
  | none => s
  | some h =>
    if !h.waiting.contains s.rank || !memberDone s coll h || 3 < h.stepNo then s
    else
      let chunk := if h.stepNo = 1 then nextToStart s coll else none
      if h.initiator = s.rank then takeAnswer s coll s.rank chunk
      else (modHoliday s coll fun h => { h with waiting := [] }).send (.holiday h.initiator coll h.hseq h.stepNo chunk)

/-- Answers as many steps as are due. -/
def settleHoliday (s : State) (coll : Nat) : State := answerStep (answerStep (answerStep s coll) coll) coll

/-- Answers what is due of every holiday. -/
def settleHolidays (s : State) : State := (s.holidays.map (·.1)).foldl settleHoliday s

end Sys2Proof.Machine
end

