-- ==== Sys2Proof/Machine/Network.lean ====
section
/-! DEFINITION. The network instructions, major 0x28, and what an NSEND descriptor does at its target (13 R241 to R252;
20 R382, R383; 22 R422 to R425). -/

namespace Sys2Proof.Machine

open Sys2Proof

/-- What the contract needs of a network instruction. -/
def netMeta (c : BitVec 2) (la : Option (BitVec 4)) (srcs dsts : List (BitVec 6)) (stamp : Bool) : Meta :=
  { sc := c.toNat, dist := if la.isSome then 0 else 2, la := la.map (·.toNat), srcs := srcs.map fun r => .s r.toNat,
    dsts := dsts.map fun r => .s r.toNat, stamp := stamp, handler := false, access := true }

/-! ### Counters -/

/-- The faults of a counter control word (13 R246; 22 R422). -/
def ctlFault (s : State) (asid : Nat) (v : DWord) : Option Nat :=
  if bits v 16 48 ≠ 0 ∨ 5 < bits v 13 3 then some 0x14F
  else if !ownsCounter s asid (bits v 0 12) then some 0x14A else none

/-- An update of a counter by an instruction, with its release (22 R423). -/
def ctrUpdate (s : State) (c asid : Nat) (ctl : DWord) (f : DWord → DWord) : State :=
  let k := bits ctl 0 12
  let rel := bit ctl 12
  let scope := bits ctl 13 3
  let s := if rel then releaseCore s c asid scope else s
  let s := if rel && decide (2 ≤ scope) then ctrReleaseAt s c k scope true (s.core c).pts else s
  ctrSet s k (f (s.counters.getD k 0#64))

/-- A release waits for the splits' earlier accesses that are with another device (09 R180, R192). -/
def Ix.podHeld (x : Ix) (s : State) (rel : Bool) (scope : Nat) : Bool :=
  rel && decide (1 ≤ scope) && x.members.any fun m => remotePending s x.core x.slot m x.split fun _ => true

/-- An instruction that updates a counter. -/
def ctrEffect (a b : BitVec 6) (f : DWord → DWord → DWord) (x : Ix) (s : State) : Res :=
  let ctl := x.rs s a.toNat
  if x.podHeld s (bit ctl 12) (bits ctl 13 3) then .wait .memory id
  else .done (ctrUpdate s x.core (x.asid s) ctl fun v => f v (x.rs s b.toNat))

/-- TCADD (22 R423). -/
def execTcadd (c : BitVec 2) (a b : BitVec 6) (s : State) : Host.Outcome State Fault Refusal :=
  .next (issue (.tcadd c a b) (netMeta c none [a, b] [] false) noExtra (fun x s => ctlFault s (x.asid s) (x.rs s a.toNat))
    (ctrEffect a b fun v w => v + w) s)

/-- TCSET (22 R423). -/
def execTcset (c : BitVec 2) (a b : BitVec 6) (s : State) : Host.Outcome State Fault Refusal :=
  .next (issue (.tcset c a b) (netMeta c none [a, b] [] false) noExtra (fun x s => ctlFault s (x.asid s) (x.rs s a.toNat))
    (ctrEffect a b fun _ w => w) s)

/-- TCRD (22 R424): an acquire takes on the lease time of the counter's release updates. -/
def execTcrd (c : BitVec 2) (l : BitVec 4) (a b : BitVec 6) (s : State) : Host.Outcome State Fault Refusal :=
  .next (issue (.tcrd c l a b) (netMeta c (some l) [b] [a] false) noExtra
    (fun x s => ctlFault s (x.asid s) (x.rs s b.toNat))
    (fun x s =>
      let ctl := x.rs s b.toNat
      let k := bits ctl 0 12
      let t := x.ws s a.toNat (s.counters.getD k 0#64)
      .done (if bit ctl 12 && decide (2 ≤ bits ctl 13 3) then raisePts t x.core (counterTs s x.core k) else t)) s)

/-! ### TCARM -/

/-- A translation fault of an instruction that no log entry holds: the record goes to firmware, the lead waits, and the
instruction issues again after service (10 R201; 22 R425). -/
def leadFault (x : Ix) (cause kind va : Nat) (s : State) : State :=
  let s := if x.sc ≤ 1 then s else x.members.foldl (fun s m =>
    s.modSplit x.core x.slot m x.split fun q => { q with rwait := false }) s
  noLogFault s { core := x.core, slot := x.slot, warp := x.lead, split := x.split } cause kind va 0#64 0#64 x.pc

/-- The faults of TCARM's operand words (13 R246; 22 R422, R425). -/
def armFault (s : State) (asid : Nat) (base ctl : DWord) : Option Nat :=
  let n := bits ctl 16 17
  if bits base 56 8 ≠ 0 ∨ bits ctl 33 31 ≠ 0 ∨ bits ctl 14 2 ≠ 0 ∨ bits base 0 7 ≠ 0
      ∨ (!bit ctl 13 ∧ (n % 128 ≠ 0 ∨ n < 128 ∨ 65536 < n)) then some 0x14F
  else if !ownsCounter s asid (bits ctl 0 12) then some 0x14A
  else
    let lo := inTriple (s.ctx asid) base.toNat
    if !bit ctl 13 && lo != inTriple (s.ctx asid) (base.toNat + n - 1) then some 0x14F else none

/-- Page size of a translated address outside the heap triple, log2: that of the TLB entry that holds it. -/
def pageLg (s : State) (c asid va : Nat) : Nat :=
  match tlbFind (s.core c).dtlb asid va with
  | some e => e.lg
  | none => 16

/-- Disarms: the lowest-numbered entry of the context with the base goes (22 R425). -/
def disarm (s : State) (asid va : Nat) : State :=
  match findIdx (fun e : Arm => e.asid == asid && e.va == va) s.arms with
  | some (k, _) => { s with arms := s.arms.eraseIdx k }
  | none => s

/-- The range of a TCARM is translated once: the physical base and the page's size (0 in the heap triple), or the cause that a range or
a table refuses it with (13 R244). A dead page has its frame all the same. -/
def armRange (t : State) (core asid va n : Nat) (p : Phys) : Except Nat (Nat × Nat) :=
  let triple := inTriple (t.ctx asid) va
  let lg := pageLg t core asid va
  let frame : Option Nat := match p.at_ with
    | .hbm pa => some pa
    | .zero => (tlbFind (t.core core).dtlb asid va).map fun e => leafPa e.pte e.lg va
    | _ => none
  if !triple && decide (2 ^ lg < va % 2 ^ lg + n) then .error 0x14F
  else match frame with
    | none => .error 0x14F
    | some pa => if 256 ≤ t.arms.length then .error 0x14D else .ok (pa, if triple then 0 else lg)

/-- The issue checks of a TCARM (17 Table 17.8 row 4): its operand words, then the range that it translates and the table. -/
def armCheck (a b : BitVec 6) (x : Ix) (s : State) : Option Nat :=
  let asid := x.asid s
  let va := (x.rs s a.toNat).toNat
  let ctl := x.rs s b.toNat
  (armFault s asid (x.rs s a.toNat) ctl).or <|
    if bit ctl 13 then none
    else match translate s x.core asid va .load with
      | (.error _, _) => none
      | (.ok p, t) => match armRange t x.core asid va (bits ctl 16 17) p with
        | .error c => some c
        | .ok _ => none

/-- TCARM's effect (13 R244; 22 R425). -/
def armEffect (a b : BitVec 6) (x : Ix) (s : State) : Res :=
  let asid := x.asid s
  let va := (x.rs s a.toNat).toNat
  let ctl := x.rs s b.toNat
  let n := bits ctl 16 17
  if bit ctl 13 then .done (disarm s asid va)
  else match translate s x.core asid va .load with
    | (.error cause, t) =>
      if inTriple (s.ctx asid) va then .trap { cause := cause, va := va } t
      else .wait .faultService fun s => leadFault x cause 0 va (translate s x.core asid va .load).2
    | (.ok p, t) => match armRange t x.core asid va n p with
      | .error c => .trap { cause := c } t
      | .ok (pa, lg) =>
        .done { t with arms := t.arms ++ [{ asid := asid, ctr := bits ctl 0 12, mode := bit ctl 12, va := va, pa := pa,
                                            len := n, lg := lg }] }

/-- TCARM (22 R425). -/
def execTcarm (c : BitVec 2) (a b : BitVec 6) (s : State) : Host.Outcome State Fault Refusal :=
  .next (issue (.tcarm c a b) (netMeta c none [a, b] [] false) noExtra (armCheck a b) (armEffect a b) s)

/-! ### Reading a record at issue (13 R246) -/

/-- The faults of a record or descriptor address: reserved bits or another space, then the alignment. -/
def netAddrFault (align : Nat) (v : DWord) : Option Nat :=
  if 1 < bits v 56 2 ∨ bits v 58 6 ≠ 0 then some 0x14F else if bits v 0 56 % align ≠ 0 then some 0x081 else none

/-- What reading a record comes to. -/
inductive NetRead where
  /-- its 64-bit words -/
  | words (ws : List DWord) (s : State)
  /-- a translation fault, which firmware serves -/
  | logged (cause va : Nat)
  /-- a fault that traps -/
  | bad (cause va : Nat)

/-- Reads `n` 64-bit words as a one-lane load of the lead. -/
def netRead (x : Ix) (s : State) (b : Block) (sp a : Nat) : Nat → List DWord → NetRead
  | 0, acc => .words acc.reverse s
  | n + 1, acc =>
    match lanePlace s x.core b { acc := .load, n := 8, w := 2, sp := sp, signed := false, aop := 0 } [] a with
    | (.at_ p, t) =>
      let (v, t) := loadAt t x.core b.asid 8 p .relaxed
      netRead x t b sp (a + 8) n (BitVec.ofNat 64 v :: acc)
    | (.logged cause, _) => .logged cause a
    | (.bad cause, _) => .bad cause a

/-- The issue check of a record that can be read (17 Table 17.8 row 4). While lanes of the split are held in the operand log the
instruction does not issue, and the record is not read. -/
def recordCheck (x : Ix) (s : State) (v : DWord) (n : Nat) (f : State → List DWord → Option Nat) : Option Nat :=
  match x.block? s, s.split? x.core x.slot x.lead x.split with
  | some b, some q =>
    if logHeld q then none
    else match netRead x s b (bits v 56 2) (bits v 0 56) n [] with
      | .words ws t => f t ws
      | _ => none
  | _, _ => none

/-- Runs an effect on the record that a scalar of the lead names. -/
def withRecord (x : Ix) (s : State) (v : DWord) (n : Nat) (k : List DWord → State → Res) : Res :=
  match x.block? s with
  | none => .done s
  | some b => match netRead x s b (bits v 56 2) (bits v 0 56) n [] with
    | .words ws t => k ws t
    | .logged cause va => .wait .faultService (leadFault x cause 0 va)
    | .bad cause va => .trap { cause := cause, va := va } s

/-! ### NPOST (13 R247, R250) -/

/-- The context owns a vigil slot (13 R241). -/
def ownsSlot (s : State) (asid k : Nat) : Bool :=
  match s.vigOwner.get? k with
  | some o => o.valid && o.asid == asid
  | none => false

/-- A vigil record breaks Table 13.5 (13 R247). -/
def vigilMalformed (ws : List DWord) : Bool :=
  let op := recField ws 0 12 4
  let arg := recField ws 3 0 56
  let body (i : Nat) : Bool := wordAt ws i != 0#64
  recField ws 0 34 14 != 0 || decide (3 < op) || decide (5 < recField ws 0 31 3) || recField ws 3 56 8 != 0
    || (match op with
        | 0 => arg % 128 != 0 || [4, 5, 6, 7].any body
        | 1 => arg != 0
        | 2 => decide (2 ^ 12 ≤ arg) || [5, 6, 7].any body
        | _ => decide (2 ^ 14 ≤ arg) || [4, 5, 6, 7].any body)

/-- The faults of a vigil record: its form, its counters, its target slot (13 R247). -/
def vigilFault (s : State) (asid : Nat) (ws : List DWord) : Option Nat :=
  let op := recField ws 0 12 4
  let ctrs := [recField ws 0 0 12] ++ (if op = 2 then [recField ws 3 0 12] else [])
    ++ (if recField ws 0 28 1 = 1 then [recField ws 0 16 12] else [])
  if vigilMalformed ws then some 0x14F
  else if !ctrs.all fun k => ownsCounter s asid k then some 0x14A
  else if op = 3 ∧ !ownsSlot s asid (recField ws 3 0 14) then some 0x14C
  else none

/-- The faults of NPOST's operand words: the slot control, the slot's owner, and, to post, the record's address. -/
def postFault (s : State) (asid : Nat) (addr ctl : DWord) : Option Nat :=
  if bits ctl 16 48 ≠ 0 then some 0x14F
  else if !ownsSlot s asid (bits ctl 0 14) then some 0x14C
  else if bit ctl 15 then none
  else netAddrFault 64 addr

/-- Cancels a vigil that is parked or armed (13 R250). -/
def cancelVigil (s : State) (k : Nat) : State :=
  match s.vigils.get? k with
  | some v => if v.st == .parked || v.st == .armed then { s with vigils := s.vigils.del k } else s
  | none => s

/-- Puts a vigil into its slot; one that is armed is evaluated at once (13 R250, R251). -/
def postVigil (s : State) (k asid : Nat) (ws : List DWord) (parked : Bool) : State :=
  let v : Vigil := { words := ws, st := if parked then .parked else .armed, asid := asid, ended := none, op := none, fireTs := 0 }
  let s := { s with vigils := s.vigils.put k v }
  if parked then s else evalVigils s v.ctr

/-- The checks of a record that NPOST posts: the record, then the slot (13 R247, R250). -/
def postCheck (s : State) (asid k : Nat) (ws : List DWord) : Option Nat :=
  (vigilFault s asid ws).or (if s.vigils.has k then some 0x14E else none)

/-- NPOST (13 R247, R250; 20 R382). -/
def execNpost (c : BitVec 2) (a b : BitVec 6) (s : State) : Host.Outcome State Fault Refusal :=
  .next (issue (.npost c a b) (netMeta c none [a, b] [] false) noExtra
    (fun x s =>
      let ctl := x.rs s b.toNat
      (postFault s (x.asid s) (x.rs s a.toNat) ctl).or (if bit ctl 15 then none
        else recordCheck x s (x.rs s a.toNat) 8 fun t ws => postCheck t (x.asid t) (bits ctl 0 14) ws))
    (fun x s =>
      let ctl := x.rs s b.toNat
      let k := bits ctl 0 14
      if bit ctl 15 then .done (cancelVigil s k)
      else withRecord x s (x.rs s a.toNat) 8 fun ws t =>
        match postCheck t (x.asid t) k ws with
        | some cause => .trap { cause := cause } t
        | none => .done (postVigil t k (x.asid t) ws (bit ctl 14))) s)

/-! ### NSEND (13 R248; 20 R383) -/

/-- A descriptor breaks Table 13.6 (13 R248). -/
def descMalformed (rank : Nat) (ws : List DWord) : Bool :=
  recField ws 0 28 36 != 0 || decide (5 < recField ws 0 25 3) || recField ws 2 56 8 != 0
    || (recField ws 0 24 1 == 1 && recField ws 0 0 10 != rank && decide (recField ws 0 25 3 < 4))
    || (recField ws 0 23 1 == 1 && recField ws 2 0 3 != 0)

/-- The number under which the vigil unit's writes for descriptors stand; no vigil slot is that large. -/
def nsendEntry : Nat := 2 ^ 14

/-- The acknowledgement of a descriptor: to the vigil of this device that sent it, or to its sender's device. -/
def nsendAnswer (s : State) (d : NsendIn) (status : Nat) : State :=
  match d.vslot with
  | some k => { s with vigils := modKey s.vigils k fun v => { v with ended := some status } }
  | none => if d.source = s.rank then s else s.send (.nsendDone d.source d.ptag status)

/-- Lease time with which a descriptor acts: that of its sender's accesses here. -/
def nsendTs (s : State) (d : NsendIn) (words : List DWord) : BitVec 20 :=
  if d.source = s.rank then s.ctrTs.getD (recField words 0 10 12) 0#20 else s.remTs

/-- The update of a descriptor that has been accepted and whose write is made (13 R248). -/
def nsendAdd (s : State) (d : NsendIn) (ws : List DWord) (t : BitVec 20) : State :=
  let k := recField ws 0 10 12
  let s := if recField ws 0 22 1 = 1 then
      (if recField ws 0 24 1 = 1 ∧ 3 ≤ recField ws 0 25 3 then ctrRelease s k (wordAt ws 1) t else ctrAdd s k (wordAt ws 1)) else s
  nsendAnswer s d 0

/-- A descriptor is acted on at this device: true unless its write waits for firmware (13 R248). `t` is the lease time of its
sender where that is a core of this device. -/
def nsendAct (s : State) (d : NsendIn) (t : BitVec 20) : Bool × State :=
  let ws := wordsOf 4 d.desc
  let k := recField ws 0 10 12
  match s.ctrOwner.get? k with
  | none => (true, nsendAnswer (hostEvent s none 0x151 k 0) d 0x151)
  | some o =>
    if !o.valid || (s.ctx o.asid).ptag.toNat != d.ptag || o.ptag.toNat != d.ptag then
      (true, nsendAnswer (hostEvent s none 0x151 k 0) d 0x151)
    else if recField ws 0 23 1 = 0 then (true, nsendAdd s d ws t)
    else
      let a := recField ws 2 0 56
      let op := OpEntry.fresh .xfer o.asid 0#64 0#64 t
      match engPlace s ioCore op 0 8 a .engWrite with
      | (.logged cause, s) =>
        (false, queueRecord s o.asid (engineWords s ioCore op cause 5 a) (.nsend d.key))
      | (.bad cause, s) => (true, nsendAnswer (hostEvent s (some o.asid) cause k 0) d cause)
      | (.at_ p, s) =>
        match engWriteCause s false o.asid 8 p.at_ with
        | some 0x095 => (false, queueRecord s o.asid (engineWords s ioCore op 0x095 5 a) (.nsend d.key))
        | some cause => (true, nsendAnswer (hostEvent s (some o.asid) cause k 0) d cause)
        | none =>
          let v := (wordAt ws 3).toNat
          match p.at_ with
          | .remote rank addr => (true, nsendAdd (engTell s ioCore nsendEntry o.asid rank addr a 8 v) d ws t)
          | _ =>
            let (t, s) := engStore s ioCore o.asid t 8 v p (recField ws 0 24 1 == 1)
            (true, nsendAdd s d ws t)

/-- A descriptor reaches this device: it is acted on after those of its source that wait (20 R383). -/
def nsendDeliver (s : State) (source ptag : Nat) (desc : List Byte) (vslot : Option Nat) (t : BitVec 20) : State :=
  let d : NsendIn := { key := s.nextTag, source := source, ptag := ptag, desc := desc, vslot := vslot }
  let s := { s with nextTag := s.nextTag + 1 }
  if s.nsendWait.any fun w => w.source == source && w.ptag == ptag then { s with nsendWait := s.nsendWait ++ [d] }
  else match nsendAct s d t with
    | (true, s) => s
    | (false, s) => { s with nsendWait := s.nsendWait ++ [d] }

/-- Acts on the waiting descriptors of a source, in order, until one waits for firmware again. -/
def nsendDrain (s : State) (source ptag : Nat) : Nat → State
  | 0 => s
  | fuel + 1 =>
    match s.nsendWait.find? fun w => w.source == source && w.ptag == ptag with
    | none => s
    | some d => match nsendAct s d (nsendTs s d (wordsOf 4 d.desc)) with
      | (true, s) => nsendDrain { s with nsendWait := s.nsendWait.filter fun w => w.key != d.key } source ptag fuel
      | (false, s) => s

/-- Sends a descriptor to its rank, this device or another. -/
def nsendSend (s : State) (asid : Nat) (ws : List DWord) (stamp : DWord) (vslot : Option Nat) (t : BitVec 20) : State :=
  let rank := recField ws 0 0 10
  let ptag := (s.ctx asid).ptag
  if rank = s.rank then nsendDeliver s s.rank ptag.toNat (bytesOf ws) vslot t
  else
    let tag := s.nextTag
    let s := { s with nextTag := tag + 1, nsendTo := s.nsendTo.put tag (asid, rank), nsendAck := match vslot with | some k => s.nsendAck.put tag k | none => s.nsendAck }
    let s := s.modCtx asid fun x => { x with peers := if x.peers.contains rank then x.peers else x.peers ++ [rank] }
    s.send (.nsend rank tag ptag stamp (bytesOf ws))

/-- NSEND (13 R248; 20 R382, R383). -/
def execNsend (c : BitVec 2) (a : BitVec 6) (s : State) : Host.Outcome State Fault Refusal :=
  .next (issue (.nsend c a) (netMeta c none [a] [] true) noExtra
    (fun x s => (netAddrFault 32 (x.rs s a.toNat)).or
      (recordCheck x s (x.rs s a.toNat) 4 fun t ws => if descMalformed t.rank ws then some 0x14F else none))
    (fun x s => withRecord x s (x.rs s a.toNat) 4 fun ws t =>
      if descMalformed t.rank ws then .trap { cause := 0x14F } t
      else
        let rel := recField ws 0 24 1 == 1
        let scope := recField ws 0 25 3
        if x.podHeld t rel scope then .wait .memory id
        else
          let t := if rel then releaseCore t x.core (x.asid t) scope else t
          let stamp := match hintOf x.hints 4 with
            | some p => x.rs s (p % 64)
            | none => match x.warp? s x.lead with | some w => w.stamp | none => 0#64
          .done (nsendSend t (x.asid t) ws stamp none (t.core x.core).pts)) s)

/-- NSEND_ARRIVAL: a descriptor of another device reaches this one (13 R248). -/
def execNsendArrival (source ptag : Nat) (descriptor : List (BitVec 8)) (s : State) : Host.Outcome State Fault Refusal :=
  .next (if source = s.rank ∨ descriptor.length ≠ 32 then s else nsendDeliver s source ptag descriptor none s.remTs)

end Sys2Proof.Machine
end

