-- ==== Sys2Proof/Machine/Handle.lean ====
section
/-! DEFINITION. The handle and batch instructions, major 0x27 (12 R234 to R239; 18 R336; 19 R368; 21 R413; 22 R435,
R436). -/

namespace Sys2Proof.Machine

open Sys2Proof

/-- What the contract needs of a handle instruction. -/
def handleMeta (c : BitVec 2) (la : Option (BitVec 4)) (srcs dsts : List (BitVec 6)) : Meta :=
  { sc := c.toNat, dist := if la.isSome then 0 else 2, la := la.map (·.toNat), srcs := srcs.map fun r => .s r.toNat,
    dsts := dsts.map fun r => .s r.toNat, handler := false, access := true }

/-- What a handle register names. -/
inductive Named where
  /-- nothing: it behaves as complete with status 0 -/
  | empty
  /-- a handle that is complete with status 0x10B -/
  | stale
  /-- an operation -/
  | op (e : Nat) (o : OpEntry)

/-- The lead's handle (12 R235). -/
def Ix.handle (x : Ix) (s : State) (h : BitVec 4) : Named :=
  match x.warp? s x.lead with
  | none => .empty
  | some w => match w.hregs.getD h.toNat .empty with
    | .empty => .empty
    | .stale => .stale
    | .op e serial => match s.op? x.core e with
      | some o => if o.serial == serial && o.slot == x.slot then .op e o else .stale
      | none => .stale

/-- The batch number of an operation as a warp sees it: the number that covers it, or the one that the next BATCH gives: of
the observing warp where it took part, else of the issuing one (12 R238). -/
def batchOf (s : State) (c : Nat) (o : OpEntry) (m : Nat) : Nat :=
  let k := if o.openIn.contains m || o.batches.has m then m else o.warp
  match o.batches.get? k with
  | some n => n.toNat
  | none => match s.warp? c o.slot k with
    | some w => (w.batch + 1).toNat
    | none => 0

/-- The state word (12 Table 12.7). -/
def stateWord (s : State) (c : Nat) (o : OpEntry) (m : Nat) : DWord :=
  BitVec.ofNat 64 (b2n o.consumed + b2n o.complete * 2 + o.status % 512 * 4
    + b2n (o.pmask != 0#64 && o.pmask != 0xFFFFFFFFFFFFFFFF#64) * 2 ^ 11 + batchOf s c o m * 2 ^ 16)

/-- The stamp of an operation (03 R66): of its record, or the STAMP hint's. -/
def OpEntry.stamp (o : OpEntry) : DWord :=
  let ofRecord (i : Nat) : DWord := if o.record.isEmpty then o.hstamp.getD 0#64 else wordAt o.record i
  match o.kind with
  | .copy => ofRecord 3
  | .xfer => ofRecord 3
  | .gather _ => ofRecord 6
  | .matrix => ofRecord 5
  | _ => 0#64

/-- Observing an operation as an acquire: the core's lease time rises to the operation's (09 R189; 08 R164). -/
def observe (s : State) (c : Nat) (o : OpEntry) : State := raisePts s c o.ets

/-- HTEST (19 R368). Complete, and for the matrix unit operands-consumed, are acquires (09 R189, R190). -/
def execHtest (c : BitVec 2) (l h : BitVec 4) (a b : BitVec 6) (s : State) : Host.Outcome State Fault Refusal :=
  .next (issue (.htest c l h a b) (handleMeta c (some l) [] [a]) noExtra noUniform
    (fun x s =>
      let sel (x0 x1 x2 : DWord) : DWord := if b = 0#6 then x0 else if b = 1#6 then x1 else x2
      match x.handle s h with
      | .empty => .done (x.ws s a.toNat (sel 3#64 0#64 0#64))
      | .stale => .done (x.ws s a.toNat (sel (BitVec.ofNat 64 (3 + 0x10B * 4)) 0#64 0#64))
      | .op _ o =>
        let t := x.ws s a.toNat (sel (stateWord s x.core o x.lead) o.pmask o.stamp)
        .done (if b = 0#6 && (o.complete || (o.consumed && o.kind == .matrix)) then observe t x.core o else t)) s)

/-- Cancels an operation: status 0x108, no release, no increment; a halt that waits is given up; an epilogue that is writing ends first
(12 R237; 19 R366; 11 R223). -/
def cancelOp (s : State) (c e : Nat) (o : OpEntry) : State :=
  if o.complete then s
  else
    let s := match o.kind with
      | .halt => { s with cores := s.cores.map fun (k : Nat × Core) =>
          (k.1, { k.2 with haltOps := k.2.haltOps.filter (· != (c, e)) }) }
      | _ => s
    if o.epOut then s.modOp c e fun p => { p with cancelled := true } else opDone s c e 0x108

/-- HCANCEL (12 R237; 19 R368). -/
def execHcancel (c : BitVec 2) (h : BitVec 4) (s : State) : Host.Outcome State Fault Refusal :=
  .next (issue (.hcancel c h) (handleMeta c none [] []) noExtra noUniform
    (fun x s => match x.handle s h with
      | .op e o => .done (cancelOp s x.core e o)
      | _ => .done s) s)

/-- The token of an operation (12 R236). -/
def tokenOf (slot e : Nat) (serial : BitVec 32) : DWord := BitVec.ofNat 64 (e + serial.toNat * 2 ^ 8 + slot * 2 ^ 40)

/-- HMOVS (12 R236). A stale handle names no entry, and the specification states no token for it: the word is free
(log 15). -/
def execHmovs (c : BitVec 2) (l h : BitVec 4) (a : BitVec 6) (s : State) : Host.Outcome State Fault Refusal :=
  .next (issue (.hmovs c l h a) (handleMeta c (some l) [] [a]) noExtra noUniform
    (fun x s => match x.handle s h with
      | .op e o => .done (x.ws s a.toNat (tokenOf x.slot e o.serial))
      | .empty => .done (x.ws s a.toNat 0#64)
      | .stale =>
        let (v, t) := s.draw
        .done (x.ws t a.toNat (BitVec.ofNat 64 v))) s)

/-- The handle that a token makes (12 R236). -/
def ofToken (s : State) (c slot : Nat) (t : DWord) : Handle :=
  if t = 0#64 then .empty
  else match s.op? c (bits t 0 8) with
    | some o => if o.serial.toNat == bits t 8 32 && o.slot == slot then .op (bits t 0 8) o.serial else .stale
    | none => .stale

/-- A token that SMOVH refuses (12 R236). -/
def badToken (slot : Nat) (t : DWord) : Bool := t != 0#64 && (bits t 40 7 != slot || bits t 47 17 != 0)

/-- SMOVH (12 R236; 21 R413). -/
def execSmovh (c : BitVec 2) (h : BitVec 4) (a : BitVec 6) (s : State) : Host.Outcome State Fault Refusal :=
  .next (issue (.smovh c h a) (handleMeta c none [a] []) noExtra
    (fun x s => if badToken x.slot (x.rs s a.toNat) then some 0x10A else none)
    (fun x s => .done (freeOps (giveHandle s x h.toNat (ofToken s x.core x.slot (x.rs s a.toNat))) x.core)) s)

/-- Closes a warp's open operations into its next batch number (12 R238). -/
def closeBatch (s : State) (c slot m : Nat) : State :=
  match s.warp? c slot m with
  | none => s
  | some w =>
    let n := w.batch + 1
    let s := s.modCore c fun x => { x with ops := x.ops.map fun (p : Nat × OpEntry) =>
      if p.2.slot == slot && p.2.openIn.contains m then
        (p.1, { p.2 with openIn := p.2.openIn.filter (· != m), batches := p.2.batches.put m n })
      else p }
    s.modWarp c slot m fun w => { w with batch := n }

/-- BATCH (12 R238; 18 R336). -/
def execBatch (c : BitVec 2) (l : BitVec 4) (a : BitVec 6) (s : State) : Host.Outcome State Fault Refusal :=
  .next (issue (.batch c l a) (handleMeta c (some l) [] [a]) noExtra noUniform
    (fun x s =>
      let t := x.members.foldl (fun s m => closeBatch s x.core x.slot m) s
      let n := match x.warp? t x.lead with | some w => w.batch.setWidth 64 | none => 0#64
      .done (x.ws t a.toNat n)) s)

/-- A batch number comes at or before another in the window of 2^15 (12 R239). -/
def batchCovers (n k : BitVec 16) : Bool := decide ((n - k).toNat < 2 ^ 15)

/-- The operations that WAITB on number n waits for: those of the members, closed into a batch that n covers (12 R239). -/
def batchOps (x : Ix) (s : State) (n : BitVec 16) : List OpEntry :=
  ((s.core x.core).ops.map (·.2)).filter fun o =>
    o.slot == x.slot && o.batches.any fun b => x.members.contains b.1 && batchCovers n b.2

/-- The batch is not closed yet in the lead (12 R239). -/
def notClosed (n k : BitVec 16) : Bool := n != k && decide ((n - k).toNat < 2 ^ 15)

/-- WAITB, batch form (12 R239; 22 R436). -/
def execWaitbBatch (c : BitVec 2) (a : BitVec 6) (s : State) : Host.Outcome State Fault Refusal :=
  .next (issue (.waitbBatch c a) (handleMeta c none [a] []) noExtra
    (fun x s =>
      match x.warp? s x.lead with
      | some w => if notClosed ((x.rs s a.toNat).setWidth 16) w.batch then some 0x10C else none
      | none => none)
    (fun x s =>
      let ops := batchOps x s ((x.rs s a.toNat).setWidth 16)
      if ops.any fun o => !o.complete then .wait .batch id
      else
        let t := ops.foldl (fun s o => observe s x.core o) s
        .done ((x.warps s).foldl (fun t p => raisePts t x.core p.2.ets) t)) s)

/-- WAITB, handle form (22 R436). -/
def execWaitbHandle (c : BitVec 2) (h : BitVec 4) (b : BitVec 6) (s : State) : Host.Outcome State Fault Refusal :=
  .next (issue (.waitbHandle c h b) (handleMeta c none [] []) noExtra noUniform
    (fun x s => match x.handle s h with
      | .op _ o =>
        if b = 0#6 then (if o.complete then .done (observe s x.core o) else .wait .handle id)
        else if o.consumed then .done (if o.kind == .matrix then observe s x.core o else s)
        else .wait .handle id
      | _ => .done s) s)

end Sys2Proof.Machine
end

