-- ==== Sys2Proof/Machine/Save.lean ====
section
/-! DEFINITION. The context save area: the image of a saved block, and what a restore takes from it (14 Tables 14.5 to 14.8;
06 Table 6.3; 11 Table 11.6). -/

namespace Sys2Proof.Machine

open Sys2Proof

/-! ### Building the image -/

/-- Bytes cut or filled with zeros to a length. -/
def padTo (n : Nat) (bs : List Byte) : List Byte := (bs ++ List.replicate (n - bs.length) 0#8).take n

/-- Bytes of 64-bit numbers. -/
def numBytes (ns : List Nat) : List Byte := ns.flatMap fun n => toBytes 8 n

/-- A split-table entry (06 Table 6.3). -/
def splitBytes (p : Split) : List Byte :=
  numBytes [p.lanes.toNat, p.em.toNat, p.pc.toNat % 2 ^ 56,
    b2n p.valid + p.depth * 2 + b2n p.jwait * 2 ^ 4 + b2n p.rwait * 2 ^ 5 + p.jtimer.toNat * 2 ^ 8]

/-- A stream register (14 Table 14.7 qk): pipe, almanac, side (1 consumer), bound. -/
def streamWord (q : Option Stream) : Nat :=
  match q with
  | some x => pipeIdx x.pipe + pipeAlm x.pipe * 2 ^ 7 + b2n x.consumer * 2 ^ 11 + 2 ^ 12
  | none => 0

/-- Token of a handle register as the frame holds it (12 R236). -/
def handleToken (slot : Nat) : Handle → Nat
  | .op e serial => e + serial.toNat * 2 ^ 8 + slot * 2 ^ 40
  | _ => 0

/-- Log entries of a warp, ascending. -/
def Saved.logsOf (v : Saved) (m : Nat) : List LogEntry := (v.logs.filter fun e => e.2.warp == m).map (·.2)

/-- A warp frame (14 Table 14.7). -/
def frameBytes (v : Saved) (m : Nat) (w : Warp) : List Byte :=
  let logs := v.logsOf m
  let table := match w.frozen with | some f => f.1 | none => w.splits
  let slots := (logs.zipIdx.map fun e => e.1.split * 2 ^ (3 * e.2)).sum
  padTo 0x40 (numBytes [w.live.toNat, w.helper.toNat, w.stamp.toNat,
      w.fpm.toNat + w.fpflags.toNat * 2 ^ 8 + w.batch.toNat * 2 ^ 16 + w.refills.toNat * 2 ^ 32,
      w.order.toNat + b2n w.frozen.isSome * 2 ^ 32 + b2n w.retired * 2 ^ 33, 2 ^ logs.length - 1 + slots * 2 ^ 8])
  ++ padTo 0x40 (bytesOf w.tctx)
  ++ padTo 0x80 (if w.frozen.isSome then splitBytes ((w.splits[0]?).getD Split.empty) else [])
  ++ padTo 0x100 (table.flatMap splitBytes)
  ++ padTo 0x200 (bytesOf w.sregs)
  ++ padTo 0x80 (numBytes (w.hregs.map (handleToken v.slot)))
  ++ padTo 0x80 (numBytes (w.qregs.map streamWord))
  ++ vecBytes w.item ++ vecBytes w.itemhi ++ vecBytes w.itemage ++ vecBytes w.rseed
  ++ padTo 0x800 (w.xregs.flatMap vecBytes)
  ++ padTo 0x4900 (logs.flatMap fun e => padTo 2336 e.image)
  ++ w.vregs.flatMap vecBytes

/-- State of an operation in its entry. -/
def OpEntry.saveState (op : OpEntry) : Nat :=
  if op.complete then 3 else if op.suspended then 1
  else if op.kind == .xfer && (op.accepted && !op.sent.isEmpty) then 2 else 0

/-- The next chunk of an XFER: every chunk below it has been sent and acknowledged (13 R258). -/
def OpEntry.nextChunk (op : OpEntry) : Nat := op.sent.foldl (fun n p => if n ≤ p.2 then p.2 + 1 else n) 0

/-- The operation is in a matrix resume record: accepted and not complete; any other has an engine entry. -/
def OpEntry.inRecord (op : OpEntry) : Bool := op.kind == .matrix && op.accepted && !op.complete

/-- An engine entry (14 Table 14.8). A matrix or system operation that has no resume record, and for which the table names no engine,
shows 0 (DESIGN CHOICE, log 62). -/
def engineBytes (e : Nat) (op : OpEntry) : List Byte :=
  let eng := match op.kind with | .gather _ => 1 | .xfer => 2 | _ => 0
  let batch := match op.batches.get? op.warp with | some n => n.toNat | none => 0
  padTo 0x80 (if op.saveState = 0 then [] else bytesOf op.record)
  ++ padTo 0x80 (numBytes [eng + op.saveState * 4 + op.status % 512 * 2 ^ 4 + e * 2 ^ 13 + op.serial.toNat * 2 ^ 21,
      (if op.kind == .xfer then op.nextChunk else op.next) + batch * 2 ^ 32 + b2n (!op.openIn.isEmpty) * 2 ^ 48 + b2n op.consumed * 2 ^ 49, op.pmask.toNat,
      op.stamp.toNat,
      if op.saveState = 0 then op.raddr.toNat % 2 ^ 58 else 0])

/-- A matrix resume record (11 Table 11.6): the next index vector, and with an epilogue to run its tile in place of the next one. -/
def matrixBytes (op : OpEntry) : List Byte :=
  let i (k : Nat) : Nat := op.idx.getD k 0 % 2 ^ 16
  padTo 0x80 (bytesOf op.record)
  ++ padTo 0x40 (numBytes [i 0 + i 1 * 2 ^ 16 + i 2 * 2 ^ 32 + i 3 * 2 ^ 48,
      i 4 + (if op.epend then op.epCur else op.cur) * 2 ^ 16 + op.sused % 2 ^ 24 * 2 ^ 20 + b2n op.epend * 2 ^ 44, streamWord op.pq])

/-- The open instance that the header shows: the block's, or that of the lowest-numbered set. -/
def openInst (b : Block) : Option (Nat × Nat × Inst) :=
  match b.blockInst with
  | some i => some (0, 3, i)
  | none => (b.setInst.head?).map fun p => (p.1, 2, p.2)

/-- Member warps as a mask. -/
def warpMask (ms : List Nat) : Nat := ms.foldl (fun m w => m ||| 2 ^ w) 0

/-- Slot entries of the header: reserved ones and held ones. -/
def slotBytes (b : Block) (ops : List (Nat × OpEntry)) : List Byte :=
  (blockNumbers b ops).flatMap fun q =>
    padTo 16 (numBytes [q.2.1 % 2 ^ 48 + pipeIdx q.1 * 2 ^ 48 + pipeAlm q.1 * 2 ^ 55 + b2n q.2.2 * 2 ^ 59])

/-- The block header (14 Table 14.6), padded. -/
def saveHeader (s : State) (v : Saved) : List Byte :=
  let b := v.block
  let k := b.kernel
  let g := s.grids.get? b.grid
  let stage := match g with | some x => x.stage | none => 0
  let alm := g.bind (·.alm)
  let inst : Nat × Nat × Nat × Nat × Nat := match openInst b with
    | some (n, sc, i) => (i.elapsed, warpMask i.arrived, i.pc.toNat, n, sc)
    | none => (0, 0, 0, 0, 0)
  let set (n : Nat) : Nat := warpMask (b.sets.getD n [])
  let ops : List (Nat × OpEntry) := v.ops
  let mats := v.mats.filterMap fun e => (v.ops.get? e).bind fun o => if o.inRecord then some o else none
  let engs := ops.filter fun p => !p.2.inRecord
  padTo 0x100 (numBytes [1 + (b.warps.length - 1) * 2 ^ 16 + k.t * 2 ^ 21 + k.d * 2 ^ 32 + k.i * 2 ^ 40 + v.slot * 2 ^ 48,
      k.addr.toNat, b.scrSize, b.number.toNat + b.gang.toNat * 2 ^ 32,
      b.gpos + (b.gsize - 1) * 2 ^ 6 + stage * 2 ^ 12 + alm.getD 0 * 2 ^ 17 + b2n alm.isNone * 2 ^ 21,
      set 0 + set 1 * 2 ^ 32, set 2 + set 3 * 2 ^ 32, set 4 + set 5 * 2 ^ 32, set 6 + set 7 * 2 ^ 32,
      inst.1 % 2 ^ 32 + inst.2.1 * 2 ^ 32, inst.2.2.1 % 2 ^ 56 + inst.2.2.2.1 * 2 ^ 56 + inst.2.2.2.2 * 2 ^ 59,
      b.gcountB.toNat + b.gcountG.toNat * 2 ^ 32,
      (blockNumbers b ops).length + engs.length * 2 ^ 8 + mats.length * 2 ^ 17])
  ++ padTo 0x300 (mats.flatMap matrixBytes)
  ++ padTo 0x400 (slotBytes b ops)
  ++ padTo 0x10000 (engs.flatMap fun p => engineBytes p.1 p.2)
  ++ List.replicate 0x800 0#8

/-- The whole area (14 Table 14.5). -/
def areaBytes (s : State) (v : Saved) : List Byte :=
  let k := v.block.kernel
  saveHeader s v
  ++ Mem.readN v.tiles 0 (k.t * 0x10000)
  ++ padTo (ceilTo v.block.scrSize 4096) (Mem.readN v.scratch 0 v.block.scrSize)
  ++ v.block.warps.zipIdx.flatMap fun w => frameBytes v w.2 w.1

/-- The area as 64-bit words. -/
def areaWords (s : State) (v : Saved) : List DWord :=
  let bs := areaBytes s v
  wordsOf (bs.length / 8) bs

/-! ### Taking a block back from its image -/

/-- Words of the header. -/
def headerWords : Nat := 0x11000 / 8

/-- Words of the area of a block with `n` warps. -/
def areaLength (k : Kernel) (scr n : Nat) : Nat :=
  (0x11000 + k.t * 0x10000 + ceilTo scr 4096 + n * (0x5A00 + 256 * (k.d + k.i))) / 8

/-- A vector register in 64-bit words from word `o` on. -/
def vecAt (ws : List DWord) (o : Nat) : Vec := Vec.of fun l => BitVec.ofNat 32 (recField ws (o + l / 2) (32 * (l % 2)) 32)

/-- A split as the frame holds it, over one that keeps what the frame has no place for. -/
def splitAt (ws : List DWord) (o : Nat) (p : Split) : Split :=
  { p with
    lanes := wordAt ws o, em := wordAt ws (o + 1), pc := BitVec.ofNat 64 (recField ws (o + 2) 0 56)
    valid := recField ws (o + 3) 0 1 == 1, depth := recField ws (o + 3) 1 3, jwait := recField ws (o + 3) 4 1 == 1
    rwait := recField ws (o + 3) 5 1 == 1, jtimer := BitVec.ofNat 32 (recField ws (o + 3) 8 32) }

/-- A split table as the frame holds it. -/
def tableAt (ws : List DWord) (o : Nat) (table : List Split) : List Split :=
  table.zipIdx.map fun p => splitAt ws (o + 4 * p.2) p.1

/-- The handle that a saved token names, among the operations that are saved with the block. -/
def savedHandle (ops : Tab OpEntry) (t : DWord) : Handle :=
  if t = 0#64 then .empty
  else match ops.get? (bits t 0 8) with
    | some o => if o.serial.toNat = bits t 8 32 then .op (bits t 0 8) o.serial else .stale
    | none => .stale

/-- The stream register that a saved word names. -/
def savedStream (asid : Nat) (t : DWord) : Option Stream :=
  if bit t 12 then some { pipe := pipeKey asid (bits t 7 4) (bits t 0 7), consumer := bit t 11 } else none

/-- The split table of a warp, frozen while it is in a handler. -/
def tableOf (w : Warp) : List Split := match w.frozen with | some z => z.1 | none => w.splits

/-- A warp with the state of its frame, which begins at word 0 of `ws`. -/
def frameWarpOf (ws : List DWord) (asid : Nat) (ops : Tab OpEntry) (w : Warp) : Warp :=
  let f (i lo n : Nat) : Nat := recField ws i lo n
  { w with
    live := wordAt ws 0, helper := wordAt ws 1, stamp := wordAt ws 2
    fpm := BitVec.ofNat 8 (f 3 0 8), fpflags := BitVec.ofNat 8 (f 3 8 8), batch := BitVec.ofNat 16 (f 3 16 16)
    refills := BitVec.ofNat 32 (f 3 32 32), order := BitVec.ofNat 32 (f 4 0 32), retired := f 4 33 1 == 1
    tctx := (List.range 8).map fun i => wordAt ws (8 + i)
    splits := if f 4 32 1 = 1 then modAt w.splits 0 (splitAt ws 16) else tableAt ws 32 (tableOf w)
    frozen := if f 4 32 1 = 1 then some (tableAt ws 32 (tableOf w), match w.frozen with | some z => z.2 | none => 0) else none
    sregs := (List.range 64).map fun i => wordAt ws (64 + i)
    hregs := (List.range 16).map fun i => savedHandle ops (wordAt ws (128 + i))
    qregs := (List.range 8).map fun i => savedStream asid (wordAt ws (144 + i))
    item := vecAt ws 160, itemhi := vecAt ws 192, itemage := vecAt ws 224, rseed := vecAt ws 256
    xregs := (List.range 8).map fun i => vecAt ws (288 + 32 * i)
    vregs := (List.range w.vregs.length).map fun i => vecAt ws (0xB40 + 32 * i) }

/-- The warps of a mask. -/
def maskWarps (m : Nat) : List Nat := (List.range 32).filter fun w => m.testBit w

/-- A block with the state of the header. -/
def headerBlock (ws : List DWord) (b : Block) : Block :=
  let i (x : Inst) : Inst := { x with elapsed := recField ws 9 0 32, arrived := maskWarps (recField ws 9 32 32) }
  let b := { b with
    sets := (List.range 8).map fun n => maskWarps (recField ws (5 + n / 2) (32 * (n % 2)) 32)
    gcountB := BitVec.ofNat 32 (recField ws 11 0 32), gcountG := BitVec.ofNat 32 (recField ws 11 32 32) }
  match recField ws 10 59 2 with
  | 3 => { b with blockInst := b.blockInst.map i }
  | 2 => { b with setInst := modKey b.setInst (recField ws 10 56 3) i }
  | _ => b

/-- Cells of the words of a range, by offset. -/
def wordCells (ws : List DWord) : List Host.Cell := Mem.writeN [] 0 (bytesOf ws)

/-- An operation with the state of its engine entry, which begins at word 0 of `ws`: a queued one is accepted anew. -/
def engineAt (ws : List DWord) (o : OpEntry) : OpEntry :=
  let st := recField ws 16 2 2
  let queued := st == 0 && (o.kind == .copy || o.kind == .xfer || o.kind == .matrix || (match o.kind with | .gather _ => true | _ => false))
  { o with
    serial := BitVec.ofNat 32 (recField ws 16 21 32)
    record := if queued then [] else if o.record.isEmpty then [] else (ws.take 16).take o.record.length ++ o.record.drop 16
    raddr := if queued then BitVec.ofNat 64 (recField ws 20 0 58) else o.raddr
    accepted := o.accepted && !queued, suspended := st == 1, complete := st == 3, status := recField ws 16 4 9
    consumed := recField ws 17 49 1 == 1, next := if o.kind == .xfer then o.next else recField ws 17 0 32, pmask := wordAt ws 18
    batches := if o.batches.has o.warp then o.batches.put o.warp (BitVec.ofNat 16 (recField ws 17 32 16)) else o.batches
    hstamp := o.hstamp.map fun _ => wordAt ws 19 }

/-- The index vector before another one in the nest; the last one stands before the first. -/
def Card.retreat (z : Card) (idx : List Nat) : List Nat :=
  ((List.range 5).foldl (fun (a : List Nat × Bool) j =>
    let i := idx.getD j 0
    if a.2 then (if 0 < i then (a.1 ++ [i - 1], false) else (a.1 ++ [z.n j - 1], true)) else (a.1 ++ [i], false)) ([], true)).1

/-- The first index vector of the block of accumulation that an index vector lies in. -/
def Card.blockStart (z : Card) (idx : List Nat) : List Nat := idx.zipIdx.map fun p => if p.2 < z.elev then 0 else p.1

/-- An operation with the state of its resume record, which begins at word 0 of `ws` (11 Table 11.6): a pending epilogue is that of the
block of accumulation before the next index vector. -/
def matrixAt (ws : List DWord) (o : OpEntry) : OpEntry :=
  let card := ws.take 16
  let z := cardOf card
  let idx := (List.range 4).map (fun k => recField ws 16 (16 * k) 16) ++ [recField ws 17 0 16]
  let epend := recField ws 17 44 1 == 1
  let t := recField ws 17 16 3
  let at_ : OpEntry := { o with idx := z.retreat (z.blockStart idx), cur := t }
  let steps := (List.range 5).foldl (fun n j => n * z.n j) 1
  let sused := recField ws 17 20 24
  let need := match mxClass z.afmt with | some m => 2 * m.groups * steps | none => 0
  { o with
    record := card, idx := idx, sused := sused, epend := epend, epOut := false
    cur := if epend then z.rotate at_ else t
    epIdx := if epend then at_.idx else o.epIdx, epCur := if epend then t else o.epCur
    nestDone := (epend && idx.all (· == 0)) || (z.scaled && idx.all (· == 0) && sused == need)
    pq := savedStream o.asid (wordAt ws 18) }

/-- Operations of a saved block with the state of their entries and resume records. -/
def areaOps (ws : List DWord) (v : Saved) : Tab OpEntry :=
  let engs := (List.range (recField ws 12 8 9)).foldl (fun (t : Tab OpEntry) i =>
    let p := ws.drop (0x100 + 32 * i)
    modKey t (recField p 16 13 8) (engineAt p)) v.ops
  let mats := v.mats.filter fun e => match v.ops.get? e with | some o => o.inRecord | none => false
  (mats.take (recField ws 12 17 3)).zipIdx.foldl (fun (t : Tab OpEntry) q => modKey t q.1 (matrixAt (ws.drop (0x20 + 24 * q.2)))) engs

/-- An operand-log entry with the state of its image, which begins at word 0 of `ws` (10 Table 10.5). -/
def logAt (ws : List DWord) (split : Nat) (e : LogEntry) : LogEntry :=
  let hints := [BitVec.ofNat 32 (recField ws 0 32 32), BitVec.ofNat 32 (recField ws 1 0 32)].take (recField ws 1 32 2)
  { e with
    word := BitVec.ofNat 32 (recField ws 0 0 32), hints := hints, cause := recField ws 1 34 9, base := wordAt ws 2
    lanes := wordAt ws 3, addr := vecAt ws 4, split := split
    data := (List.range e.data.length).map fun j => vecAt ws (36 + 32 * j) }

/-- Log entries of a saved block with the state of their warps' frames; `frame` gives a warp's frame. -/
def areaLogs (frame : Nat → List DWord) (v : Saved) : List (Nat × LogEntry) :=
  v.logs.zipIdx.map fun p =>
    let e := p.1.2
    let j := ((v.logs.take p.2).filter fun q => q.2.warp == e.warp).length
    let ws := frame e.warp
    (p.1.1, if recField ws 5 j 1 = 1 then logAt (ws.drop (0x220 + 292 * j)) (recField ws 5 (8 + 3 * j) 3) e else e)

/-- The slot that the header holds in place of one that the block held when it was saved. -/
def areaSlot (ws : List DWord) (b : Block) (ops : List (Nat × OpEntry)) (q : Nat × Nat) : Nat × Nat :=
  let l := (blockNumbers b ops).map fun p => (p.1, p.2.1)
  match l.zipIdx.find? fun p => p.1 == q with
  | some p =>
    let o := 0x80 + 2 * p.2
    (pipeKey b.asid (recField ws (o + 1) 7 4) (recField ws (o + 1) 0 7), q.2 / 2 ^ 48 * 2 ^ 48 + recField ws o 0 48)
  | none => q

/-- A saved block with the state that its area holds; what the tables have no place for stays as it was saved. -/
def areaBlock (ws : List DWord) (v : Saved) : Saved :=
  let b := v.block
  let ops := areaOps ws v
  let at_ := areaSlot ws b v.ops
  let k := b.kernel
  let t0 := headerWords
  let s0 := t0 + k.t * 0x2000
  let f0 := s0 + ceilTo b.scrSize 4096 / 8
  let n := (0x5A00 + 256 * (k.d + k.i)) / 8
  let warp (i : Nat) (w : Warp) : Warp :=
    let w := frameWarpOf (ws.drop (f0 + n * i)) b.asid ops w
    { w with
      reserved := w.reserved.map at_
      pipeItems := w.pipeItems.map fun q => let p := at_ (q.1, q.2.1); (p.1, p.2, q.2.2) }
  { v with
    block := { headerBlock ws b with
      warps := b.warps.zipIdx.map fun w => warp w.2 w.1
      held := b.held.map at_ }
    ops := ops.map fun p => (p.1, match p.2.pq, p.2.eseq with
      | some q, some k => { p.2 with eseq := some (at_ (q.pipe, k)).2 }
      | _, _ => p.2)
    logs := areaLogs (fun m => ws.drop (f0 + n * m)) v
    tiles := wordCells ((ws.drop t0).take (k.t * 0x2000))
    scratch := wordCells ((ws.drop s0).take (b.scrSize / 8)) }

end Sys2Proof.Machine
end

