-- ==== Sys2Proof/Machine/EvEngine.lean ====
section
/-! DEFINITION. What the vigil unit and the collective engine do of their own accord: increments on the Return lines, firings,
the chunks of transfers (13 R243, R252, R255, R256). -/

namespace Sys2Proof.Machine

open Sys2Proof

/-! ### Increments on the Return lines -/

/-- TRIGGER_FLIT: an increment on the Return lines reaches the vigil unit (13 R243). -/
def execTriggerFlit (idx : Nat) (s : State) : Host.Outcome State Fault Refusal :=
  .next (match s.flits[idx]? with
    | some (k, n) => ctrAdd { s with flits := s.flits.eraseIdx idx } k (BitVec.ofNat 64 n)
    | none => s)

/-! ### Vigils (13 R252) -/

/-- A field of a vigil's record. -/
def Vigil.field (v : Vigil) (i lo n : Nat) : Nat := recField v.words i lo n

/-- A vigil's update of a counter. -/
def Vigil.update (v : Vigil) (s : State) (ctr : Nat) (x : DWord) (t : BitVec 20) : State :=
  if v.field 0 30 1 = 1 ∧ 3 ≤ v.field 0 31 3 then ctrRelease s ctr x t else ctrAdd s ctr x

/-- A vigil's operation has ended. -/
def endVigil (s : State) (k status : Nat) : State :=
  { s with vigils := modKey s.vigils k fun v => { v with ended := some status } }

/-- The XFER of a firing vigil: its record is read at firing (13 R252). -/
def startVigilXfer (s : State) (k : Nat) (v : Vigil) : State :=
  let op := { OpEntry.fresh .xfer v.asid (wordAt v.words 3) 0#64 v.fireTs with
    serial := BitVec.ofNat 32 s.nextTag, hstamp := some (wordAt v.words 2), vigil := some k }
  acceptXfer { s with nextTag := s.nextTag + 1, vigils := modKey s.vigils k fun v => { v with op := some op } } ioCore k

/-- The counters that a vigil names: the watched one, the target of an addition, the completion counter. -/
def Vigil.counters (v : Vigil) : List Nat :=
  v.ctr :: (if v.field 0 12 4 = 2 then [v.field 3 0 12] else []) ++ (if v.field 0 28 1 = 1 then [v.field 0 16 12] else [])

/-- A firing vigil starts its operation (13 R252); one that names a counter its context does not own ends with 0x14A (R241). -/
def startVigil (s : State) (k : Nat) : State :=
  match s.vigils.get? k with
  | none => s
  | some v =>
    let s := { s with vigils := s.vigils.put k { v with st := .running } }
    if !v.counters.all fun q => ownsCounter s v.asid q then endVigil s k 0x14A
    else match v.field 0 12 4 with
    | 0 => startVigilXfer s k v
    | 1 =>
      let ws := v.words.drop 4
      if descMalformed s.rank ws then endVigil s k 0x14F
      else nsendSend s v.asid ws (wordAt v.words 2) (some k) v.fireTs
    | 2 => endVigil (v.update s (v.field 3 0 12) (wordAt v.words 4) v.fireTs) k 0
    | _ =>
      let target := v.field 3 0 14
      match s.vigils.get? target with
      | some w =>
        if w.st == .parked then
          endVigil (evalVigils { s with vigils := s.vigils.put target { w with st := .armed } } w.ctr) k 0
        else endVigil s k 0x14E
      | none => endVigil s k 0x14E

/-- VIGIL_START: the unit starts up to four waiting firings, in their order (13 R251, R252). -/
def execVigilStart (s : State) : Host.Outcome State Fault Refusal :=
  .next ((s.firing.take 4).foldl startVigil { s with firing := s.firing.drop 4 })

/-- The status with which a running vigil's operation has ended, if it has. -/
def Vigil.outcome (v : Vigil) : Option Nat :=
  if v.st != .running then none
  else match v.op with
    | some op => if op.complete then some op.status else none
    | none => v.ended

/-- The record of a vigil that ends with a status: its cause, slot, counter and stamp (13 R252). -/
def vigilRecord (s : State) (k : Nat) (v : Vigil) (cause : Nat) : State :=
  let ws := [BitVec.ofNat 64 (cause + 7 * 2 ^ 9 + v.asid * 2 ^ 12), BitVec.ofNat 64 k, BitVec.ofNat 64 v.ctr,
    wordAt v.words 2, 0#64, 0#64, s.kalends, 0#64]
  queueRecord s v.asid ws .event true

/-- VIGIL_COMPLETE: a vigil whose operation has ended leaves its slot; status 0 adds to its completion counter, another status
is recorded (13 R252). -/
def execVigilComplete (vslot : Nat) (s : State) : Host.Outcome State Fault Refusal :=
  .next (match s.vigils.get? vslot with
    | none => s
    | some v => match v.outcome with
      | none => s
      | some status =>
        let s := { s with vigils := s.vigils.del vslot }
        if status ≠ 0 then vigilRecord s vslot v status
        else if v.field 0 28 1 = 1 ∧ !ownsCounter s v.asid (v.field 0 16 12) then vigilRecord s vslot v 0x14A
        else if v.field 0 28 1 = 1 then
          v.update s (v.field 0 16 12) 1#64 (match v.op with | some op => op.ets | none => v.fireTs)
        else s)

/-! ### Sending chunks (13 R255) -/

/-- Bytes of a half of the collective SRAM. -/
def collHalf : Nat := 2 ^ 24

/-- The holiday of a collective lets a chunk of that number start (13 R258, R259). -/
def mayStart (s : State) (coll number : Nat) : Bool :=
  coll == 0 || (match s.holidays.get? coll with
    | none => true
    | some h => match h.chunk with
      | some n => decide (2 ≤ h.stepNo) && chunkBefore number n
      | none => false)

/-- The next chunk that a transfer may send. -/
def nextChunk (s : State) (op : OpEntry) : Option (Nat × Nat) :=
  let q := xferOf op.record
  (allChunks s op).find? fun p => !op.sent.contains p && mayStart s q.coll (q.number p.2)

/-- Bytes taken in the transmit half. -/
def transmitUsed (s : State) : Nat := s.chunks.foldl (fun n p => n + p.2.bytes) 0

/-- Reads `m` elements of the destination image from position `i` on: the image's order undoes the swizzle (12 R230). -/
def readImagePart (s : State) (c e : Nat) (op : OpEntry) (z : Shape) (i : Nat) (acc : List Byte) : Nat → Option (List Byte) × State
  | 0 => (some acc, s)
  | m + 1 =>
    match readElement s c e op z (z.off i / z.esz) with
    | (.ok v, s) => readImagePart s c e op z (i + 1) (acc ++ toBytes z.esz v) m
    | (r, s) => (none, engStopRead s c e r)

/-- The header of a chunk. The specification does not lay it out; this layout is the model's own: destination address and log2
of the element size; ptag, dctr, dcen, rel, mscope, rop; collective and number; bytes; stamp; the operation, and for this
device its context and destination space. -/
def chunkHeader (s : State) (c e : Nat) (op : OpEntry) (n : Nat) : List Byte :=
  let z := shapeOf op.record
  let q := xferOf op.record
  let va := (z.dst + n * q.chunk) % 2 ^ 56
  numBytes [va + recField op.record 2 3 2 * 2 ^ 56,
    (s.ctx op.asid).ptag.toNat + q.dctr * 2 ^ 16 + b2n q.dcen * 2 ^ 28 + b2n z.rel * 2 ^ 29 + z.mscope * 2 ^ 30 + q.rop * 2 ^ 33,
    q.coll + q.number n * 2 ^ 32, chunkBytes z q n, (wordAt op.record 3).toNat,
    c + e * 2 ^ 10 + op.asid * 2 ^ 24 + z.dspace * 2 ^ 34 + op.serial.toNat % 2 ^ 28 * 2 ^ 36, n, 0]

/-- A transfer may send. -/
def xferRuns (op : OpEntry) : Bool :=
  op.kind == .xfer && op.accepted && !op.complete && !op.suspended && !op.waits && op.asks == 0
  && decide (op.sent.length < op.acked.length + 8)

/-- CHUNK_SEND: a chunk of a transfer takes a transmit buffer, is read, and is sent (13 R255). -/
def sendChunk (s : State) (c e : Nat) : State :=
  match engOp? s c e with
  | none => s
  | some op =>
    if !xferRuns op then s
    else match nextChunk s op with
      | none => s
      | some (rank, n) =>
        let z := shapeOf op.record
        let q := xferOf op.record
        let bytes := chunkBytes z q n
        if collHalf < transmitUsed s + q.chunk then s
        else match readImagePart s c e op z (n * q.chunk / z.esz) [] (bytes / z.esz) with
          | (none, s) => s
          | (some data, s) =>
            let tag := s.nextTag
            let sent := op.sent ++ [(rank, n)]
            let all := decide ((allChunks s op).length ≤ sent.length)
            let out : ChunkOut := { core := c, entry := e, rank := rank, idx := n, bytes := q.chunk, serial := op.serial }
            let s := engCount (modEng s c e fun o =>
              { o with sent := sent, next := n + 1, got := [], consumed := o.consumed || all }) c op.asid (bytes / z.esz)
            ({ s with nextTag := tag + 1, chunks := s.chunks.put tag out }).send (.chunk rank tag (chunkHeader s c e op n) data)

/-- CHUNK_SEND (13 R255). -/
def execChunkSend (core entry : Nat) (s : State) : Host.Outcome State Fault Refusal := .next (sendChunk s core entry)

/-! ### Acknowledgements (13 R255) -/

/-- An acknowledgement frees the buffer; the operation ends with the first refusal, or when every destination has acknowledged
every chunk. -/
def ackChunk (s : State) (tag status : Nat) : State :=
  match s.chunks.get? tag with
  | none => s
  | some o =>
    let s := { s with chunks := s.chunks.del tag }
    settleHolidays (match engOp? s o.core o.entry with
    | none => s
    | some op =>
      if op.serial != o.serial || op.kind != .xfer || op.complete then s
      else if status ≠ 0 then opDone s o.core o.entry status
      else
        let acked := op.acked ++ [(o.rank, o.idx)]
        let s := modEng s o.core o.entry fun x => { x with acked := acked }
        if (allChunks s op).length ≤ acked.length then opDone s o.core o.entry 0 else s)

/-- CHUNK_ACK (13 R255). -/
def execChunkAck (tag status : Nat) (s : State) : Host.Outcome State Fault Refusal := .next (ackChunk s tag status)

/-! ### Arrival (13 R255, R256) -/

/-- A chunk at its destination. -/
structure ChunkIn where
  source : Nat
  tag : Nat
  va : Nat
  /-- element bytes -/
  esz : Nat
  ptag : Nat
  dctr : Nat
  dcen : Bool
  rel : Bool
  mscope : Nat
  rop : Nat
  /-- the operation of this device that sent it: core, entry -/
  core : Nat
  entry : Nat
  /-- which operation of its source sent it -/
  op : Nat
  asid : Nat
  dspace : Nat
  data : List Byte
deriving DecidableEq, Repr

/-- Reads a chunk's header. -/
def chunkOf (source tag : Nat) (hdr data : List Byte) : ChunkIn :=
  let w := wordsOf 8 hdr
  { source := source, tag := tag, va := recField w 0 0 56, esz := 2 ^ recField w 0 56 2, ptag := recField w 1 0 16
    dctr := recField w 1 16 12, dcen := recField w 1 28 1 == 1, rel := recField w 1 29 1 == 1, mscope := recField w 1 30 3
    rop := recField w 1 33 4, core := recField w 5 0 10, entry := recField w 5 10 14, op := (wordAt w 5).toNat
    asid := recField w 5 24 10, dspace := recField w 5 34 2, data := data }

/-- The context in which a chunk is performed: for this device that of its operation, else the one that shares the ptag. -/
def ChunkIn.ctx (k : ChunkIn) (s : State) : Option Nat :=
  if k.source = s.rank then some k.asid else (s.ctxs.find? fun x => x.2.ptag.toNat == k.ptag).map (·.1)

/-- The destination's counter takes the chunk's increment (13 R241, R255). -/
def ChunkIn.owned (k : ChunkIn) (s : State) (asid : Nat) : Bool :=
  !k.dcen || (match s.ctrOwner.get? k.dctr with
    | some o => o.valid && o.asid == asid && (k.source == s.rank || o.ptag.toNat == k.ptag)
    | none => false)

/-- The operation as which a chunk's writes are made: a transfer within this device keeps its own, whose block's scratch it may
name. -/
def ChunkIn.writer (k : ChunkIn) (s : State) (asid : Nat) : Nat × OpEntry :=
  let none_ := (ioCore, OpEntry.fresh .xfer asid 0#64 0#64 s.remTs)
  if k.source = s.rank then (match engOp? s k.core k.entry with | some op => (k.core, op) | none => none_) else none_

/-- Where each element of a chunk goes, and the first fault among them: (logged, cause, address). -/
def chunkPlaces (k : ChunkIn) (c : Nat) (op : OpEntry) (i : Nat) (acc : List Place) (s : State) :
    Nat → (Except (Bool × Nat × Nat) (List Place)) × State
  | 0 => (.ok acc.reverse, s)
  | n + 1 =>
    let va := (k.va + i * k.esz) % 2 ^ 56
    match engPlace s c op k.dspace k.esz va .engWrite with
    | (.logged cause, s) => (.error (true, cause, va), s)
    | (.bad cause, s) => (.error (false, cause, va), s)
    | (.at_ p, s) =>
      match engWriteCause s false op.asid k.esz p.at_ with
      | some 0x095 => (.error (true, 0x095, va), s)
      | some cause => (.error (false, cause, va), s)
      | none => chunkPlaces k c op (i + 1) (.at_ p :: acc) s n

/-- Performs one element: a write, or a commutative update in the I/O die's partial; an update that reaches scratch or another device
is an ordinary atomic there (13 R256; 08 R166). -/
def chunkElement (k : ChunkIn) (c : Nat) (asid : Nat) (t : BitVec 20) (i : Nat) (p : Phys) (s : State) : BitVec 20 × State :=
  let v := ofBytes ((k.data.drop (i * k.esz)).take k.esz)
  let va := (k.va + i * k.esz) % 2 ^ 56
  match k.rop, p.at_ with
  | 0, .remote rank addr => (t, engTell s ioCore nsendEntry asid rank addr va k.esz v)
  | r + 1, .remote rank addr => (t, engTellAtomic s ioCore nsendEntry asid rank addr va r v)
  | r + 1, .hbm pa => (t, cuUpdateDie s 8 (lineOf pa) r (pa % 128) v k.mscope)
  | r + 1, .scratch q o =>
    (t, match atomicNew r (scratchNum s q o k.esz) v with
      | some w => s.modCore q fun x => { x with scratch := Mem.store x.scratch o k.esz w }
      | none => s)
  | _, _ => engStore s c asid t k.esz v p k.rel

/-- Performs the writes of a chunk, and then its increment. -/
def chunkPerform (k : ChunkIn) (c asid : Nat) (t : BitVec 20) (places : List Place) (s : State) : State :=
  let (t, s) := places.zipIdx.foldl (fun (a : BitVec 20 × State) p => match p.1 with
    | .at_ q => chunkElement k c asid a.1 p.2 q a.2
    | _ => a) (t, s)
  let s := { s with remTs := if k.source = s.rank then s.remTs else tsMax s.remTs t }
  let s := if k.source = s.rank then raiseEts s k.core k.entry t else s
  if k.dcen then
    (if k.rel then (if 3 ≤ k.mscope then ctrRelease (drainFlits s) k.dctr 1#64 t else ctrAdd (drainFlits s) k.dctr 1#64) else ctrAdd s k.dctr 1#64)
  else s

/-- A chunk has been performed or refused: its sender hears of it. -/
def answerChunk (k : ChunkIn) (status : Nat) (s : State) : State :=
  if k.source = s.rank then ackChunk s k.tag status else s.send (.chunkAck k.source k.tag status)

/-- A chunk is performed at this device: true unless its writes wait for firmware. -/
def performChunk (k : ChunkIn) (s : State) : Bool × State :=
  match k.ctx s with
  | none => (true, answerChunk k 0x151 s)
  | some asid =>
    if !k.owned s asid then (true, answerChunk k 0x151 s)
    else
      let (c, op) := k.writer s asid
      match chunkPlaces k c op 0 [] s (k.data.length / k.esz) with
      | (.error (true, cause, va), s) =>
        (false, queueRecord s asid (engineWords s c op cause 5 va) (.chunk k.source k.tag))
      | (.error (false, cause, _), s) => (true, answerChunk k cause s)
      | (.ok places, s) => (true, answerChunk k 0 (chunkPerform k c asid op.ets places s))

/-- The operation of its source that a header names. -/
def chunkOpWord (hdr : List Byte) : Nat := (wordAt (wordsOf 8 hdr) 5).toNat

/-- Bytes taken in the receive half. -/
def receiveUsed (s : State) : Nat := s.chunkWait.foldl (fun n p => n + p.2.2.2.length) 0

/-- A chunk from this device to itself is on its way, with none of its operation before it. -/
def loopFirst (s : State) (tag : Nat) (hdr data : List Byte) : Bool :=
  let mine := s.outbox.filter fun m => match m with
    | .chunk rank _ h _ => rank == s.rank && chunkOpWord h == chunkOpWord hdr
    | _ => false
  mine.head? == some (Msg.chunk s.rank tag hdr data)

/-- A chunk reaches this device: it is staged, and performed after those of its operation that wait (13 R255). -/
def receiveChunk (s : State) (source tag : Nat) (hdr data : List Byte) : State :=
  let k := chunkOf source tag hdr data
  if (s.chunkSeen.contains (source, tag)) || collHalf < receiveUsed s + data.length then s
  else
    let s := { s with
      chunkSeen := s.chunkSeen ++ [(source, tag)]
      outbox := if source = s.rank then s.outbox.filter (· != Msg.chunk s.rank tag hdr data) else s.outbox }
    if s.chunkWait.any fun w => w.1 == source && chunkOpWord w.2.2.1 == chunkOpWord hdr then
      { s with chunkWait := s.chunkWait ++ [(source, tag, hdr, data)] }
    else match performChunk k s with
      | (true, s) => s
      | (false, s) => { s with chunkWait := s.chunkWait ++ [(source, tag, hdr, data)] }

/-- CHUNK_ARRIVAL (13 R255, R256). -/
def execChunkArrival (tag source : Nat) (header data : List Byte) (s : State) : Host.Outcome State Fault Refusal :=
  .next (
    if header.length ≠ 64 ∨ (source = s.rank ∧ !loopFirst s tag header data) then s
    else receiveChunk s source tag header data)

/-- Performs the waiting chunks of an operation in order, until one waits for firmware again. -/
def drainChunks (s : State) (source opWord : Nat) : Nat → State
  | 0 => s
  | fuel + 1 =>
    match s.chunkWait.find? fun w => w.1 == source && chunkOpWord w.2.2.1 == opWord with
    | none => s
    | some w => match performChunk (chunkOf w.1 w.2.1 w.2.2.1 w.2.2.2) s with
      | (true, s) => drainChunks { s with chunkWait := s.chunkWait.filter fun x => !(x.1 == w.1 && x.2.1 == w.2.1) } source opWord fuel
      | (false, s) => s

/-- Firmware has served the writes of a chunk (12 R233; 10 R201). -/
def resumeChunk (s : State) (source tag : Nat) : State :=
  match s.chunkWait.find? fun w => w.1 == source && w.2.1 == tag with
  | none => s
  | some w => drainChunks s source (chunkOpWord w.2.2.1) s.chunkWait.length

/-- Firmware delivers the fault of a chunk: it is refused with that status, and those behind it go on (14 R271). -/
def refuseChunk (s : State) (source tag cause : Nat) : State :=
  match s.chunkWait.find? fun w => w.1 == source && w.2.1 == tag with
  | none => s
  | some w =>
    let s := { s with chunkWait := s.chunkWait.filter fun x => !(x.1 == source && x.2.1 == tag) }
    drainChunks (answerChunk (chunkOf w.1 w.2.1 w.2.2.1 w.2.2.2) cause s) source (chunkOpWord w.2.2.1) s.chunkWait.length

end Sys2Proof.Machine
end

