-- ==== Sys2Proof/Machine/EvCollective.lean ====
section
/-! DEFINITION. Suspending and resuming a context, the messages of a holiday, and a collective's lost peer (04 R95; 13 R258 to
R261). -/

namespace Sys2Proof.Machine

open Sys2Proof

/-! ### The initiator -/

/-- The collectives of a context: valid entries with its ptag (13 R258). -/
def ctxColls (s : State) (asid : Nat) : List CollGroup :=
  (s.groups.filter fun g => g.2.valid && g.2.ptag == (s.ctx asid).ptag && !g.2.ranks.isEmpty).map (·.2)

/-- Begins a holiday as its initiator: PAUSE to every other member, and this device's own part. -/
def beginHoliday (pkt asid : Nat) (s : State) (g : CollGroup) : State :=
  let h : Holiday :=
    { initiator := s.rank, hseq := s.nextHoliday, stepNo := 1, pkt := some pkt, waiting := g.ranks, chunk := none
      since := s.kalends.toNat, asid := asid }
  let s := { s with holidays := s.holidays.put g.coll h, nextHoliday := (s.nextHoliday + 1) % 2 ^ 16 }
  settleHoliday (tellMembers s g.coll 1 none) g.coll

/-- Ends a holiday here: step 5. -/
def endHoliday (s : State) (coll : Nat) : State := { s with holidays := s.holidays.del coll }

/-- A frozen block that has not been saved goes on. -/
def Block.unhold (b : Block) : Block := if b.saving then { b with frozen := false, saving := false } else b

/-- Blocks that were to be saved and are still on their cores go on. -/
def unholdBlocks (s : State) (p : Block → Bool) : State :=
  { s with blocks := s.blocks.map fun b => if p b.2 then (b.1, b.2.unhold) else b }

/-- The suspension of a context is complete: nothing of it is still to be saved, and every holiday that this device began for
it has had its answers. -/
def suspensionDone (s : State) (asid : Nat) : Bool :=
  !(s.blocks.any fun b => b.2.asid == asid && b.2.saving)
  && s.holidays.all fun h => h.2.asid != asid || h.2.initiator != s.rank || decide (4 ≤ h.2.stepNo)

/-- A suspend packet that acts goes on: blocks that may be saved by now, answers that are due, its end. -/
def suspendGoOn (s : State) (k asid : Nat) : State :=
  let s := settleHolidays (saveReady s)
  if suspensionDone s asid then endPkt s k 0 else s

/-- The suspension of a context starts: with collectives, its gangs wait for the holidays; the other blocks are pre-empted at
once (13 R258; 04 R95). -/
def suspendStart (s : State) (k asid : Nat) : State :=
  let was := (s.ctx asid).suspended
  let s := (s.modCtx asid fun x => { x with suspended := true }).modPkt k fun p => { p with st := .acting }
  let colls := ctxColls s asid
  let s := preempt s fun _ b => b.asid == asid && (colls.isEmpty || b.gsize == 1)
  let s := if was then s else (colls.filter fun g => !s.holidays.has g.coll).foldl (beginHoliday k asid) s
  suspendGoOn s k asid

/-- SUSPEND_CONTEXT (04 Table 4.6, R95; 13 R258). -/
def execSuspendContext (pkt : Nat) (s : State) : Host.Outcome State Fault Refusal :=
  .next (match s.pkts.get? pkt with
    | none => s
    | some p =>
      let ws := wordsOf (p.body.length / 8) p.body
      if p.kind = 9 && p.st == .acting && pf ws 0 0 8 == 7 then suspendGoOn s pkt (pf ws 8 0 10)
      else control s pkt 7 fun _ ws => suspendStart s pkt (pf ws 8 0 10))

/-- RESUME_CONTEXT, once its suspension is complete: RESUME to the members of its holidays, and its blocks may be placed again
(04 Table 4.6; 13 Table 13.10). -/
def execResumeContext (pkt : Nat) (s : State) : Host.Outcome State Fault Refusal :=
  .next (control s pkt 8 fun _ ws =>
    let asid := pf ws 8 0 10
    if !suspensionDone s asid then s
    else
      let mine := (s.holidays.filter fun h => h.2.asid == asid && h.2.initiator == s.rank).map (·.1)
      let s := mine.foldl (fun s k => endHoliday (tellMembers s k 5 none) k) s
      endPkt (s.modCtx asid fun x => { x with suspended := false }) pkt 0)

/-- Takes back the holidays of a suspend packet: RESUME to every member, nothing stays pre-empted (13 R260). -/
def abandon (s : State) (k asid : Nat) : State :=
  let mine := (s.holidays.filter fun h => h.2.pkt == some k && h.2.initiator == s.rank).map (·.1)
  let s := mine.foldl (fun s c => endHoliday (tellMembers s c 6 none) c) s
  let s := unholdBlocks (s.modCtx asid fun x => { x with suspended := false }) fun b => b.asid == asid
  endPkt (hostEvent s (some asid) 0x152 0 0) k 0x152

/-- HOLIDAY_TIMEOUT: a member has not answered step 1, 2 or 3 within 100 ms (13 R260). -/
def execHolidayTimeout (coll : Nat) (s : State) : Host.Outcome State Fault Refusal :=
  .next (match s.holidays.get? coll with
    | none => s
    | some h => match h.pkt with
      | none => s
      | some k => if h.stepNo ≤ 3 ∧ 100000000 ≤ s.passed h.since then abandon s k h.asid else s)

/-- HOLIDAY_REPLY: an answer to the present step reaches the initiator; one of its own rank makes it look again at what it owes
(13 Table 13.10). -/
def execHolidayReply (coll source hseq stepno : Nat) (chunk : Option Nat) (s : State) : Host.Outcome State Fault Refusal :=
  .next (match s.holidays.get? coll with
    | none => s
    | some h =>
      if h.initiator ≠ s.rank ∨ h.hseq ≠ hseq ∨ h.stepNo ≠ stepno ∨ !h.waiting.contains source then s
      else settleHoliday (if source = s.rank then saveReady s else takeAnswer s coll source chunk) coll)

/-! ### The members -/

/-- The context of a collective here: the resident one with its ptag; 1024 stands for none. -/
def collAsid (s : State) (g : CollGroup) : Nat := ((s.ctxs.find? fun x => x.2.ptag == g.ptag).map (·.1)).getD 1024

/-- HOLIDAY_PAUSE: no further chunk of the collective starts here (13 Table 13.10). A device whose collective is on another
initiator's holiday does not answer. -/
def execHolidayPause (coll source hseq : Nat) (s : State) : Host.Outcome State Fault Refusal :=
  .next (match collGroup s coll with
    | none => s
    | some g =>
      let other : Bool := match s.holidays.get? coll with | some h => h.initiator != source || h.hseq == hseq | none => false
      if source = s.rank ∨ other ∨ !g.ranks.contains source ∨ !g.ranks.contains s.rank then s
      else
        let h : Holiday :=
          { initiator := source, hseq := hseq, stepNo := 1, pkt := none, waiting := [s.rank], chunk := none
            since := s.kalends.toNat, asid := collAsid s g }
        settleHoliday { s with holidays := s.holidays.put coll h } coll)

/-- A holiday of another initiator that a message belongs to. -/
def memberOf (s : State) (coll source hseq : Nat) : Option Holiday :=
  match s.holidays.get? coll with
  | some h => if h.initiator = source ∧ h.hseq = hseq ∧ source ≠ s.rank then some h else none
  | none => none

/-- HOLIDAY_STOP: chunks below N are started and completed, none at or above N (13 Table 13.10). -/
def execHolidayStop (coll source hseq chunk : Nat) (s : State) : Host.Outcome State Fault Refusal :=
  .next (match memberOf s coll source hseq with
    | none => s
    | some h => settleHoliday (if h.stepNo = 1 then enterStep s coll 2 [s.rank] (some chunk) else s) coll)

/-- HOLIDAY_HOLD: every gang of the context is pre-empted (13 Table 13.10; 04 R95). -/
def execHolidayHold (coll source hseq : Nat) (s : State) : Host.Outcome State Fault Refusal :=
  .next (match memberOf s coll source hseq with
    | none => s
    | some h =>
      settleHoliday (if h.stepNo = 2 then enterStep s coll 3 [s.rank] h.chunk else saveReady s) coll)

/-- HOLIDAY_RESUME: the gangs go on together, and chunks from N onward start. The host of each member of a holiday that has timed out
receives an event; the message says so: its number, below 2^16, is then given plus 2^16 (13 Table 13.10, R260; log 36). -/
def execHolidayResume (coll source hseq : Nat) (s : State) : Host.Outcome State Fault Refusal :=
  .next (match memberOf s coll source (hseq % 2 ^ 16) with
    | none => s
    | some h =>
      let s := unholdBlocks (endHoliday s coll) fun b => b.asid == h.asid && decide (1 < b.gsize)
      if 2 ^ 16 ≤ hseq then hostEvent s (some h.asid) 0x152 0 0 else s)

/-! ### A lost peer (13 R261) -/

/-- A vigil sends a descriptor to a rank (13 R252). -/
def Vigil.sendsTo (v : Vigil) (rank : Nat) : Bool := v.field 0 12 4 == 1 && v.field 4 0 10 == rank

/-- A resident context has something to do with a rank: chunks bound for it, a transfer, an NSEND or a vigil that names it, or a collective
that it takes part in. -/
def usesRank (s : State) (rank asid : Nat) : Bool :=
  (s.chunks.any fun p => p.2.rank == rank && (match engOp? s p.2.core p.2.entry with
    | some op => op.asid == asid
    | none => false))
  || ((allOps s).any fun o => o.2.2.asid == asid && o.2.2.kind == .xfer && o.2.2.accepted && !o.2.2.complete
    && ((xferOf o.2.2.record).dests s.rank).contains rank)
  || (s.ctx asid).peers.contains rank
  || (s.vigils.any fun v => v.2.asid == asid && v.2.sendsTo rank)
  || s.groups.any fun g => g.2.valid && g.2.ptag == (s.ctx asid).ptag && g.2.ranks.contains rank

/-- The contexts of this device in the pod jobs that use a rank: those that use it themselves, and those that share a ptag with one. -/
def jobAsids (s : State) (rank : Nat) : List Nat :=
  let users := s.ctxs.filter fun x => usesRank s rank x.1
  (s.ctxs.filter fun x => users.any fun u => u.1 == x.1 || (u.2.ptag != 0#16 && u.2.ptag == x.2.ptag)).map (·.1)

/-- COLLECTIVE_PEER_LOST: the chunks bound for the rank stall; the host receives an event for each context of the pod jobs that use it
(13 R261). -/
def execCollectivePeerLost (rank : Nat) (s : State) : Host.Outcome State Fault Refusal :=
  .next ((jobAsids s rank).foldl (fun s a => hostEvent s (some a) 0x153 rank 0) s)

end Sys2Proof.Machine
end

