-- ==== Sys2Proof/Machine/EvDebug.lean ====
section
/-! DEFINITION. Debug stops, stall samples and counter wraps (15 R283 to R286). -/

namespace Sys2Proof.Machine

open Sys2Proof

/-! ### Stops -/

/-- DEBUG_STOP: the debugger asks for a block to stop; its stop record has no cause (15 R283). -/
def execDebugStop (core slot : Nat) (s : State) : Host.Outcome State Fault Refusal := .next (stopBlock s core slot 0)

/-- DEBUG_RESUME: every warp of the block goes on (15 R283). -/
def execDebugResume (core slot : Nat) (s : State) : Host.Outcome State Fault Refusal :=
  .next (s.modBlock core slot fun b => { b with stopped := false })

/-! ### Stall samples (15 R285) -/

/-- Code of a stall reason (15 Table 15.4). -/
def Stall.code : Stall → Nat
  | .issued => 0
  | .ready => 1
  | .emptyPipe => 2
  | .fullPipe => 3
  | .leave => 4
  | .rendezvous => 5
  | .batch => 6
  | .handle => 7
  | .operandMiss => 8
  | .distance => 9
  | .lookahead => 10
  | .memory => 11
  | .matrixFull => 12
  | .engineFull => 13
  | .joinWait => 14
  | .faultService => 15
  | .restaging => 16

/-- A record of the warp waits for room in the fault queue: the warp waits on memory (14 R270). -/
def recordWaits (s : State) (p : Port) : Bool :=
  (s.ctx (blockAsid s p.core p.slot)).records.any fun r => !r.written && (match r.who with
    | .trap c k m _ => c == p.core && k == p.slot && m == p.warp
    | .noLog c k m q _ => c == p.core && k == p.slot && m == p.warp && q == p.split
    | _ => false)

/-- A split could issue in this cycle but for the hot set: the waits of its next instruction are satisfied, as its last turn or the
last cycle found them. -/
def couldIssue (s : State) (p : Port) (q : Split) : Bool :=
  canIssue (s.modWarp p.core p.slot p.warp fun w => { w with hot := true }) p && !q.stall.waits && !lookaheadWait q

/-- The reasons that apply to a split in the sample cycle; the first row of Table 15.4 among them is the sample's. -/
def stallReasons (s : State) (p : Port) (w : Warp) (q : Split) : List Stall :=
  let now := q.lastIssue == s.cycle.toNat
  (if q.stall == .issued && now then [Stall.issued] else [])
  ++ (if couldIssue s p q then [.ready] else [])
  ++ (if w.refillBlocked then [.emptyPipe] else [])
  ++ (if (q.rwait && q.redo.isNone) || w.rftWait then [.rendezvous] else [])
  ++ (if q.stall == .issued || q.stall == .ready || q.stall == .faultService then [] else [q.stall])
  ++ (if lookaheadWait q then [.lookahead] else [])
  ++ (if q.jwait then [.joinWait] else [])
  ++ (if w.suspended || q.faultWait then [if recordWaits s p then .memory else .faultService] else [])
  ++ (if w.restaging then [.restaging] else [])

/-- The reason of a sample: the applicable one of least code; a warp that could issue and did not is ready. -/
def stallReason (s : State) (p : Port) (w : Warp) (q : Split) : Stall :=
  (stallReasons s p w q).foldl (fun a b => if b.code < a.code then b else a)
    (match stallReasons s p w q with | r :: _ => r | [] => .ready)

/-- The split that a warp would issue next (06 R120): the ready one that issued least recently; if none is ready, among all
its valid ones. -/
def nextSplit (s : State) (c slot m : Nat) (w : Warp) : Option (Nat × Split) :=
  let ready := w.valid.filter fun p => couldIssue s { core := c, slot := slot, warp := m, split := p.1 } p.2
  match if ready.isEmpty then w.valid else ready with
  | [] => none
  | a :: r => some (r.foldl (fun a b => if b.2.lastIssue < a.2.lastIssue then b else a) a)

/-- The instruction word that a split stands before: behind the hint words at its pc, which a sample never names (17 R312). -/
def wordPc (s : State) (asid : Nat) (pc : BitVec 64) : BitVec 64 :=
  if hintAt s asid pc then (if hintAt s asid (pc + 4#64) then pc + 8#64 else pc + 4#64) else pc

/-- The producer that a sample blames: of the result whose window has run out, or of the handle that the waiting instruction
reads (06 R129). -/
def blamedPc (s : State) (c slot : Nat) (w : Warp) (q : Split) (r : Stall) : BitVec 64 :=
  let q := { q with pc := wordPc s (blockAsid s c slot) q.pc }
  match r with
  | .lookahead => (match q.wins.find? fun e => e.left == 0 && e.pend != .done with
    | some e => e.pc
    | none => q.pc)
  | .handle => (match (peekWord s (blockAsid s c slot) q.pc.toNat).bind fun x => (decodeWord x).toOption with
    | some (.waitbHandle _ h _) => (match w.hregs[h.toNat]? with
      | some (.op e serial) => (match s.op? c e with
        | some o => if o.serial = serial then o.pc else q.pc
        | none => q.pc)
      | _ => q.pc)
    | _ => q.pc)
  | _ => q.pc

/-- The resident warps of a quarter that belong to sampling contexts, by warp slot (block slot × 32 + warp). -/
def sampledWarps (s : State) (c quarter : Nat) : List (Nat × Warp) :=
  (s.blocks.filter fun b => b.1 / 96 == c && bit (s.ctx b.2.asid).dbgctl 1).flatMap fun b =>
    (b.2.warps.zipIdx.filter fun w => w.1.quarter == quarter && !w.1.retired).map fun w => (b.1 % 96 * 32 + w.2, w.1)

/-- The next of them after the one sampled last, in ascending order and round again. -/
def nextSampled (l : List (Nat × Warp)) (last : Nat) : Option (Nat × Warp) :=
  let least (l : List (Nat × Warp)) : Option (Nat × Warp) := match l with
    | [] => none
    | a :: r => some (r.foldl (fun a b => if b.1 < a.1 then b else a) a)
  (least (l.filter fun p => decide (last < p.1))).or (least l)

/-- Core cycles between two samples of a quarter (15 Table 15.2). -/
def samplePeriod (x : Ctx) : Nat := let e := bits x.dbgctl 2 5; 2 ^ (if 8 ≤ e ∧ e ≤ 24 then e else 24)

/-- STALL_SAMPLE: a quarter takes its next sample, one period after the last (15 R285). -/
def execStallSample (core quarter : Nat) (s : State) : Host.Outcome State Fault Refusal :=
  .next (match nextSampled (sampledWarps s core quarter) ((s.core core).sampled.getD quarter 0) with
    | none => s
    | some (k, w) =>
      let slot := k / 32
      let m := k % 32
      let asid := blockAsid s core slot
      let cycle := s.cycle.toNat
      if cycle < (s.core core).sampledAt.getD quarter 0 + samplePeriod (s.ctx asid) then s
      else
      let s := s.modCore core fun x =>
        { x with sampled := setAt x.sampled quarter k, sampledAt := setAt x.sampledAt quarter cycle }
      match nextSplit s core slot m w with
      | none => s
      | some (n, q) =>
        let r := stallReason s { core := core, slot := slot, warp := m, split := n } w q
        let s := pmCount s core asid 11 1
        writeSample s asid 3 [placeWord s core slot m, BitVec.ofNat 64 ((wordPc s asid q.pc).toNat % 2 ^ 56 + n * 2 ^ 56),
          BitVec.ofNat 64 ((blamedPc s core slot w q r).toNat % 2 ^ 56 + r.code * 2 ^ 56)])

/-- The block that a counter's record names: the counted context's block in the lowest slot of the core (DESIGN CHOICE, log 52);
without one the record names no block. -/
def countedPlace (s : State) (core asid : Nat) : DWord :=
  match (List.range 96).find? fun slot => (s.block? core slot).any fun b => b.asid == asid with
  | some slot => placeWord s core slot 0
  | none => BitVec.ofNat 64 (coreDie core + core % 128 * 2 ^ 3)

/-- PMC_WRAP: a counter that has wrapped writes its record to the buffer of the counted context (15 R286). -/
def execPmcWrap (core counter : Nat) (s : State) : Host.Outcome State Fault Refusal :=
  .next (if !(s.core core).pmwrap.contains counter then s
    else
      let s := s.modCore core fun x => { x with pmwrap := x.pmwrap.erase counter }
      let asid := bits ((s.core core).pmctl.getD counter 0#64) 8 10
      writeSample s asid 7 [countedPlace s core asid, BitVec.ofNat 64 counter])

end Sys2Proof.Machine
end

