-- ==== Sys2Proof/Machine/EvError.lean ====
section
/-! DEFINITION. Detected errors, scrubbing, failed cores and their sparing (01 R14, R18; 14 R275, R276, R280). -/

namespace Sys2Proof.Machine

open Sys2Proof

/-! ### ERRCNT (14 Table 14.10) -/

/-- Counts a corrected error. -/
def countCorrected (s : State) : State :=
  { s with errcnt := BitVec.ofNat 64 ((s.errcnt.toNat % 2 ^ 32 + 1) % 2 ^ 32 + s.errcnt.toNat / 2 ^ 32 * 2 ^ 32) }

/-- Counts an uncorrectable error. -/
def countUncorrectable (s : State) : State :=
  { s with errcnt := BitVec.ofNat 64 (s.errcnt.toNat % 2 ^ 32 + (s.errcnt.toNat / 2 ^ 32 % 2 ^ 16 + 1) % 2 ^ 16 * 2 ^ 32
      + s.errcnt.toNat / 2 ^ 48 * 2 ^ 48) }

/-! ### A failed core (14 R276; 01 R14) -/

/-- What a position holds when another physical core is bound to it: nothing cached, nothing in flight towards it. The writes
that have left the old core, the reports of freed slots, and the position's own registers stay. Dirty flags gathered in its TLB go
unwritten: none of the cases of 10 R199 names them (DESIGN CHOICE, log 60). -/
def Core.fresh (x : Core) : Core :=
  { x with
    l1d := [], l1i := [], partials := [], itlb := [], dtlb := [], oplog := [], ops := [], copyQ := [], gathQ := [[], []], matQ := []
    unitOwn := []
    xferQ := [], errors := []
    mshr := x.mshr.filter fun m => match m.2 with | .write _ _ _ => true | _ => false }

/-- A position takes a spare, or is withdrawn and reported (01 R14). -/
def spareCore (s : State) (c : Nat) : State :=
  let d := coreDie c
  match (s.die d).spares with
  | p :: rest => (s.modDie d fun x => { x with spares := rest }).modCore c fun x => { x.fresh with phys := p }
  | [] =>
    let s := s.modCore c fun x => { x.fresh with withdrawn := true }
    let s := { s with grids := s.grids.map fun (g : Nat × Grid) => (g.1, { g.2 with share := g.2.share.filter (· != c) }) }
    hostEvent s none 0x1EC c (d + c % 128 * 2 ^ 3)

/-- A core has failed: what its L1D holds is lost, every block on it fails, and its position is remapped or withdrawn. -/
def failCore (s : State) (c : Nat) : State :=
  let s := s.modCore c fun x => { x with l1d := [], partials := [] }
  let s := ((s.blocks.filter fun b => b.1 / 96 == c).map (·.1)).foldl (fun s k => failBlock s c (k % 96) 0x1EB) s
  spareCore (returnAllGrants s c none) c

/-- A core has issued nothing for 10 ms of core cycles, and has held a warp that was ready for all of them. -/
def coreStalled (s : State) (c : Nat) : Bool :=
  decide ((s.core c).lastIssue + 30000000 ≤ s.cycle.toNat)
  && s.blocks.any fun b => b.1 / 96 == c && b.2.warps.any fun w => !w.retired && decide (30000000 ≤ w.idle)

/-- CORE_STALL_TIMEOUT (14 R276). -/
def execCoreStallTimeout (core : Nat) (s : State) : Host.Outcome State Fault Refusal :=
  .next (if coreStalled s core && !(s.core core).withdrawn then failCore s core else s)

/-- CORE_SELF_TEST_FAIL (14 R276). -/
def execCoreSelfTestFail (core : Nat) (s : State) : Host.Outcome State Fault Refusal :=
  .next (if (s.core core).withdrawn then s else failCore s core)

/-! ### Detected errors (14 R275) -/

/-- A core reports an uncorrectable error: the third within a second fails it (14 R276). -/
def reportError (s : State) (c : Nat) : State :=
  let recent := ((s.core c).errors.filter fun t => decide (s.passed t < 1000000000)) ++ [s.kalends.toNat]
  let s := s.modCore c fun x => { x with errors := recent }
  if 3 ≤ recent.length then failCore s c else s

/-- What an uncorrectable error does (14 Table 14.9). `unit` and `place`: 0 an operand-buffer slice, the warp at
(block key) × 32 + warp; 1 the main or tile file, a block key; 2 scratch, a block key; 3 an L2 line, its line address; 4 an HBM
line, its line address; 5 a slot header, (pipe key) × 2^48 + number; 6 another SECDED store (trigger counters, owner entries, vigil slots,
arm entries, collective SRAM), for which the table has no row: the failure reaches the host as an event, whose cause the specification
does not give (01 R18; 13 R261; log 3); otherwise a link. -/
def uncorrectable (s : State) (unit place : Nat) : State :=
  match unit with
  | 0 =>
    let k := place / 32
    reportError ((countUncorrectable s).modWarp (k / 96) (k % 96) (place % 32) fun w => { w with restaging := w.hot }) (k / 96)
  | 1 => reportError (failBlock (countUncorrectable s) (place / 96) (place % 96) 0x04A) (place / 96)
  | 2 => reportError (failBlock (countUncorrectable s) (place / 96) (place % 96) 0x0A0) (place / 96)
  | 3 =>
    let s := countUncorrectable s
    { s with l2 := modKey s.l2 place fun h => if h.dirty then { h with poison := true } else { h with data := hbmLine s.mem place } }
  | 4 =>
    let s := countUncorrectable s
    { s with poison := if s.poison.contains place then s.poison else s.poison ++ [place] }
  | 5 => (countUncorrectable s).modPipe (place / 2 ^ 48) fun p =>
      { p with slots := modKey p.slots (place % 2 ^ 48) fun x => { x with hdr := x.hdr ^^^ 1#512 } }
  | 6 =>
    let (n, s) := (countUncorrectable s).draw
    hostEvent s none (n % 512) place 0
  | _ => s

/-- ERROR_DETECTED (14 R275, R280). -/
def execErrorDetected (unit place : Nat) (correctable : Bool) (s : State) : Host.Outcome State Fault Refusal :=
  .next (if correctable then (if unit < 7 then countCorrected s else s) else uncorrectable s unit place)

/-- SCRUB: every line has been scrubbed; what could be corrected is (14 R275). -/
def execScrub (s : State) : Host.Outcome State Fault Refusal := .next { s with scrubAt := s.kalends.toNat }

end Sys2Proof.Machine
end

