-- ==== Sys2Proof/Machine/EvFault.lean ====
section
/-! DEFINITION. Firmware's answers to fault records: the operand log, records that no entry holds, traps, engines, packets; and
the tail of a fault queue (10 R201, R202, R206; 12 R233; 14 R270, R271). -/

namespace Sys2Proof.Machine

open Sys2Proof

/-! ### Records -/

/-- The unanswered record that a condition selects, with its context. Record numbers count per context: when unanswered records of two
contexts in one quarter carry the same number, the context that comes first by its ASID is answered (DESIGN CHOICE, log 53). -/
def unanswered (s : State) (p : FaultRec → Bool) : Option (Nat × FaultRec) :=
  s.ctxs.findSome? fun x => (x.2.records.find? fun r => r.written && p r).map fun r => (x.1, r)

/-- Cause of a record. -/
def FaultRec.cause (r : FaultRec) : Nat := recField r.words 0 0 9

/-- Address of a record. -/
def FaultRec.pc (r : FaultRec) : BitVec 64 := wordAt r.words 3

/-! ### Delivering to a warp (14 R271) -/

/-- A memory or translation cause: what bit 25 of a trap word takes when firmware delivers it (14 R266). -/
def memoryCause (c : Nat) : Bool := decide (0x080 ≤ c) && decide (c ≤ 0x09F)

/-- Every member of a trap has a handler that takes it. -/
def allToHandler (s : State) (a : TrapAt) (t : TrapReq) : Bool :=
  match s.block? a.core a.slot with
  | none => false
  | some b => (if a.members.isEmpty then [a.warp] else a.members).all fun m =>
    match b.warps[m]? with
    | some w => toHandler b w t
    | none => false

/-- A fault is delivered as a warp trap to the user handler, or the block fails. -/
def deliverTrap (s : State) (a : TrapAt) (t : TrapReq) (cause : Nat) : State :=
  let t := { t with delivered := true, resnext := true }
  if allToHandler s a t then takeTrap s a t else failBlock s a.core a.slot cause

/-! ### The operand log -/

/-- The lanes that an entry still has to perform, from what it holds (10 R201). -/
def LogEntry.accs (e : LogEntry) : List LaneAcc :=
  let base := e.base.toNat + (immExt e.hints 0 0 % 2 ^ 64).toNat
  (maskLanes e.lanes).map fun l =>
    { m := e.warp, l := l, o := (base + (e.addr.lane l).toNat) % 2 ^ 64
      data := e.data.zipIdx.foldl (fun n v => n + (v.1.lane l).toNat * 2 ^ (32 * v.2)) 0
      helper := false, reg := e.place.getD l 0xFFFF }

/-- A window that waits for a log entry waits for another device beside it. -/
def Warp.alsoPend (w : Warp) (p r : Pend) : Warp :=
  let f (l : List Split) : List Split := l.map fun q =>
    { q with wins := q.wins ++ (q.wins.filter fun e => e.pend == p).map fun e => { e with pend := r } }
  { w with splits := f w.splits, frozen := w.frozen.map fun z => (f z.1, z.2) }

/-- The lanes of a replay that are with another device: with none left in the entry, its replay runs until they have answered (10
R202); otherwise they are awaited beside the entry. -/
def awaitReplay (s : State) (core q j : Nat) (e : LogEntry) (out : LaneOut) (op : MemOp) : State :=
  match out.ins with
  | none => s
  | some g =>
    let noDst := op.acc == .store || (howOf e.hints).cu
    let i : RemIns := { trapAt := e.at_ core, la := 0, faults := [], entry := if out.trans.isEmpty then some (q, j) else none
                        runsOn := noDst && !out.trans.isEmpty }
    let s := { s with remIns := s.remIns.put g i }
    if out.trans.isEmpty then
      s.modCore core fun c => { c with oplog := c.oplog.put (logKey q j) { e with busy := true } }
    else (dedup out.tags).foldl (fun s t => s.modWarp core e.slot t.1 fun w => w.alsoPend (.log q j) (.remote t.2)) s

/-- Replay: the instruction's unfinished lanes are performed from the entry alone (10 R201). Lanes that still fault stay in
it, under a new record. -/
def replayEntry (s : State) (core q j : Nat) (e : LogEntry) (b : Block) (op : MemOp) : State :=
  let out := runLanes core e.slot e.split b op e.hints s e.accs
  let t := writeVals core e.slot op out
  let (t, w) := watchDone t b.asid out.hits
  let later := dedup (e.deferred ++ out.bad ++ w)
  let t := dropWho t b.asid (· == .log core q j)
  match out.trans with
  | [] =>
    if out.ins.isSome then awaitReplay t core q j { e with deferred := later } out op
    else
      let post := e.post t core q j
      settleFaults (clearLog (freeEntryOf t core q j b.asid) core q j e) (e.at_ core) post later
  | f :: r =>
    let mask := lanesMask ((f :: r).map (·.2.1))
    let t := t.modCore core fun c =>
      { c with oplog := c.oplog.put (logKey q j) { e with lanes := mask, cause := f.2.2.1, deferred := later } }
    let t := awaitReplay t core q j e out op
    queueRecord t b.asid (faultWords t core e.slot e.warp f.2.2.1 op.acc.code f.2.2.2 mask e.pc (some j)) (.log core q j)

/-- Deliver: one trap with the unfinished lanes and the deferred ones (14 R271). Under set or block scope it takes in every log
entry of the instance: each faulting member has its own lanes, and the cause is that of the lowest one (06 R126). -/
def deliverEntry (s : State) (core q j : Nat) (e : LogEntry) (b : Block) : State :=
  let all := ((s.core core).oplog.filter fun f => f.1 == logKey q j || e.sibling f.2)
  let mine := all.flatMap fun f => f.2.accs.map fun a => (a.m, a.l, f.2.cause, a.o)
  let later := all.flatMap fun f => f.2.deferred
  let post := e.post s core q j
  let s := all.foldl (fun s f => clearLog (freeEntryOf s core (f.1 / 16) (f.1 % 16) b.asid) core (f.1 / 16) (f.1 % 16) f.2) s
  match waitingTrap (dedup (mine ++ later)) with
  | some t => deliverTrap s (e.at_ core) { t with post := post } e.cause
  | none => s

/-- Firmware's answer to an entry: 1 replay, 2 deliver, 3 fail; none to an entry whose replay runs (10 R202). -/
def answerEntry (act core q j : Nat) (s : State) : State :=
  match (s.core core).oplog.get? (logKey q j) with
  | none => s
  | some e =>
    if e.busy then s
    else match s.block? core e.slot, (decodeWord e.word).toOption.bind memOpOf with
    | some b, some op =>
      if act = 1 then replayEntry s core q j e b op
      else if act = 2 then deliverEntry s core q j e b
      else if act = 3 then failBlock s core e.slot e.cause
      else s
    | _, _ => s

/-! ### Records that no entry holds (10 R202) -/

/-- A split waits for the answer to a record that names a word: it stands at the word, or before its hint words. -/
def Split.awaits (q : Split) (pc : BitVec 64) : Bool :=
  q.faultWait && (q.pc == pc || q.pc == pc - 4#64 || q.pc == pc - 8#64)

/-- A split that waits for the answer to a record waits no longer. -/
def Split.served (pc : BitVec 64) (q : Split) : Split := if q.awaits pc then { q with faultWait := false } else q

/-- The split of a record issues its instruction again from its registers, or fetches its word again; it may stand in the table
that a handler has frozen. -/
def replayNoLog (s : State) (c slot m k : Nat) (pc : BitVec 64) : State :=
  s.modWarp c slot m fun w =>
    { w with splits := modAt w.splits k (Split.served pc), frozen := w.frozen.map fun f => (modAt f.1 k (Split.served pc), f.2) }

/-- The trap that delivers a record with nolog: every lane of its instance that is not finished, each with the cause of its own
record. -/
def deliverNoLog (s : State) (asid : Nat) (r : FaultRec) (c slot m k : Nat) : State :=
  let redo := (s.split? c slot m k).bind (·.redo)
  let z := match redo with | some z => if z.pc = r.pc then some z else none | none => none
  let members := match z with | some z => z.members | none => []
  let mine (w : Who) : Bool := match w with
    | .noLog c' k' m' q _ => c' == c && k' == slot && q == k && (m' == m || members.contains m')
    | _ => false
  let recs := (s.ctx asid).records.filter fun x => mine x.who
  let lanesOf := recs.flatMap fun x => match x.who with
    | .noLog _ _ m' _ _ => (maskLanes (wordAt x.words 2)).map fun l => (m', l, x.cause, recField x.words 1 0 56)
    | _ => []
  let s := dropWho s asid mine
  let s := (if members.isEmpty then [m] else members).foldl (fun s m => replayNoLog s c slot m k r.pc) s
  let sc := match peekWord s asid r.pc.toNat with | some w => scBits w | none => 1
  let a : TrapAt := { core := c, slot := slot, warp := m, split := k, pc := r.pc, sc := sc, members := members }
  let deferred := match z with | some z => z.deferred | none => []
  match waitingTrap (dedup (lanesOf ++ deferred)) with
  | some t => deliverTrap s a t r.cause
  | none => deliverTrap s a { cause := r.cause, va := recField r.words 1 0 56 } r.cause

/-! ### Traps with firmware (14 R271) -/

/-- A trap record is delivered: the warp enters its handler with the record, resnext set. -/
def deliverRecord (s : State) (r : FaultRec) (c slot m k : Nat) : State :=
  let t : TrapReq := { cause := r.cause, delivered := memoryCause r.cause, resnext := true }
  match s.block? c slot, s.warp? c slot m with
  | some b, some w =>
    if toHandler b w t then
      let w0 := wordAt r.words 0 ||| 0x80000000#64
      let w5 := BitVec.ofNat 64 ((wordAt r.words 5).toNat / 2 ^ 32 * 2 ^ 32)
      let a : TrapAt := { core := c, slot := slot, warp := m, split := k, pc := r.pc, sc := 1, members := w.trapMembers }
      s.modWarp c slot m fun w => { enterHandler b w a (setAt (setAt r.words 0 w0) 5 w5) with suspended := false }
    else failBlock s c slot r.cause
  | _, _ => s

/-- Firmware's answer to a record that no entry holds. -/
def answerNoEntry (act core quarter rseq : Nat) (s : State) : State :=
  let here (r : FaultRec) : Bool := r.rseq.toNat == rseq && r.core == core && r.quarter == quarter && (match r.who with
    | .trap _ _ _ _ => true
    | .noLog _ _ _ _ _ => true
    | .savedTrap _ _ _ _ => r.answer == 0
    | _ => false)
  if act = 0 ∨ 3 < act then s
  else match unanswered s here with
    | none => s
    | some (asid, r) => match r.who with
      | .trap c slot m k =>
        let s := dropRecord s asid r.rseq
        if act = 1 then resumeTrap s c slot m k r.pc (bit (wordAt r.words 0) 31)
        else if act = 2 then deliverRecord s r c slot m k
        else failBlock s c slot r.cause
      | .noLog c slot m k _ =>
        if act = 1 then replayNoLog (dropRecord s asid r.rseq) c slot m k r.pc
        else if act = 2 then deliverNoLog s asid r c slot m k
        else failBlock (dropRecord s asid r.rseq) c slot r.cause
      | .savedTrap _ _ _ _ => s.modCtx asid fun x => { x with records := x.records.map fun q =>
          if q.written && q.rseq == r.rseq then { q with answer := act } else q }
      | _ => s

/-- Firmware's answer through a control word. -/
def answerLog (byRecord : Bool) (act core quarter n : Nat) (s : State) : Host.Outcome State Fault Refusal :=
  .next (if byRecord then answerNoEntry act core quarter n s else answerEntry act core quarter n s)

/-- OPLOG_REPLAY (10 R201, R202). -/
def execOplogReplay (core quarter entry : Nat) (s : State) : Host.Outcome State Fault Refusal :=
  .next (answerEntry 1 core quarter entry s)

/-- OPLOG_DELIVER (10 R202; 14 R271). -/
def execOplogDeliver (core quarter entry : Nat) (s : State) : Host.Outcome State Fault Refusal :=
  .next (answerEntry 2 core quarter entry s)

/-- OPLOG_FAIL (10 R202; 14 R277). -/
def execOplogFail (core quarter entry : Nat) (s : State) : Host.Outcome State Fault Refusal :=
  .next (answerEntry 3 core quarter entry s)

/-- RECORD_REPLAY (10 R202, R206; 14 R271). -/
def execRecordReplay (core quarter rseq : Nat) (s : State) : Host.Outcome State Fault Refusal :=
  .next (answerNoEntry 1 core quarter rseq s)

/-- RECORD_DELIVER. -/
def execRecordDeliver (core quarter rseq : Nat) (s : State) : Host.Outcome State Fault Refusal :=
  .next (answerNoEntry 2 core quarter rseq s)

/-- RECORD_FAIL. -/
def execRecordFail (core quarter rseq : Nat) (s : State) : Host.Outcome State Fault Refusal :=
  .next (answerNoEntry 3 core quarter rseq s)

/-! ### Engines, packets, pipe homes (12 R233; 04 R453; 03 R67) -/

/-- The number under which a pipe home's waits are named, where a core is. -/
def pipeCore : Nat := 770

/-- The unit whose record an event names: a core, the I/O die, the command processor, or the pipe homes. -/
def FaultRec.unit (r : FaultRec) : Nat :=
  match r.who with
  | .engine c _ _ => c
  | .savedOp _ _ _ _ => r.core
  | .vigil _ => ioCore
  | .nsend _ => ioCore
  | .chunk _ _ => ioCore
  | .packet _ => cpCore
  | .pipe _ _ => pipeCore
  | _ => 0xFFFF

/-- Changes a suspended operation of a saved block, if it is still the one of its record. -/
def modSavedOp (s : State) (grid number entry : Nat) (serial : BitVec 32) (f : OpEntry → OpEntry) : State :=
  let h (o : OpEntry) : OpEntry := if o.serial = serial && o.suspended then f o else o
  let g1 (v : Saved) : Saved := if v.block.number.toNat = number then { v with ops := modKey v.ops entry h } else v
  s.modGrid grid fun g => { g with restore := g.restore.map g1, away := g.away.map g1 }

/-- Firmware has served a fault: the access goes on. -/
def serveFault (s : State) (asid : Nat) (r : FaultRec) : State :=
  let t := dropRecord s asid r.rseq
  match r.who with
  | .engine c e n =>
    (match s.op? c e with
      | some o =>
        if !stillWaits s c e n then t
        else if o.kind == .matrix then s else modEng t c e fun o => { o with suspended := false }
      | none => t)
  | .vigil k => modEng t ioCore k fun o => { o with suspended := false }
  | .savedOp g n e k => modSavedOp t g n e k fun o => { o with suspended := false }
  | .nsend key => (match t.nsendWait.find? fun d => d.key == key with
    | some d => nsendDrain t d.source d.ptag t.nsendWait.length
    | none => t)
  | .chunk source tag => settleHolidays (resumeChunk t source tag)
  | .packet k =>
    let t := t.modPkt k fun p => { p with waiting := false }
    (match t.pkts.get? k with
      | some p => if p.kind = 0 then retryError t k else t
      | none => t)
  | .pipe key seq => t.modPipe key fun p => { p with spillWait := p.spillWait.filter (· != seq) }
  | _ => s

/-- Firmware delivers a fault: the operation or the access ends with its cause (14 R271; 04 R453). -/
def deliverFault (s : State) (asid : Nat) (r : FaultRec) : State :=
  let t := dropRecord s asid r.rseq
  let cause := r.cause
  match r.who with
  | .engine c e n => if stillWaits s c e n then opDone t c e cause else t
  | .vigil k => opDone t ioCore k cause
  | .savedOp g n e k => modSavedOp t g n e k fun o =>
      { o with complete := true, consumed := true, status := cause, suspended := false, leave := 0, asks := 0 }
  | .nsend key => (match t.nsendWait.find? fun d => d.key == key with
    | some d =>
      let t := nsendAnswer { t with nsendWait := t.nsendWait.filter fun w => w.key != key } d cause
      nsendDrain t d.source d.ptag t.nsendWait.length
    | none => t)
  | .chunk source tag => settleHolidays (refuseChunk t source tag cause)
  | .packet k =>
    let t := t.modPkt k fun p => { p with waiting := false, fault := some (cause, recField r.words 1 0 56) }
    (match t.pkts.get? k with
      | some p => if p.kind = 0 then retryError t k else t
      | none => t)
  | .pipe key seq => t.modPipe key fun p => { p with spillWait := p.spillWait.filter (· != seq) }
  | _ => s

/-- ENGINE_FAULT_RESUME: firmware has served the fault of an engine's operation, of a packet's access, or of a pipe home's
(12 R233; 04 R453). -/
def execEngineFaultResume (core rseq : Nat) (s : State) : Host.Outcome State Fault Refusal :=
  .next (match unanswered s fun r => r.rseq.toNat == rseq && r.unit == core with
    | some (asid, r) => serveFault s asid r
    | none => s)

/-- ENGINE_FAULT_DELIVER (14 R271; 04 R453). -/
def execEngineFaultDeliver (core rseq : Nat) (s : State) : Host.Outcome State Fault Refusal :=
  .next (match unanswered s fun r => r.rseq.toNat == rseq && r.unit == core with
    | some (asid, r) => deliverFault s asid r
    | none => s)

/-! ### The queue's tail and the dirty flags -/

/-- FAULT_QUEUE_TAIL_WRITE: firmware has consumed records; those that waited for room are written (14 R270). -/
def execFaultQueueTailWrite (asid : Nat) (tail : BitVec 32) (s : State) : Host.Outcome State Fault Refusal :=
  .next (
    let s := s.modCtx asid fun x => { x with fqTail := tail }
    flushRecords s asid (s.ctx asid).records.length)

/-- DIRTY_FLAG_TIMEOUT: a dirty flag gathered in a core's TLB for 1 ms is written to its leaf (10 R199). -/
def execDirtyFlagTimeout (core tlbent : Nat) (s : State) : Host.Outcome State Fault Refusal :=
  .next (match (s.core core).dtlb[tlbent]? with
    | none => s
    | some e =>
      if e.dirtied && decide (1000000 ≤ s.passed e.dirtySince) then
        (gatherDirty s e).modCore core fun c => { c with dtlb := modAt c.dtlb tlbent fun e => { e with dirtied := false } }
      else s)

end Sys2Proof.Machine
end

