-- ==== Sys2Proof/Machine/EvLaunch.lean ====
section
/-! DEFINITION. Launches and what acts on them: kernel objects, core shares, grids and almanacs, drain, resize and cancel
(02 R40 to R43, R452; 03 R48, R49, R61, R68, R74; 04 R84, R85, R453; 17 R318). -/

namespace Sys2Proof.Machine

open Sys2Proof

/-! ### Kernel objects (17 R318, Table 17.11) -/

/-- The checks of a kernel object's header, with the byte of each field. -/
def kernelChecks (ws : List DWord) : List Check :=
  [(0x00, pf ws 0 0 16 != 0xCA16), (0x02, pf ws 0 16 8 != 1), zeroAt ws 0 24 8,
    (0x04, decide (pf ws 0 32 8 < 8) || decide (56 < pf ws 0 32 8) || pf ws 0 32 8 % 8 != 0),
    (0x05, decide (192 < pf ws 0 40 8) || pf ws 0 40 8 % 16 != 0), (0x06, decide (8 < pf ws 0 48 4)),
    (0x06, pf ws 0 52 2 == 3), (0x06, decide (pf ws 0 54 7 < 4) || decide (64 < pf ws 0 54 7) || pf ws 0 54 7 % 4 != 0),
    zeroAt ws 0 63 1, zeroAt ws 8 29 35, zeroAt ws 0x10 24 8, (0x14, decide (524288 < pf ws 0x10 32 20)), zeroAt ws 0x10 52 12,
    zeroAt ws 0x18 12 52, zeroAt ws 0x28 8 56, (0x30, pf ws 0x30 0 32 % 4 != 0), zeroAt ws 0x30 32 32, zeroAt ws 0x38 0 64]

/-- What a header declares. -/
def kernelOf (addr : Nat) (ws : List DWord) : Kernel :=
  { addr := BitVec.ofNat 64 addr, d := pf ws 0 32 8, i := pf ws 0 40 8, t := pf ws 0 48 4, items := pf ws 0 52 2
    lanesN := pf ws 0 54 7, replayable := pf ws 0 61 1 == 1, inbound := pf ws 0 62 1 == 1, trap := wordAt ws 1
    refill := pf ws 0x10 0 24, scratch := pf ws 0x10 32 20, gsize := pf ws 0x18 0 6 + 1, far := pf ws 0x18 6 1 == 1
    warps := pf ws 0x18 7 5 + 1, inregs := wordAt ws 4, intiles := BitVec.ofNat 8 (pf ws 0x28 0 8), code := pf ws 0x30 0 32 }

/-- What reading a kernel object comes to. -/
inductive KernelRead where
  /-- its header is in order -/
  | ok (k : Kernel)
  /-- a field breaks its range: its byte -/
  | broken (byte : Nat)
  /-- the access stopped -/
  | stopped (e : PStop)
deriving DecidableEq, Repr

/-- Reads and checks the header of a kernel object for a packet. An object that is not 64-byte aligned breaks R318 at its
first byte. -/
def readKernel (s : State) (k : Nat) (p : Packet) (addr : Nat) : KernelRead × State :=
  if addr % 64 ≠ 0 then (.broken 0, s)
  else match cpBytes s k p addr 64 with
    | (.error e, s) => (.stopped e, s)
    | (.ok bs, s) =>
      let ws := wordsOf 8 bs
      (match firstBad (kernelChecks ws) with
        | some o => .broken o
        | none => .ok (kernelOf addr ws), s)

/-- A launch ends without starting: status and offset (03 R49; 17 R318). -/
def refuseLaunch (s : State) (k status offset : Nat) : State :=
  (endPkt s k status).modPkt k fun p => { p with offset := offset }

/-- A read for a launch has stopped: it waits, or the launch ends with the cause and the offset of the first byte not read,
counted from `base` (04 R453). -/
def stopLaunch (s : State) (k base : Nat) : PStop → State
  | .fault c va => cpSuspend s k c 4 va
  | .bad c va => refuseLaunch s k c (va - base)
  | .waits => s

/-! ### Core shares (02 R452) -/

/-- The exposed cores of the dies of a mask that are in service. -/
def permittedCores (s : State) (dies : BitVec 6) : List Nat :=
  (List.range 768).filter fun c => bit dies (coreDie c) && !(s.core c).halted && !(s.core c).withdrawn

/-- Cores in the order in which a share takes them: most free warp slots, then the lowest number. -/
def shareOrder (s : State) (cs : List Nat) : List Nat :=
  let l := cs.map fun c => (c, freeWarps s c)
  (List.range 97).reverse.flatMap fun f => (l.filter fun x => x.2 == f).map (·.1)

/-- The share that a launch takes: `n` cores, or all that there are. -/
def takeShare (s : State) (dies : BitVec 6) (n : Nat) (held : List Nat) : List Nat :=
  (shareOrder s ((permittedCores s dies).filter fun c => !held.contains c)).take n

/-! ### Launching a grid (04 Tables 4.2, 4.3) -/

/-- A grid as it is launched: nothing placed, its queue full. -/
def newGrid (s : State) (asid pkt : Nat) (p : Packet) (kernel : Kernel) : Grid :=
  { asid := asid, alm := none, stage := 0, pkt := pkt, launch := p.launch, kernel := kernel, params := 0, qpipe := none
    next := 0, stop := 0, returned := [], returns := [], share := [], minShare := 0, maxShare := 768, dies := 0, prio := 0
    span := false, placed := 0, gangs := 0, resident := 0, prologues := [], downgrade := false, restore := [], away := []
    complete := false, status := 0, doneAt := 0, dropped := 0, moved := none, recorded := false, cancelled := false
    supervisor := (s.ctx asid).firmware }

/-- The packet's action has been performed; its end comes later. -/
def actPkt (s : State) (k : Nat) : State := s.modPkt k fun p => { p with st := .acting, fault := none, got := [] }

/-- LAUNCH_GRID: the kernel's header is read and checked, the share chosen, and the grid runs (02 R452; 17 R318). -/
def execLaunchGrid (pkt : Nat) (s : State) : Host.Outcome State Fault Refusal :=
  .next (actOn s pkt 1 fun p ws =>
    match readKernel s pkt p (pf ws 0 0 56) with
    | (.stopped e, s) => stopLaunch s pkt (pf ws 0 0 56) e
    | (.broken o, s) => refuseLaunch s pkt 0x1E4 o
    | (.ok k, s) =>
      let dies := BitVec.ofNat 6 (pf ws 0x20 10 6)
      let g := { newGrid s p.asid pkt p k with
        params := BitVec.ofNat 64 (pf ws 8 0 56), next := pf ws 0x10 0 64, stop := pf ws 0x10 0 64 + pf ws 0x18 0 64
        share := takeShare s dies (pf ws 0x20 0 10) [], dies := dies, prio := pf ws 0x20 16 3, span := pf ws 0x20 19 1 == 1
        prologues := (List.range (pf ws 0x20 20 3)).map fun i => (List.range 8).map fun j => wordAt ws (8 + 8 * i + j) }
      let s := { actPkt s pkt with grids := s.grids.put s.nextGrid g, nextGrid := s.nextGrid + 1 }
      settleGrids s)

/-! ### The checks of an almanac (03 R49, Tables 3.1 to 3.4) -/

/-- Checks moved by an offset. -/
def checksAt (base : Nat) (l : List Check) : List Check := l.map fun c => (base + c.1, c.2)

/-- Header and policy block. -/
def almChecks (ws : List DWord) : List Check :=
  let on := pf ws 0x40 0 2 == 1
  [(0, pf ws 0 0 16 != 1), (2, pf ws 0 16 6 == 0 || decide (32 < pf ws 0 16 6)), zeroAt ws 0 22 2, (3, decide (128 < pf ws 0 24 8)),
    (0x10, pf ws 0x10 0 6 != 0), zeroAt ws 0x10 56 8, zeroBytes ws 0x18 0x28,
    (0x40, decide (2 ≤ pf ws 0x40 0 2)), zeroAt ws 0x40 2 6, (0x41, on && decide (50 < pf ws 0x40 8 7)), zeroAt ws 0x40 15 1,
    (0x42, on && pf ws 0x40 16 16 == 0), (0x44, on && (pf ws 0x40 32 8 == 0 || decide (128 < pf ws 0x40 32 8))), zeroAt ws 0x40 40 24,
    zeroBytes ws 0x48 0x38]

/-- Entry `i` of the record, from the stage entries on. -/
def almEntry (ws : List DWord) (i : Nat) : List DWord := (List.range 8).map fun j => wordAt ws (16 + 8 * i + j)

/-- The producer stage of a pipe entry is of this device. -/
def entryProd (e : List DWord) : Bool := pf e 0 6 2 != 2 || pf e 0x28 17 1 == 1

/-- The consumer stage of a pipe entry is of this device. -/
def entryCons (e : List DWord) : Bool := pf e 0 6 2 != 2 || pf e 0x28 17 1 == 0

/-- A stage entry; `items` is its kernel's granularity, none where the kernel's header is broken. Bits [63:56] of words 0x00 and 0x20, which
Table 3.3 does not name, must be zero as reserved ones must (DESIGN CHOICE, log 63). -/
def stageChecks (pipes : List (List DWord)) (i : Nat) (items : Option Nat) (e : List DWord) : List Check :=
  let lo := pf e 8 2 10
  let hi := pf e 8 22 10
  [(0, items.isNone), zeroAt e 0 56 8, (8, pf e 8 0 2 == 3 || some (pf e 8 0 2) != items), (8, lo == 0 || decide (768 < lo)),
    (9, decide (pf e 8 12 10 < lo) || decide (hi < pf e 8 12 10)), (10, decide (hi < lo) || decide (768 < hi)), (12, pf e 8 32 6 == 0),
    (13, pf e 8 42 1 == 1 && (match pipes[pf e 8 43 7]? with | some q => !entryCons q || pf q 0 40 5 != i | none => true)),
    zeroAt e 8 50 14, (0x18, decide (2 ^ 64 < pf e 0x10 0 64 + pf e 0x18 0 64)), zeroAt e 0x20 56 8, zeroBytes e 0x28 24]

/-- Bits of an element of a slot (03 Table 3.4). -/
def elementBits (f : Nat) : Nat := [8, 32, 16, 16, 8, 8, 6, 6, 4, 8, 8, 16, 32, 64, 64].getD f 8

/-- Bytes of a pipe's shape. -/
def shapeBytes (e : List DWord) : Nat := (pf e 8 0 16 * pf e 8 16 16 * pf e 8 32 16 * elementBits (pf e 0 0 4) + 7) / 8

/-- The die that a mask of one die names. -/
def oneDie (m : Nat) : Option Nat := (List.range 6).find? fun d => m == 2 ^ d

/-- The die of a die-scope pipe, if both stages lie wholly on it (03 R68). -/
def pipeDie (stages : List (List DWord)) (e : List DWord) : Option Nat :=
  let mask (i : Nat) : Nat := match stages[i]? with | some x => pf x 8 32 6 | none => 0
  (oneDie (mask (pf e 0 32 5))).filter fun d => mask (pf e 0 40 5) == 2 ^ d

/-- The slices on which a pipe's home may lie (03 R49, R68). -/
def homeSlices (stages : List (List DWord)) (e : List DWord) : List Nat :=
  if pf e 0 6 2 = 0 then (match pipeDie stages e with | some d => (List.range 32).map (32 * (d / 2) + ·) | none => [])
  else List.range 96

/-- A pipe entry, but for its reservation and its home entry. Bits [63:56] of word 0x20, which Table 3.4 does not name, must be zero as
reserved ones must (DESIGN CHOICE, log 63). -/
def pipeChecks (stages : List (List DWord)) (e : List DWord) : List Check :=
  let rank := pf e 0 4 2
  let home := pf e 0x18 16 8
  [(0, pf e 0 0 4 == 15), (0, rank == 0), (0, pf e 0 6 2 == 3), (0, pf e 0 6 2 == 0 && ((pipeDie stages e).isNone
      || (home != 0xFF && !(homeSlices stages e).contains home))), zeroAt e 0 9 7,
    (2, decide (pf e 0 16 13 < 2) || decide (4096 < pf e 0 16 13)), zeroAt e 0 29 3,
    (4, entryProd e && decide (stages.length ≤ pf e 0 32 5)), zeroAt e 0 37 3,
    (5, entryCons e && decide (stages.length ≤ pf e 0 40 5)), zeroAt e 0 45 3, (6, decide (100 < pf e 0 48 7)), zeroAt e 0 55 9,
    (8, pf e 8 0 16 == 0), (10, pf e 8 16 16 == 0 || (decide (rank < 2) && pf e 8 16 16 != 1)),
    (12, pf e 8 32 16 == 0 || (decide (rank < 3) && pf e 8 32 16 != 1)), zeroAt e 8 48 16,
    (0x10, pf e 0x10 0 21 % 128 != 0 || decide (1048576 < pf e 0x10 0 21) || decide (pf e 0x10 0 21 < shapeBytes e)),
    zeroAt e 0x10 21 43, (0x18, decide (pf e 0 16 13 < pf e 0x18 0 13)), zeroAt e 0x18 13 3,
    (0x1A, home != 0xFF && decide (96 ≤ home)), zeroAt e 0x18 24 40, (0x20, pf e 0x20 0 12 != 0), zeroAt e 0x20 56 8,
    zeroAt e 0x28 18 46, zeroBytes e 0x30 16]

/-! ### Reservations and home entries (03 R49, R54, R61) -/

/-- Lines of a list of lines homed on each slice. -/
def sliceCounts (ls : List Nat) : List Nat := ls.foldl (fun t a => modAt t (homeSlice a) (· + 1)) (List.replicate 96 0)

/-- Sums of two lists of counts. -/
def addCounts (a b : List Nat) : List Nat := List.zipWith (· + ·) a b

/-- Lines that the pipes of every almanac pin, by slice. -/
def pinnedCounts (s : State) : List Nat :=
  s.pipes.foldl (fun t p => addCounts t (sliceCounts (rangeLines p.2.pins))) (List.replicate 96 0)

/-- The physical ranges of a pipe entry's reservation. A reservation larger than all slices can pin has none, and fails. -/
def entryPins (s : State) (asid : Nat) (e : List DWord) : Option (List (Nat × Nat)) :=
  let n := pf e 0x18 0 13 * pf e 0x10 0 21
  if 96 * 2 ^ 22 < n then none
  else some (physRanges s asid (pf e 0x20 0 56) (pf e 0x20 0 56 + n))

/-- The reservations of the pipes in order: none for one that R61 forbids. -/
def takePins (s : State) (asid : Nat) : List Nat → List (List DWord) → List (Option (List (Nat × Nat)))
  | _, [] => []
  | have_, e :: r => match entryPins s asid e with
    | none => none :: takePins s asid have_ r
    | some l =>
      let sum := addCounts have_ (sliceCounts (rangeLines l))
      if sum.all fun n => decide (128 * n ≤ 2 ^ 22) then some l :: takePins s asid sum r else none :: takePins s asid have_ r

/-- The lowest free entry of a slice, over the entries taken. -/
def freeHome (taken : List (Nat × Nat)) (slice : Nat) : Option Nat := (List.range 64).find? fun j => !taken.contains (slice, j)

/-- The homes of the pipes in order: slice and entry. Where the record leaves the slice open the command processor chooses
freely among those with an entry (log 2). -/
def takeHomes (stages : List (List DWord)) : List (Nat × Nat) → List (List DWord) → State → List (Option (Nat × Nat)) × State
  | _, [], s => ([], s)
  | taken, e :: r, s =>
    let home := pf e 0x18 16 8
    let slices := (if home = 0xFF then homeSlices stages e else [home]).filter fun x => (freeHome taken x).isSome
    let (pick, s) := if home = 0xFF then s.draw else (0, s)
    match slices[pick % slices.length]? with
    | none => let (l, s) := takeHomes stages taken r s
      (none :: l, s)
    | some sl =>
      let h := (sl, (freeHome taken sl).getD 0)
      let (l, s) := takeHomes stages (h :: taken) r s
      (some h :: l, s)

/-- Home entries in use. -/
def homesTaken (s : State) : List (Nat × Nat) := s.pipes.map fun p => (p.2.slice, p.2.entry)

/-- The initial shares of the stages in almanac order (02 R452). -/
def takeShares (s : State) : List Nat → List (List DWord) → List (List Nat)
  | _, [] => []
  | held, e :: r =>
    let sh := takeShare s (BitVec.ofNat 6 (pf e 8 32 6)) (pf e 8 12 10) held
    sh :: takeShares s (held ++ sh) r

/-! ### Launching an almanac (03 R48, R49) -/

/-- Reads the kernels of the stages in order. -/
def readKernels (s : State) (k : Nat) (p : Packet) : List (List DWord) → List (Option Kernel) →
    Except (PStop × Nat) (List (Option Kernel)) × State
  | [], acc => (.ok acc.reverse, s)
  | e :: r, acc =>
    let addr := pf e 0 0 56
    match readKernel s k p addr with
    | (.stopped x, s) => (.error (x, addr), s)
    | (.broken _, s) => readKernels s k p r (none :: acc)
    | (.ok q, s) => readKernels s k p r (some q :: acc)

/-- A stage of an accepted almanac. -/
def stageGrid (s : State) (pkt : Nat) (p : Packet) (n i : Nat) (e : List DWord) (kernel : Kernel) (share : List Nat) : Grid :=
  { newGrid s p.asid pkt p kernel with
    alm := some n, stage := i, params := BitVec.ofNat 64 (pf e 0x20 0 56)
    qpipe := if pf e 8 42 1 = 1 then some (pipeKey p.asid n (pf e 8 43 7)) else none
    next := pf e 0x10 0 64, stop := pf e 0x10 0 64 + pf e 0x18 0 64, share := share, minShare := pf e 8 2 10
    maxShare := pf e 8 22 10, dies := BitVec.ofNat 6 (pf e 8 32 6), prio := pf e 8 38 3, span := pf e 8 41 1 == 1 }

/-- A pipe of an accepted almanac (03 R54). -/
def newPipe (s : State) (e : List DWord) (home : Nat × Nat) (pins : List (Nat × Nat)) : Pipe :=
  { efmt := pf e 0 0 4, rank := pf e 0 4 2, scope := pf e 0 6 2, unord := pf e 0 8 1 == 1, depth := pf e 0 16 13
    prod := pf e 0 32 5, cons := pf e 0 40 5, target := pf e 0 48 7, dims := [pf e 8 0 16, pf e 8 16 16, pf e 8 32 16]
    ssize := pf e 0x10 0 21, resident := pf e 0x18 0 13, slice := home.1, entry := home.2
    array := BitVec.ofNat 64 (pf e 0x20 0 56), peer := pf e 0x28 0 10, peerPipe := pf e 0x28 10 7, nearSide := pf e 0x28 17 1 == 1
    nextGrant := 0, base := 0, head := 0, slots := [], commitQ := [], inflight := [], freeing := [], closed := false
    eosSeq := none, eos := false, commits := 0, frees := 0, spills := 0, lastStamp := 0, freeTs := [], endTs := 0, ets := 0, returned := []
    matched := false
    born := s.kalends.toNat, peerLost := false, wanted := [], pins := pins, spillWait := [] }

/-- An almanac as it is accepted. -/
def newAlmanac (ws : List DWord) (pkt : Nat) (stages : List Nat) : Almanac :=
  { pkt := pkt, tag := wordAt ws 1, crec := BitVec.ofNat 64 (pf ws 0x10 0 56)
    handoffTo := if pf ws 0 32 16 = 0 then 2000 else pf ws 0 32 16, dlThresh := if pf ws 0 48 16 = 0 then 20 else pf ws 0 48 16
    mode := pf ws 0x40 0 2, hyst := pf ws 0x40 8 7, minInt := pf ws 0x40 16 16, maxMoves := pf ws 0x40 32 8, stages := stages
    npipes := pf ws 0 24 8, draining := false, drainers := [], cycles := [] }

/-- Adds the stages of an accepted almanac. -/
def addStages (s : State) (pkt : Nat) (p : Packet) (n : Nat) (l : List (List DWord × Kernel × List Nat)) : State :=
  l.zipIdx.foldl (fun s x =>
    { s with
      grids := s.grids.put s.nextGrid (stageGrid s pkt p n x.2 x.1.1 x.1.2.1 x.1.2.2), nextGrid := s.nextGrid + 1 }) s

/-- Adds the pipes of an accepted almanac; a pod-scope pipe is declared to its peer (03 R69). -/
def addPipes (s : State) (asid n : Nat) (l : List (List DWord × (Nat × Nat) × List (Nat × Nat))) : State :=
  l.zipIdx.foldl (fun s x =>
    let q := newPipe s x.1.1 x.1.2.1 x.1.2.2
    let s := { s with pipes := s.pipes.put (pipeKey asid n x.2) q }
    if q.scope = 2 then s.send (.declare q.peer q.peerPipe q.image) else s) s

/-- Accepts an almanac under its number. -/
def acceptAlm (s : State) (pkt : Nat) (p : Packet) (ws : List DWord) (n : Nat) (stages : List (List DWord × Kernel × List Nat))
    (pipes : List (List DWord × (Nat × Nat) × List (Nat × Nat))) : State :=
  let a := newAlmanac ws pkt ((List.range stages.length).map (s.nextGrid + ·))
  let s := (actPkt s pkt).modCtx p.asid fun x => { x with alms := x.alms.put n a }
  settleGrids (addPipes (addStages s pkt p n stages) p.asid n pipes)

/-- An almanac whose record has been read: checked, and accepted or rejected (03 R49). -/
def launchAlm (s : State) (pkt : Nat) (p : Packet) (ws : List DWord) (ks : List (Option Kernel)) : State :=
  let ns := pf ws 0 16 6
  let stages := (List.range ns).map (almEntry ws)
  let pipes := (List.range (pf ws 0 24 8)).map fun i => almEntry ws (ns + i)
  let plain := almChecks ws
    ++ stages.zipIdx.flatMap (fun e =>
      checksAt (128 + 64 * e.2) (stageChecks pipes e.2 ((ks.getD e.2 none).map (·.items)) e.1))
    ++ pipes.zipIdx.flatMap (fun e => checksAt (128 + 64 * (ns + e.2)) (pipeChecks stages e.1))
  let shares := takeShares s [] stages
  let pins := takePins s p.asid (pinnedCounts s) pipes
  let (homes, s) := takeHomes stages (homesTaken s) pipes s
  let short := (stages.zip shares).zipIdx.map fun x => (128 + 64 * x.2 + 8, decide (x.1.2.length < pf x.1.1 8 2 10))
  let unpinned := pins.zipIdx.map fun x => (128 + 64 * (ns + x.2) + 0x18, x.1.isNone)
  let homeless := homes.zipIdx.map fun x => (128 + 64 * (ns + x.2) + 0x1A, x.1.isNone)
  let full : Check := (0, decide (16 ≤ (s.ctx p.asid).alms.length))
  match firstBad (full :: plain ++ short ++ unpinned ++ homeless) with
  | some o => refuseLaunch s pkt 0x1E4 o
  | none =>
    let n := ((s.ctx p.asid).alms.firstFree 16 0).getD 0
    acceptAlm s pkt p ws n (stages.zip ((ks.filterMap id).zip shares)) (pipes.zip ((homes.filterMap id).zip (pins.filterMap id)))

/-- LAUNCH_ALMANAC: the record and its kernels are read, checked, and the almanac starts (03 R48, R49). -/
def execLaunchAlmanac (pkt : Nat) (s : State) : Host.Outcome State Fault Refusal :=
  .next (actOn s pkt 2 fun p ws =>
    let at_ := pf ws 0 0 56
    if at_ % 64 ≠ 0 then refuseLaunch s pkt 0x1E4 0
    else match cpBytes s pkt p at_ 128 with
      | (.error e, s) => stopLaunch s pkt at_ e
      | (.ok bs, s) =>
        let hs := wordsOf 16 bs
        match firstBad (almChecks hs) with
        | some o => refuseLaunch s pkt 0x1E4 o
        | none =>
          let n := pf hs 0 16 6 + pf hs 0 24 8
          match cpBytes s pkt p (at_ + 128) (64 * n) with
          | (.error e, s) => stopLaunch s pkt at_ e
          | (.ok rest, s) =>
            let ws := hs ++ wordsOf (8 * n) rest
            match readKernels s pkt p ((List.range (pf hs 0 16 6)).map (almEntry ws)) [] with
            | (.error (e, base), s) => stopLaunch s pkt base e
            | (.ok ks, s) => launchAlm s pkt p ws ks)

/-! ### Drain and resize (03 R71, R74) -/

/-- DRAIN: the index ranges of an almanac are exhausted; the packet ends with it (03 R74). -/
def execDrain (pkt : Nat) (s : State) : Host.Outcome State Fault Refusal :=
  .next (actOn s pkt 7 fun p ws =>
    let n := pf ws 0 0 4
    match alm? s p.asid n with
    | none => endPkt s pkt 0
    | some a =>
      let s := a.stages.foldl (fun s gk => match s.grids.get? gk with
        | some g => if g.complete || g.qpipe.isSome then s else dropRange s gk
        | none => s) s
      let s := modAlm s p.asid n fun a => { a with draining := true, drainers := a.drainers ++ [pkt] }
      settleGrids (actPkt s pkt))

/-- A named core may go from a donor to a receiver: in the donor's share, of a die the receiver permits, both shares in
bounds (03 R71, R72). -/
def resizable (s : State) (donor receiver c : Nat) : Bool :=
  match s.grids.get? donor, s.grids.get? receiver with
  | some d, some r => donor != receiver && !r.complete && decide (d.minShare + leavingCores s donor < d.share.length) && (movable s d r).contains c
      && decide (r.share.length + comingCores s receiver < r.maxShare)
  | _, _ => false

/-- RESIZE: handoff of the named cores; the packet ends when each has finished (03 R71, R72; 04 Table 4.2). -/
def execResize (pkt : Nat) (s : State) : Host.Outcome State Fault Refusal :=
  .next (actOn s pkt 8 fun p ws =>
    match alm? s p.asid (pf ws 0 0 4) with
    | none => endPkt s pkt 0
    | some a => match a.stages[pf ws 0 4 5]?, a.stages[pf ws 0 9 5]? with
      | some d, some r =>
        let named := (List.range (pf ws 0 14 10)).map fun i => pf ws (8 + 2 * i / 8 * 8) (16 * (i % 4)) 16
        let (marked, s) := named.foldl (fun (x : List Nat × State) c =>
          if resizable x.2 d r c then (x.1 ++ [c], markHandoff x.2 c d r a.handoffTo) else x) ([], s)
        if marked.isEmpty then endPkt s pkt 0
        else (actPkt s pkt).modPkt pkt fun p => { p with cores := marked }
      | _, _ => endPkt s pkt 0)

/-! ### Cancel (04 R85) -/

/-- Everything of a grid that runs or is saved ends; its indices are dropped; it completes with 0x1EE. -/
def cancelGrid (s : State) (gk : Nat) : State :=
  match s.grids.get? gk with
  | none => s
  | some g =>
    if g.complete then s.modGrid gk fun g => { g with cancelled := true }
    else
      let s := dropRange (killGrid (s.modGrid gk fun g => { g with cancelled := true }) gk) gk
      match s.grids.get? gk with
      | some g => if g.complete then s else completeGrid s gk g 0x1EE
      | none => s

/-- A pod-scope pipe that is still open is closed on the far device, as if by QCLOSE. -/
def closeFar (s : State) (p : Pipe) : State := if p.scope = 2 && !p.closed then s.send (.close p.peer p.peerPipe) else s

/-- Reserved numbers of a pipe become void, and the pipe is closed. -/
def cancelPipe (s : State) (key : Nat) : State :=
  match s.pipes.get? key with
  | none => s
  | some p =>
    let ns := (p.slots.filter fun x => match x.2.st with | .reserved _ _ _ => true | _ => false).map fun x => (key, x.1)
    closePipe (voidReserved s ns) key

/-- Cancels an almanac: its open pod-scope pipes on the far device, its stages, then its pipes. Its records are still to be written. -/
def cancelAlm (s : State) (asid n : Nat) (a : Almanac) : State :=
  let s := (almPipes s asid n).foldl (fun s p => closeFar s p.2) s
  let s := a.stages.foldl (fun s gk => s.modGrid gk fun g => { g with cancelled := true }) s
  let s := a.stages.foldl cancelGrid s
  (almPipes s asid n).foldl (fun s p => cancelPipe s p.1) s

/-- CANCEL (04 R85). -/
def execCancel (pkt : Nat) (s : State) : Host.Outcome State Fault Refusal :=
  .next (control s pkt 10 fun _ ws =>
    let asid := pf ws 0x18 0 10
    if pf ws 8 0 1 = 0 then
      match alm? s asid (pf ws 8 8 4) with
      | none => endPkt s pkt 0x1EE
      | some a => endPkt (cancelAlm s asid (pf ws 8 8 4) a) pkt 0
    else
      match s.grids.find? fun g => g.2.asid == asid && g.2.alm.isNone && !g.2.complete
          && g.2.launch == BitVec.ofNat 32 (pf ws 0x10 0 32) with
      | none => endPkt s pkt 0x1EE
      | some g => endPkt (cancelGrid s g.1) pkt 0)

end Sys2Proof.Machine
end

