-- ==== Sys2Proof/Machine/EvMemory.lean ====
section
/-! DEFINITION. The events of the memory system: requests on their way to and from the homes, self-expiry, rebasing, and pod-remote
accesses (08 R155, R160 to R165; 09 R184, R192; 01 R18). -/

namespace Sys2Proof.Machine

open Sys2Proof

/-! ### Requests of a core on their way (08 R160, R162, R173) -/

/-- The oldest miss-status entry of a core for a line that satisfies a condition: its place and what it tracks. -/
def missOf (s : State) (c line : Nat) (f : Miss → Bool) : Option (Nat × Miss) :=
  (findIdx (fun p : Nat × Miss => p.1 == line && f p.2) (s.core c).mshr).map fun p => (p.1, p.2.2)

/-- Takes a miss-status entry out. -/
def dropMiss (s : State) (c i : Nat) : State := s.modCore c fun k => { k with mshr := k.mshr.eraseIdx i }

/-- A merging fill that waits to be served. -/
def Miss.isFill : Miss → Bool
  | .fill _ => true
  | _ => false

/-- A merging fill on its way back. -/
def Miss.isBack : Miss → Bool
  | .back _ _ _ _ => true
  | _ => false

/-- A masked write home on its way. -/
def Miss.isWrite : Miss → Bool
  | .write _ _ _ => true
  | _ => false

/-- An atomic on its way. -/
def Miss.isAtomic : Miss → Bool
  | .atomic _ _ _ _ => true
  | _ => false

/-- HOME_READ: the home serves a core's merging fill, a read event, after the core's own writes to the line (08 R160,
Table 8.8). -/
def execHomeRead (src line : Nat) (s : State) : Host.Outcome State Fault Refusal :=
  .next (match missOf s src line Miss.isFill with
    | some (i, .fill asid) =>
      let s := drainWrites (dropMiss s src i) src (some line) false
      let (h, s) := homeRead s line (s.core src).pts (leaseOf s asid) false
      s.modCore src fun k => { k with mshr := k.mshr ++ [(line, .back h.data h.wts h.rts asid)] }
    | _ => s)

/-- FILL_RESPONSE: the line merges into L1D, with its lease (08 R160). The core's writes to the line that are on their way are
performed first: its lease time then lies beyond the fill's, and no load goes back behind them (09 R177, R183). -/
def execFillResponse (core line : Nat) (s : State) : Host.Outcome State Fault Refusal :=
  .next (match missOf s core line Miss.isBack with
    | some (i, .back d wts rts asid) =>
      let s := drainWrites (dropMiss s core i) core (some line) false
      pmCount (mergeFill s core asid line d wts rts) core asid 6 1
    | _ => s)

/-- Context that an access of a core's line counts for: that of its block in the lowest slot, for a line holds no context of its own
(DESIGN CHOICE, log 58). -/
def lineAsid (s : State) (c : Nat) : Nat :=
  match s.blocks.find? fun p => p.1 / 96 == c with
  | some p => p.2.asid
  | none => 1024

/-- DIRTY_WRITE_HOME: dirty words of a line set out for the home, and stay valid and clean (08 R160; 09 R184). -/
def execDirtyWriteHome (core line : Nat) (words : BitVec 32) (s : State) : Host.Outcome State Fault Refusal :=
  .next (match (s.core core).l1d.get? line with
    | none => s
    | some x =>
      if x.dirty &&& words = 0#32 || missFull s core then s
      else s.modCore core fun k => { k with
        l1d := k.l1d.put line { x with dirty := x.dirty &&& ~~~words }
        mshr := k.mshr ++ [(line, .write (lineAsid s core) (x.dirty &&& words) x.data)] })

/-- HOME_WRITE: a masked write of a core is performed at home, a write event (08 R162, Table 8.8). -/
def execHomeWrite (src line : Nat) (s : State) : Host.Outcome State Fault Refusal :=
  .next (match missOf s src line Miss.isWrite with
    | some (i, .write asid m d) => writeWords (dropMiss s src i) src asid line m d false
    | _ => s)

/-- HOME_ATOMIC: an atomic of a core is performed at home, after its writes to the line (08 R160, R162, Table 8.8). -/
def execHomeAtomic (src line : Nat) (s : State) : Host.Outcome State Fault Refusal :=
  .next (match missOf s src line Miss.isAtomic with
    | some (i, .atomic asid op o x) => (atomicHome (dropMiss s src i) src asid line o op x.toNat false).2
    | _ => s)

/-! ### Lease time (08 R162, R165) -/

/-- PTS_SELF_EXPIRY: a core's pts advances by one every 4,096 core cycles (08 Table 8.8). -/
def execPtsSelfExpiry (core : Nat) (s : State) : Host.Outcome State Fault Refusal :=
  .next (if core < 768 ∧ (s.core core).ptsAt + 4096 ≤ s.cycle.toNat then
      s.modCore core fun x => { x with pts := x.pts + 1, ptsAt := x.ptsAt + 4096 }
    else s)

/-- Timestamps of a core: its own, those of its operations and of its warps, and those on their way to it. -/
def Core.stamps (x : Core) : List (BitVec 20) :=
  x.pts :: x.scrTs :: x.opTs.map (·.2) ++ x.ops.map (fun o => o.2.ets) ++ x.mshr.flatMap fun m => match m.2 with | .back _ w r _ => [w, r] | _ => []

/-- The timestamps of a warp. -/
def Warp.stamps (w : Warp) : List (BitVec 20) :=
  w.ets :: w.splits.map (·.seen) ++ (match w.frozen with | some z => z.1.map (·.seen) | none => [])

/-- The timestamps of a pipe. -/
def Pipe.stamps (p : Pipe) : List (BitVec 20) := p.ets :: p.endTs :: p.freeTs.map (·.2) ++ p.slots.map fun x => x.2.cts

/-- Every timestamp in use. -/
def allStamps (s : State) : List (BitVec 20) :=
  s.remTs :: s.mts.map (·.2) ++ s.ctrTs.map (·.2) ++ s.dies.flatMap (fun d => d.2.ctrTs.map (·.2)) ++ s.l2.flatMap (fun h => [h.2.wts, h.2.rts])
    ++ s.cores.flatMap (fun c => c.2.stamps) ++ s.blocks.flatMap (fun b => b.2.warps.flatMap Warp.stamps)
    ++ s.pipes.flatMap (fun p => p.2.stamps) ++ s.pkts.map (·.2.ts)
    ++ s.vigils.flatMap (fun v => v.2.fireTs :: v.2.op.toList.map (·.ets))
    ++ s.grids.flatMap fun g => (g.2.restore ++ g.2.away).flatMap fun v =>
      v.pts :: v.ops.map (fun o => o.2.ets) ++ v.block.warps.flatMap Warp.stamps

/-- LEASESTAT (08 Table 8.9): the rebases, the largest timestamp in use when it is read, and whether one is in progress. -/
def leaseStat (s : State) : DWord :=
  BitVec.ofNat 64 (s.rebases.toNat + ((allStamps s).foldl tsMax 0#20).toNat * 2 ^ 32 + b2n s.rebasing * 2 ^ 52)

/-- A timestamp after a rebase: 0x8_0000 less, with a floor of 0. -/
def rebased (t : BitVec 20) : BitVec 20 := if t.toNat < 0x80000 then 0 else t - 0x80000#20

/-- An operation after a rebase. -/
def OpEntry.rebase (o : OpEntry) : OpEntry := { o with ets := rebased o.ets }

/-- A warp after a rebase. -/
def Warp.rebase (w : Warp) : Warp :=
  let f (l : List Split) : List Split := l.map fun q => { q with seen := rebased q.seen }
  { w with ets := rebased w.ets, splits := f w.splits, frozen := w.frozen.map fun z => (f z.1, z.2) }

/-- A core after a rebase: clean L1D words are gone, dirty ones stay. A fill on its way back, whose words would be clean, is asked
for again (DEDUCED, log 59). -/
def Core.rebase (x : Core) : Core :=
  { x with
    pts := rebased x.pts
    l1d := (x.l1d.map fun p => (p.1, { p.2.dropClean with lrts := rebased p.2.lrts })).filter fun p => p.2.dirty != 0#32
    ops := x.ops.map fun o => (o.1, o.2.rebase)
    mshr := x.mshr.map fun m => match m.2 with | .back _ _ _ asid => (m.1, .fill asid) | q => (m.1, q)
    scrTs := rebased x.scrTs
    opTs := x.opTs.map fun o => (o.1, rebased o.2) }

/-- A saved block after a rebase. -/
def Saved.rebase (v : Saved) : Saved :=
  { v with
    pts := rebased v.pts
    ops := v.ops.map fun o => (o.1, o.2.rebase)
    block := { v.block with warps := v.block.warps.map Warp.rebase } }

/-- A pipe after a rebase. -/
def Pipe.rebase (p : Pipe) : Pipe :=
  { p with
    slots := p.slots.map fun x => (x.1, { x.2 with cts := rebased x.2.cts })
    freeTs := p.freeTs.map fun x => (x.1, rebased x.2)
    endTs := rebased p.endTs, ets := rebased p.ets }

/-- The device after a rebase. -/
def rebaseAll (s : State) : State :=
  { s with
    rebases := s.rebases + 1, rebasing := true, remTs := rebased s.remTs
    mts := s.mts.map fun p => (p.1, rebased p.2)
    ctrTs := s.ctrTs.map fun p => (p.1, rebased p.2)
    dies := s.dies.map fun d => (d.1, { d.2 with ctrTs := d.2.ctrTs.map fun p => (p.1, rebased p.2) })
    l2 := s.l2.map fun (h : Nat × HomeLine) => (h.1, { h.2 with wts := rebased h.2.wts, rts := rebased h.2.rts })
    cores := s.cores.map fun c => (c.1, c.2.rebase)
    blocks := s.blocks.map fun b => (b.1, { b.2 with warps := b.2.warps.map Warp.rebase })
    vigils := s.vigils.map fun v => (v.1, { v.2 with fireTs := rebased v.2.fireTs, op := v.2.op.map OpEntry.rebase })
    pipes := s.pipes.map fun p => (p.1, p.2.rebase)
    pkts := s.pkts.map fun p => (p.1, { p.2 with ts := rebased p.2.ts })
    grids := s.grids.map fun g => (g.1, { g.2 with restore := g.2.restore.map Saved.rebase, away := g.2.away.map Saved.rebase }) }

/-- REBASE: some timestamp has reached 0xC_0000 (08 R165). Memory accesses wait until time passes. -/
def execRebase (s : State) : Host.Outcome State Fault Refusal :=
  .next (if !s.rebasing && (allStamps s).any fun t => decide (0xC0000 ≤ t.toNat) then rebaseAll s else s)

/-! ### Pod-remote accesses (08 R155; 09 R192) -/

/-- An access of another device is performed at home here, as an engine's would be (08 R155, R164): kind 0 read, with its size;
1 write, with its bytes; 2 atomic, with operator, size and operand. Its status, its data and the state. -/
def remoteHome (s : State) (kind addr : Nat) (data : List Byte) : Nat × List Byte × State :=
  let pa := addr % 2 ^ 40
  let first (i : Nat) : Nat := (data.getD i 0#8).toNat
  let n := if kind = 0 then first 0 else if kind = 1 then data.length else first 1
  if hbmEnd < pa + n then (0x082, [], s)
  else if poisoned s pa n then (0x095, [], s)
  else match kind with
    | 0 =>
      let (bs, t, s) := readHome s pa n s.remTs
      (0, bs, { s with remTs := t })
    | 1 =>
      let (t, s) := writeHome s pa data s.remTs true
      (0, [], { s with remTs := t })
    | _ =>
      let (bs, t, s) := readHome s pa n s.remTs
      let s := { s with remTs := t }
      match atomicNew (first 0) (ofBytes bs) (ofBytes ((data.drop 2).take 8)) with
      | none => (0, bs, s)
      | some v =>
        let (t, s) := writeHome s pa (toBytes n v) s.remTs true
        (0, bs, { s with remTs := t })

/-- POD_REMOTE_ACCESS: performed here, and its completion sent back (08 R155; 09 R192). No link is up before boot is complete (16 R292). -/
def execPodRemoteAccess (rank tag kind addr : Nat) (data : List Byte) (s : State) : Host.Outcome State Fault Refusal :=
  .next (if s.boot != .up then s
    else
      let (status, bs, s) := remoteHome s kind addr data
      s.send (.remoteDone rank tag status bs))

/-- LINK_RETRY: link-level retry masks the error; nothing of it is seen (01 R18). -/
def execLinkRetry (_link : Nat) (s : State) : Host.Outcome State Fault Refusal := .next s

/-! ### Completions (09 R192) -/

/-- No access of a group is left. -/
def groupDone (s : State) (g : Nat) : Bool := !(s.remPend.any fun p => p.2.group == g && !p.2.dst.isEmpty)

/-- The result of a lane's remote access is written to its registers. -/
def remoteResult (s : State) (r : RemPend) (data : List Byte) : State :=
  let v := ofBytes (data.take r.size)
  let v := if r.signed then (BitVec.ofInt 32 (sextInt (8 * r.size) v)).toNat else v
  let word (k : Nat) : Word := if k = 1 ∧ r.dst.length = 2 ∧ r.kind = 2 ∧ r.size = 4 then BitVec.ofNat 32 r.keep else word32 v k
  s.modWarp r.core r.slot r.warp fun w => r.dst.zipIdx.foldl (fun w d => w.setV d.1 r.lane (word d.2)) w

/-- Lease time that a read of another device's memory takes on: the highest of this device's agents, for what it has read may have
been written after any of their releases (DESIGN CHOICE, log 54). -/
def podTs (s : State) : BitVec 20 := tsMax (maxPts s) s.remTs

/-- The lane of a pod-remote read has its answer: an acquire raises the core's lease time, a relaxed read keeps what a later acquire
fence takes on (09 R180, R181). -/
def remoteSeen (s : State) (r : RemPend) (tag : Nat) : State :=
  if r.dst.isEmpty then s
  else if r.acq then raisePts s r.core (podTs s)
  else s.modWarp r.core r.slot r.warp fun w =>
    { w with splits := w.splits.map fun q => if q.rem.contains tag then { q with seen := tsMax q.seen (podTs s) } else q }

/-- A completion of an access that an operation, a packet or a lane made. One that failed ends an operation with its status,
is an access of a packet that ends with it, and is a fault of its lane, whose result is not written (14 Table 14.9; 19 R376). -/
def completeRemote (s : State) (tag : Nat) (r : RemPend) (status : Nat) (data : List Byte) : State :=
  let s := { s with remPend := s.remPend.del tag }
  if r.core = cpCore then
    (if status ≠ 0 then s.modPkt r.slot fun p => { p with fault := some (status, r.dst.headD 0) }
      else if r.kind = 0 then s.modPkt r.slot fun p => { p with got := p.got ++ [(r.dst.headD 0, ofBytes data)] } else s)
  else if r.warp = engineWarp then
    (let s := if status ≠ 0 then opDone s r.core r.slot status
      else if r.kind = 0 then modEng s r.core r.slot fun o => { o with got := o.got ++ [(r.dst.headD 0, ofBytes data)] } else s
    if r.core < ioCore then freeOps s r.core else s)
  else
    let s := if status ≠ 0 then
        { s with remIns := modKey s.remIns r.ins fun (i : RemIns) =>
            { i with faults := i.faults ++ [(r.warp, r.lane, status % 2 ^ 9, r.va)] } }
      else if r.dst.isEmpty then s else remoteSeen (remoteResult s r data) r tag
    let s := if groupDone s r.group then s.modWarp r.core r.slot r.warp fun w => w.written (.remote r.group) else s
    settleRemote s r.ins

/-- The answer to a descriptor: one that no device of the pod takes is dropped and reported (20 R383). -/
def nsendAnswered (s : State) (tag status : Nat) : State :=
  match s.nsendTo.get? tag with
  | none => s
  | some (asid, rank) =>
    let s := { s with nsendTo := s.nsendTo.del tag }
    if status = 0x153 then hostEvent s (some asid) 0x153 rank 0 else s

/-- UALINK_COMPLETION: the answer to a pod-remote access, or to an NSEND (09 R192; 13 R248, R252; 20 R383). -/
def execUalinkCompletion (tag status : Nat) (data : List Byte) (s : State) : Host.Outcome State Fault Refusal :=
  .next (match s.remPend.get? tag with
    | some r => completeRemote s tag r status data
    | none =>
      let s := nsendAnswered s tag status
      match s.nsendAck.get? tag with
      | some v => { s with
          nsendAck := s.nsendAck.del tag
          vigils := modKey s.vigils v fun (x : Vigil) => { x with ended := some status } }
      | none => s)

end Sys2Proof.Machine
end

