-- ==== Sys2Proof/Machine/EvPlatform.lean ====
section
/-! DEFINITION. Bring-up, the command session, time, power, and the registers that firmware writes (00 R7, R8; 01 R14; 16 R292 to
R300). -/

namespace Sys2Proof.Machine

open Sys2Proof

/-! ### Bring-up (16 R292) -/

/-- The first image verifies: its key is the fused one, and its signature holds. -/
def firstImageOk (key : List Byte) (images sigs : List (List Byte)) : Bool :=
  Config.shake256 key == Config.fusedDigest && Config.mldsaVerify key (images.headD []) (sigs.headD [])

/-- Extends a measurement register with an image. -/
def extendMeasure (m image : List Byte) : List Byte :=
  toBytes 64 (Config.shake256 (m ++ toBytes 64 (Config.shake256 image).toNat)).toNat

/-- The later stages: each next image is measured, and then verified; the specification does not say into which of the eight
registers (log 3). False when one does not verify. -/
def laterImages (key : List Byte) : List (List Byte × List Byte) → State → Bool × State
  | [], s => (true, s)
  | p :: r, s =>
    let (n, s) := s.draw
    let s := { s with measure := modAt s.measure (n % 8) fun m => extendMeasure m p.1 }
    if Config.mldsaVerify key p.1 p.2 then laterImages key r s else (false, s)

/-- A verification has failed: boot halts, and port 0 answers only with its status. -/
def haltBoot (s : State) : State := { s with boot := .halted }

/-- POWER_ON: boot code, the later stages, and firmware's preparations (16 R292). A module whose power the board controller has
removed is woken by it first. -/
def execPowerOn (key : List (BitVec 8)) (images sigs : List (List (BitVec 8))) (s : State) : Host.Outcome State Fault Refusal :=
  .next (if s.boot != .off || s.asleep then s
    else
      let s := { s with measure := List.replicate 8 (List.replicate 64 0#8) }
      if !firstImageOk key images sigs then haltBoot s
      else
        let (ok, s) := laterImages key ((images.drop 1).zip (sigs.drop 1)) s
        if ok && images.length == sigs.length then { s with boot := .up, errcnt := 0 } else haltBoot s)

/-! ### The session (16 R293) -/

/-- ATTESTATION_REQUEST: the report on a host's nonce, with a fresh encapsulation key. -/
def execAttestationRequest (nonce : List (BitVec 8)) (s : State) : Host.Outcome State Fault Refusal :=
  .next (if s.boot != .up || nonce.length != 32 then s
    else
      let fields := s.measure ++ [nonce, Config.certificate, Config.mlkemKey s.kemKeys]
      let s := { s with nonce := some nonce, kemKeys := s.kemKeys + 1 }
      s.send (.report (fields ++ [Config.mldsaSign fields.flatten])))

/-- Firmware creates ring 0 of the n-th session (04 R79). -/
def ring0 (n : Nat) : Ring :=
  let d := Config.ring0 n
  { base := BitVec.ofNat 64 (d.1 % 2 ^ 40 * 2 ^ 12), lsize := d.2.1 % 13, prio := d.2.2.1 % 8, running := true, wptr := 0, rptr := 0
    erec := BitVec.ofNat 64 (d.2.2.2.1 % 2 ^ 56), nseq := 0, asid := d.2.2.2.2 % 2 ^ 10, drops := 0 }

/-- A rate within the limits that hold once a session has been established (16 R297). -/
def limitRate (r : Int) : Int := if r < -100 then -100 else if 100 < r then 100 else r

/-- SESSION_ENCAPSULATION: the keys of a new session, which replaces the present one when its first datagram arrives. Ring 0 is
created, unless a session that has not ended holds it (16 R293, R297; 04 R79). -/
def execSessionEncapsulation (ciphertext : List (BitVec 8)) (s : State) : Host.Outcome State Fault Refusal :=
  .next (match s.nonce with
    | none => s
    | some nonce =>
      if s.boot != .up then s
      else
        let k := s.sessions.toNat
        let number := Config.sessionNumber k
        let secret := toBytes 32 (Config.mlkemDecap (s.kemKeys - 1) ciphertext).toNat
        let keys := toBytes 64 (Config.shake256 (secret ++ nonce ++ toBytes 4 number.toNat)).toNat
        let x : Session :=
          { number := number, keyIn := keys.take 32, keyOut := (keys.drop 32).take 32, dseqIn := 0, dseqOut := 0
            last := s.kalends.toNat }
        { s with
          nextSession := some x, nonce := none, sessions := s.sessions + 1, everSession := true, rate := limitRate s.rate
          rings := if s.session.isSome && s.rings.has 0 then s.rings else s.rings.put 0 (ring0 k) })

/-- A session that has had an authenticated datagram within 60 s, or none. -/
def freshSession (s : State) (x : Option Session) : Option Session := x.filter fun y => decide (s.passed y.last < 60000000000)

/-- SESSION_IDLE_TIMEOUT: a session ends after 60 s without an authenticated datagram, one that is only established like the present
one. -/
def execSessionIdleTimeout (s : State) : Host.Outcome State Fault Refusal :=
  .next { s with session := freshSession s s.session, nextSession := freshSession s s.nextSession }

/-- POWER_CONTROL: an accepted kind-4 datagram carries the latency tolerance (16 R295). -/
def execPowerControl (port : Nat) (bytes : List (BitVec 8)) (s : State) : Host.Outcome State Fault Refusal :=
  .next (match acceptDatagram s port bytes with
    | (some (4, body), s) => { s with tolerance := BitVec.ofNat 32 (ofBytes (body.take 4)) }
    | (some _, _) => s
    | (none, s) => s)

/-! ### Kalends (16 R297) -/

/-- A message disciplines kalends: by rate alone, within ±100 ppm once a session has been established. -/
def discipline (s : State) (rate : Int) : State :=
  { s with rate := if s.everSession then limitRate rate else rate, locked := true }

/-- PTP_MESSAGE: outside a pod, and on rank 0 of one, PTP disciplines kalends; rank 0 then sends timing messages to its pod (R296). No
port is up before boot is complete (R292). -/
def execPtpMessage (rateppm : Int) (s : State) : Host.Outcome State Fault Refusal :=
  .next (if s.boot != .up || (s.inPod && s.rank != 0) then s
    else
      let s := discipline s rateppm
      if s.inPod then s.send (.timing s.rate) else s)

/-- UALINK_TIMING_MESSAGE: in a pod, rank 0 disciplines the others. -/
def execUalinkTimingMessage (source : Nat) (rateppm : Int) (s : State) : Host.Outcome State Fault Refusal :=
  .next (if s.boot == .up && s.inPod && source == 0 && s.rank != 0 then discipline s rateppm else s)

/-! ### Power states (16 R298, R299) -/

/-- The tolerance permits an exit latency of `us`. -/
def tolerates (s : State) (us : Nat) : Bool := decide (us ≤ s.tolerance.toNat)

/-- No warp is resident on a die, and no engine of it is busy. -/
def dieIdle (s : State) (d : Nat) : Bool :=
  !(s.blocks.any fun b => coreDie (b.1 / 96) == d)
  && s.cores.all fun c => coreDie c.1 != d || c.2.ops.all fun o => o.2.complete

/-- Nothing is resident, no vigil is armed, no pipe is open. -/
def packageIdle (s : State) : Bool :=
  s.blocks.isEmpty && (List.range 6).all (dieIdle s) && s.vigils.all (fun v => v.2.st == .parked)
  && s.pipes.all fun p => p.2.closed

/-- Package power is gone: nothing but what the model keeps for itself stays. -/
def powerOff (s : State) : State :=
  { State.reset with
    asleep := true, agenda := s.agenda, draws := s.draws, outbox := s.outbox, sessions := s.sessions, kemKeys := s.kemKeys }

/-- Entry of the off state: L2 is written back, the host is told, and the board controller removes power. The specification
does not give the event a cause: it is free (log 3). -/
def enterOff (s : State) : State :=
  let (n, s) := s.draw
  let s := (s.l2.map (·.1)).foldl evictLine s
  let s := sendDatagram s 2 (bytesOf (eventWords s (eventAsid s none) (n % 512) 0 0))
  powerOff (s.send (.board 0))

/-- A die is gated, with the budget of that state (16 Table 16.3). -/
def gateDie (s : State) (d : Nat) : State :=
  if (s.die d).gated then s else s.modDie d fun x => { x with gated := true, budget := x.stateBudget }

/-- POWER_STATE_DECISION: firmware keeps a die (0 to 5), or the package (6), in the lowest state whose conditions hold and whose
exit latency the host tolerates (16 Table 16.3, R299). -/
def execPowerStateDecision (die : Nat) (s : State) : Host.Outcome State Fault Refusal :=
  .next (if s.boot != .up then s
    else if die < 6 then
      (if dieIdle s die && tolerates s 5 then gateDie s die else ungateDie s die)
    else if packageIdle s && s.tolerance == 0xFFFFFFFF#32 then enterOff s
    else if packageIdle s && tolerates s 300 then { s with retention := true }
    else wakePackage s)

/-- MODULE_WAKE: the board controller wakes the module; out of the off state a full bring-up follows, out of retention every
die has that state's budget (16 Table 16.3, R299; 01 R20). -/
def execModuleWake (s : State) : Host.Outcome State Fault Refusal :=
  .next (if s.asleep then { s with asleep := false } else wakePackage s)

/-! ### Limits (16 R300) -/

/-- A die's budget after a power sample. -/
def budgetAfter (b : Nat) (exceeds below : Bool) : Nat :=
  if exceeds then (if b ≤ 64 then b else if b < 96 then 64 else b - 32)
  else if below then (if 448 ≤ b then b else if 416 < b then 448 else b + 32)
  else b

/-- Units by which a die's budget is lowered after a power sample. -/
def cutAfter (n : Nat) (exceeds below : Bool) : Nat :=
  if exceeds then (if 352 < n then 384 else n + 32) else if below then n - 32 else n

/-- POWER_SAMPLE: module power and the junctions of the dies. Firmware samples every 100 µs, once it runs (R292). -/
def execPowerSample (watts limit : Nat) (celsius : List Nat) (s : State) : Host.Outcome State Fault Refusal :=
  .next (
    if s.boot != .up || decide (s.passed s.powerAt < 100000) then s
    else
      let top := if limit < 4800 then limit else 4800
      (List.range 6).foldl (fun s d =>
        let t := celsius.getD d 0
        let exceeds := decide (top < watts) || decide (95 < t)
        let below := decide (watts < top) && decide (t < 95)
        s.modDie d fun x => { x with budget := budgetAfter x.budget exceeds below, cut := cutAfter x.cut exceeds below })
        { s with powerAt := s.kalends.toNat })

/-- THERMAL_TRIP: at 110 °C the board controller removes power without notice. -/
def execThermalTrip (celsius : Nat) (s : State) : Host.Outcome State Fault Refusal :=
  .next (if 110 ≤ celsius then powerOff s else s)

/-! ### Registers that firmware writes (00 R7, R8)

The specification gives these registers layouts and no addresses; the model numbers them. Reserved and read-only fields ignore
what is written to them, and bits marked W1C are cleared by ones. -/

/-- Bits of `new` under a mask, the others of `old`. -/
def underMask (old new mask : DWord) : DWord := (old &&& ~~~mask) ||| (new &&& mask)

/-- A context has no resident block and no engine operation in flight (10 R194). -/
def ctxIdle (s : State) (asid : Nat) : Bool :=
  !(s.blocks.any fun b => b.2.asid == asid) && (allOps s).all fun o => o.2.2.asid != asid || o.2.2.complete

/-- LVCTL of a die (04 Table 4.9). -/
def writeLvctl (s : State) (d : Nat) (v : DWord) : State :=
  if d < 6 then s.modDie d fun x => { x with budget := bits v 0 10, ramp := bits v 16 10 } else s

/-- A word of a context translation record (10 Table 10.1): word 0 asid, 1 root, 2 hbase, 3 hlimit, 4 hoff. -/
def writeRecord (s : State) (asid word : Nat) (v : DWord) : State :=
  if !ctxIdle s asid then s
  else match word with
    | 0 => s.modCtx asid fun x => { x with recAsid := v.setWidth 10 }
    | 1 => s.modCtx asid fun x => { x with root := v &&& 0xFFFFFFFFFE000#64 }
    | 2 => s.modCtx asid fun x => { x with hbase := v &&& 0xFFFFFFFFFF0000#64 }
    | 3 => s.modCtx asid fun x => { x with hlimit := v &&& 0xFFFFFFFFFF0000#64 }
    | 4 => s.modCtx asid fun x => { x with hoff := v &&& 0xFFFFFFFFFFFF0000#64 }
    | _ => s

/-- Firmware makes a context resident afresh (bit 0), as its own (bit 1), with a ptag (bits [31:16]), or no longer resident
(10 R194; 13 R241; 14 R264). -/
def writeResidency (s : State) (asid : Nat) (v : DWord) : State :=
  if !ctxIdle s asid ∨ 1024 ≤ asid then s
  else if !bit v 0 then { s with ctxs := s.ctxs.del asid, fwAsid := if s.fwAsid = some asid then none else s.fwAsid }
  else { s with
    ctxs := s.ctxs.put asid { Ctx.init with firmware := bit v 1, ptag := BitVec.ofNat 16 (bits v 16 16) }
    fwAsid := if bit v 1 then some asid else s.fwAsid }

/-- An owner entry (13 Table 13.1). -/
def ownerOf (v : DWord) : Owner := { asid := bits v 0 10, valid := bit v 10, ptag := BitVec.ofNat 16 (bits v 16 16) }

/-- A word of a collective group entry (13 Table 13.9). -/
def writeGroup (s : State) (k word : Nat) (v : DWord) : State :=
  let g := s.groups.getD k { coll := 0, valid := false, ptag := 0, members := 0 }
  if word = 0 then
    { s with groups := s.groups.put k { g with coll := bits v 0 16, valid := bit v 16, ptag := BitVec.ofNat 16 (bits v 32 16) } }
  else if word ≤ 16 then
    let old := g.members.toNat
    let sh := 2 ^ (64 * (word - 1))
    { s with groups := s.groups.put k { g with
        members := BitVec.ofNat 1024 (old % sh + v.toNat * sh + old / (sh * 2 ^ 64) * (sh * 2 ^ 64)) } }
  else s

/-- A word of a sample-buffer descriptor (15 Table 15.3). -/
def writeSbdesc (s : State) (asid word : Nat) (v : DWord) : State :=
  match word with
  | 0 => s.modCtx asid fun x => { x with sbBase := v &&& 0xFFFFFFFFFFF000#64 }
  | 1 => s.modCtx asid fun x => { x with sbRptr := BitVec.ofNat 32 (bits v 32 32) }
  | _ => s

/-- A word of a watchpoint (15 Table 15.6). -/
def Watch.write (w : Watch) (word : Nat) (v : DWord) : Watch :=
  if word = 0 then { w with w0 := v &&& 0x3FFFFFFFFFFFFFFF#64 }
  else { w with w1 := underMask (w.w1 &&& ~~~(v &&& 0x80#64)) v 0x7F#64 }

/-- A word of a signature table entry (15 Table 15.7). -/
def sigWrite (e : DWord × DWord) (word : Nat) (v : DWord) : DWord × DWord :=
  if word = 0 then (underMask (e.1 &&& ~~~(v &&& 0x40000#64)) v 0x3FFFF#64, e.2) else (e.1, v)

/-- The remap of a halted position, on which no block is resident, to a physical core that no position has (01 R14; 19 R366). -/
def writeRemap (s : State) (c phys : Nat) : State :=
  let d := coreDie c
  if 768 ≤ c ∨ !(s.core c).halted ∨ s.blocks.any (fun b => b.1 / 96 == c) ∨ !(s.die d).spares.contains phys then s
  else
    let old := (s.core c).phys
    let s := s.modDie d fun x => { x with spares := x.spares.filter (· != phys) ++ [old] }
    s.modCore c fun x => { x.fresh with phys := phys, withdrawn := false }

/-- Half a vector register of two lanes, replaced by a word. -/
def pokeVec (x : Vec) (o : Nat) (v : DWord) : Vec :=
  (x.set (2 * o) (v.setWidth 32)).set (2 * o + 1) ((v >>> 32).setWidth 32)

/-- The pc field of a split-table entry, replaced: bits [1:0] are always 0 (06 Table 6.3). -/
def Split.poke (q : Split) (v : DWord) : Split := { q with pc := v &&& 0xFFFFFFFFFFFFFC#64, hints := [] }

/-- Word `o` of a stopped warp's state, in the layout of its frame, replaced: its registers, its specials and the pc fields of its split
table may be written, nothing else (14 Table 14.7; 15 R283). -/
def Warp.poke (asid : Nat) (ops : Tab OpEntry) (o : Nat) (v : DWord) (w : Warp) : Warp :=
  let table (f : List Split → List Split) : Warp := match w.frozen with
    | some z => { w with frozen := some (f z.1, z.2) }
    | none => { w with splits := f w.splits }
  if o = 0 then { w with live := v }
  else if o = 1 then { w with helper := v }
  else if o = 2 then { w with stamp := v }
  else if o = 3 then { w with
    fpm := v.setWidth 8, fpflags := (v >>> 8).setWidth 8, batch := (v >>> 16).setWidth 16, refills := (v >>> 32).setWidth 32 }
  else if o < 8 then w
  else if o < 16 then { w with tctx := setAt w.tctx (o - 8) v }
  else if o = 18 then (if w.frozen.isSome then { w with splits := modAt w.splits 0 fun q => q.poke v } else w)
  else if o < 32 then w
  else if o < 64 then (if o % 4 = 2 then table fun t => modAt t ((o - 32) / 4) fun q => q.poke v else w)
  else if o < 128 then { w with sregs := setAt w.sregs (o - 64) v }
  else if o < 144 then { w with hregs := setAt w.hregs (o - 128) (savedHandle ops v) }
  else if o < 152 then { w with qregs := setAt w.qregs (o - 144) (savedStream asid v) }
  else if o < 160 then w
  else if o < 192 then { w with item := pokeVec w.item (o - 160) v }
  else if o < 224 then { w with itemhi := pokeVec w.itemhi (o - 192) v }
  else if o < 256 then { w with itemage := pokeVec w.itemage (o - 224) v }
  else if o < 288 then { w with rseed := pokeVec w.rseed (o - 256) v }
  else if o < 544 then { w with xregs := modAt w.xregs ((o - 288) / 32) fun x => pokeVec x (o % 32) v }
  else if o < 0xB40 then w
  else { w with vregs := modAt w.vregs ((o - 0xB40) / 32) fun x => pokeVec x (o % 32) v }

/-- Firmware writes a word of a warp of a stopped block (15 R283). -/
def writeStopped (s : State) (key m o : Nat) (v : DWord) : State :=
  match s.blocks.get? key with
  | none => s
  | some b =>
    if !b.stopped then s
    else s.modWarp (key / 96) (key % 96) m (Warp.poke b.asid (s.core (key / 96)).ops o v)

/-- Firmware's write of a register. Numbers and indexes are the model's: 0 LVCTL (die); 1 PMCNT and 2 PMCTL (core × 8 + counter);
3 context translation record (asid × 8 + word); 4 residency and ptag (asid); 5 owner of a counter; 6 owner of a vigil slot;
7 collective group entry (entry × 17 + word); 8 fault queue base and lsize (asid); 9 DBGCTL (asid); 10 SBDESC (asid × 3 + word);
11 watchpoint ((asid × 4 + k) × 2 + word); 12 signature table ((asid × 256 + e) × 2 + word); 13 remap (position); 14 rank, as the device
joins a pod; 15 kalends, before a session has been established; 16 MACsec key (port × 4 + word); 17 a word of a warp frame of a stopped
block (((core × 96 + slot) × 32 + warp) × 2^14 + word). ERRCNT and LEASESTAT are read-only. -/
def writeRegister (s : State) (reg index : Nat) (v : DWord) : State :=
  let core := index / 8 < 768
  let ctx (asid : Nat) (t : State) : State := if asid < 1024 then t else s
  match reg with
  | 0 => writeLvctl s index v
  | 1 => if core then s.modCore (index / 8) fun x => { x with pmcnt := setAt x.pmcnt (index % 8) (BitVec.ofNat 48 v.toNat) } else s
  | 2 => if core then s.modCore (index / 8) fun x => { x with pmctl := setAt x.pmctl (index % 8) (v &&& 0x1FFFFF#64) } else s
  | 3 => ctx (index / 8) <| writeRecord s (index / 8) (index % 8) v
  | 4 => writeResidency s index v
  | 5 => if index < 4096 then { s with ctrOwner := s.ctrOwner.put index (ownerOf v) } else s
  | 6 => if index < 16384 then { s with vigOwner := s.vigOwner.put index (ownerOf v) } else s
  | 7 => if index / 17 < 256 then writeGroup s (index / 17) (index % 17) v else s
  | 8 => ctx index <| s.modCtx index fun x => { x with fqBase := v &&& 0xFFFFFFFFFF000#64, fqLsize := bits v 52 5 }
  | 9 => ctx index <| s.modCtx index fun x => { x with dbgctl := v &&& 0x7FF#64 }
  | 10 => ctx (index / 3) <| writeSbdesc s (index / 3) (index % 3) v
  | 11 => ctx (index / 8) <| s.modCtx (index / 8) fun x => { x with watch := modAt x.watch (index / 2 % 4) fun w => w.write (index % 2) v }
  | 12 => ctx (index / 512) <| s.modCtx (index / 512) fun x =>
      let k := index / 2 % 256
      { x with sigs := x.sigs.put k (sigWrite (x.sigs.getD k (0#64, 0#64)) (index % 2) v) }
  | 13 => writeRemap s index (bits v 0 8)
  | 14 => { s with rank := bits v 0 10, inPod := true }
  | 15 => if s.everSession then s else { s with kalends := v }
  | 16 => { s with macsec := setAt s.macsec index v }
  | 17 => writeStopped s (index / 2 ^ 19) (index / 2 ^ 14 % 32) (index % 2 ^ 14) v
  | _ => s

/-- REGISTER_WRITE (00 R7, R8; 01 R14; 10 R194; 15 R282, R286). -/
def execRegisterWrite (reg index : Nat) (value : BitVec 64) (s : State) : Host.Outcome State Fault Refusal :=
  .next (writeRegister s reg index value)

end Sys2Proof.Machine
end

