-- ==== Sys2Proof/Machine/Hint.lean ====
section
/-! DEFINITION. The hint words, major 0x3F: each is bound to the word that follows it (17 R311 to R314; 19 R369, R370). -/

namespace Sys2Proof.Machine

open Sys2Proof

/-- A hint word of a kind (19 R369). -/
def hintWord (kind payload : Nat) : Word := BitVec.ofNat 32 (0xFC000000 + kind * 0x400000 + payload)

/-- HINT.imm. -/
def execHintImm (p : BitVec 22) (s : State) : Host.Outcome State Fault Refusal := .next (bindHint (hintWord 0 p.toNat) s)

/-- HINT.sched. -/
def execHintSched (n : BitVec 1) (m : BitVec 2) (s : State) : Host.Outcome State Fault Refusal :=
  .next (bindHint (hintWord 1 (n.toNat * 4 + m.toNat)) s)

/-- HINT.memord. -/
def execHintMemord (e : BitVec 2) (u : BitVec 1) (k : BitVec 3) (o : BitVec 2) (s : State) :
    Host.Outcome State Fault Refusal :=
  .next (bindHint (hintWord 2 (e.toNat * 64 + u.toNat * 32 + k.toNat * 4 + o.toNat)) s)

/-- HINT.arith. -/
def execHintArith (g f u t e : BitVec 1) (m : BitVec 2) (s : State) : Host.Outcome State Fault Refusal :=
  .next (bindHint (hintWord 3 (g.toNat * 64 + f.toNat * 32 + u.toNat * 16 + t.toNat * 8 + e.toNat * 4 + m.toNat)) s)

/-- HINT.stamp. -/
def execHintStamp (k : BitVec 6) (s : State) : Host.Outcome State Fault Refusal := .next (bindHint (hintWord 4 k.toNat) s)

/-- HINT.trace. -/
def execHintTrace (p : BitVec 22) (s : State) : Host.Outcome State Fault Refusal := .next (bindHint (hintWord 5 p.toNat) s)

/-- HINT.remote. -/
def execHintRemote (c : BitVec 10) (s : State) : Host.Outcome State Fault Refusal := .next (bindHint (hintWord 6 c.toNat) s)

end Sys2Proof.Machine
end

