-- ==== Sys2Proof/Machine/Immediate.lean ====
section
/-! DEFINITION. The vector immediates, major 0x04 (18 R324; 19 R373; 20 R385; 21 R410; 22 R431, R440). -/

namespace Sys2Proof.Machine

open Sys2Proof

/-- A vector immediate instruction: `w` registers of D each combined with the immediate's bits [31:0] (18 R324; 17 R314).
`readD`: D is a source. -/
def immVec (i : Instr) (c w : BitVec 2) (d : BitVec 6) (imm : BitVec 12) (dist : Nat) (readD : Bool)
    (f : Word → Word → Word) (s : State) : State :=
  let n := wdWidth w
  let vd := vop d n
  issue i { sc := c.toNat, dist := dist, vin := if readD then [vd] else [], vout := [vd], imm := true } noExtra noUniform
    (fun x s =>
      let v : Word := BitVec.ofInt 32 (immExt x.hints imm.toNat 12)
      lanewise vd [] (fun q l => perReg n fun k => f (word32 (readOp q vd l) k) v) x s) s

/-- IADDI: d + imm (19 R373). -/
def execIaddi (c w : BitVec 2) (d : BitVec 6) (i : BitVec 12) (s : State) : Host.Outcome State Fault Refusal :=
  .next (immVec (.iaddi c w d i) c w d i 2 true (fun d i => d + i) s)

/-- ANDI: d and imm (18 R324). -/
def execAndi (c w : BitVec 2) (d : BitVec 6) (i : BitVec 12) (s : State) : Host.Outcome State Fault Refusal :=
  .next (immVec (.andi c w d i) c w d i 2 true (fun d i => d &&& i) s)

/-- ORI: d or imm (20 R385). -/
def execOri (c w : BitVec 2) (d : BitVec 6) (i : BitVec 12) (s : State) : Host.Outcome State Fault Refusal :=
  .next (immVec (.ori c w d i) c w d i 2 true (fun d i => d ||| i) s)

/-- XORI: d xor imm (22 R440). -/
def execXori (c w : BitVec 2) (d : BitVec 6) (i : BitVec 12) (s : State) : Host.Outcome State Fault Refusal :=
  .next (immVec (.xori c w d i) c w d i 2 true (fun d i => d ^^^ i) s)

/-- SHLI: d << imm[4:0] (21 R410, R411). -/
def execShli (c w : BitVec 2) (d : BitVec 6) (i : BitVec 12) (s : State) : Host.Outcome State Fault Refusal :=
  .next (immVec (.shli c w d i) c w d i 2 true (fun d i => d <<< bits i 0 5) s)

/-- SHRIN: d >> imm[4:0], zeros in (21 R410, R411). -/
def execShriN (c w : BitVec 2) (d : BitVec 6) (i : BitVec 12) (s : State) : Host.Outcome State Fault Refusal :=
  .next (immVec (.shriN c w d i) c w d i 2 true (fun d i => d >>> bits i 0 5) s)

/-- SHRII: d >> imm[4:0], copies of the sign in (21 R410, R411). -/
def execShriI (c w : BitVec 2) (d : BitVec 6) (i : BitVec 12) (s : State) : Host.Outcome State Fault Refusal :=
  .next (immVec (.shriI c w d i) c w d i 2 true (fun d i => d.sshiftRight (bits i 0 5)) s)

/-- VMOVI: imm (22 R431). -/
def execVmovi (c w : BitVec 2) (d : BitVec 6) (i : BitVec 12) (s : State) : Host.Outcome State Fault Refusal :=
  .next (immVec (.vmovi c w d i) c w d i 2 false (fun _ i => i) s)

/-- IMULI: d × imm (19 R373). -/
def execImuli (c w : BitVec 2) (d : BitVec 6) (i : BitVec 12) (s : State) : Host.Outcome State Fault Refusal :=
  .next (immVec (.imuli c w d i) c w d i 3 true (fun d i => d * i) s)

end Sys2Proof.Machine
end

