-- ==== Sys2Proof/Machine/MemOps.lean ====
section
/-! DEFINITION. LD, LDS, ST, STS, ATOM and ATOML (18 R325 to R329; 19 R374 to R376; 21 R414 to R417). -/

namespace Sys2Proof.Machine

open Sys2Proof

/-- The bits of an instruction's word. -/
def wordOf (i : Instr) : Word := (encodeWord i).getD 0#32

/-- What the issue contract needs of a memory instruction. -/
def memMeta (c : BitVec 2) (la : Nat) (cls : MemClass) (cu : Bool) (p : Nat) (vd va : VOp) (r : BitVec 4)
    (writesD readsD : Bool) : Meta :=
  { sc := c.toNat, la := some la, vin := if readsD then [va, vd] else [va], vout := if writesD then [vd] else [],
    srcs := [.s r.toNat], imm := true, mem := some (cls, cu), remote := p == 3 && cls != .atomic, access := true }

/-- Issues a memory instruction. -/
def memOp (i : Instr) (op : MemOp) (m : Meta) (la : Nat) (vd va : VOp) (r : BitVec 4) (extra : Block → Split → Bool)
    (s : State) : State :=
  issue i m extra noUniform (withOperands [vd, va] (memEffect (wordOf i) op la vd va r)) s

/-- The operation of a memory instruction of the table. -/
def opOf (i : Instr) : MemOp :=
  (memOpOf i).getD { acc := .load, n := 4, w := 1, sp := 0, signed := false, aop := 0 }

/-- LD (19 R374 to R376). -/
def execLd (c : BitVec 2) (l : BitVec 4) (w : BitVec 2) (p : BitVec 2) (d a : BitVec 6) (r : BitVec 4) (s : State) :
    Host.Outcome State Fault Refusal :=
  let i : Instr := .ld c l w p d a r
  let vd := vop d (wdWidth w)
  let va := vop a 1
  .next (memOp i (opOf i) (memMeta c l.toNat .load false p.toNat vd va r true false) l.toNat vd va r noExtra s)

/-- LDS (19 R374 to R376). -/
def execLds (c : BitVec 2) (l : BitVec 4) (w : BitVec 2) (p : BitVec 2) (d a : BitVec 6) (r : BitVec 4) (s : State) :
    Host.Outcome State Fault Refusal :=
  let i : Instr := .lds c l w p d a r
  let vd := vop d 1
  let va := vop a 1
  .next (memOp i (opOf i) (memMeta c l.toNat .load false p.toNat vd va r true false) l.toNat vd va r noExtra s)

/-- ST (21 R414 to R417). -/
def execSt (c : BitVec 2) (w : BitVec 2) (p : BitVec 2) (d a : BitVec 6) (r : BitVec 4) (s : State) :
    Host.Outcome State Fault Refusal :=
  let i : Instr := .st c w p d a r
  let vd := vop d (wdWidth w)
  let va := vop a 1
  .next (memOp i (opOf i) (memMeta c 0 .store false p.toNat vd va r false true) 0 vd va r noExtra s)

/-- STS (21 R414 to R417). -/
def execSts (c : BitVec 2) (w : BitVec 2) (p : BitVec 2) (d a : BitVec 6) (r : BitVec 4) (s : State) :
    Host.Outcome State Fault Refusal :=
  let i : Instr := .sts c w p d a r
  let vd := vop d 1
  let va := vop a 1
  .next (memOp i (opOf i) (memMeta c 0 .store false p.toNat vd va r false true) 0 vd va r noExtra s)

/-- A `.cu` atomic must encode LA = 0 (18 R328). -/
def cuLa (l : BitVec 4) (q : Split) : Bool := !(howOf q.hints).cu || l == 0#4

/-- ATOM (18 R325 to R329). -/
def execAtom (c : BitVec 2) (l u : BitVec 4) (d a : BitVec 6) (r : BitVec 4) (s : State) :
    Host.Outcome State Fault Refusal :=
  let i : Instr := .atom c l u d a r
  let vd := vop d (atomRegs u.toNat)
  let va := vop a 1
  .next (memOp i (opOf i) (memMeta c l.toNat .atomic (decide (u.toNat ≤ 11)) 0 vd va r true true) l.toNat vd va r
    (fun _ q => cuLa l q) s)

/-- ATOML (18 R325 to R329). -/
def execAtoml (c : BitVec 2) (l u : BitVec 4) (d a : BitVec 6) (r : BitVec 4) (s : State) :
    Host.Outcome State Fault Refusal :=
  let i : Instr := .atoml c l u d a r
  let vd := vop d (atomRegs u.toNat)
  let va := vop a 1
  .next (memOp i (opOf i) (memMeta c l.toNat .atomic false 0 vd va r true true) l.toNat vd va r noExtra s)

end Sys2Proof.Machine
end

