-- ==== Sys2Proof/Machine/Move.lean ====
section
/-! DEFINITION. Packing, vector moves and index registers, majors 0x0E to 0x10 without MFS (22 R429 to R433, R437, R438). -/

namespace Sys2Proof.Machine

open Sys2Proof

/-! ### Packing -/

/-- One field of a pack: mode 0 truncates, 1 saturates signed, 2 saturates unsigned (22 R433). -/
def packField (n mode : Nat) (x : Word) : Nat :=
  let v : Int := if mode = 1 then clamp (-(2 ^ (n - 1))) (2 ^ (n - 1) - 1) x.toInt
    else if mode = 2 then clamp 0 (2 ^ n - 1) x.toInt else x.toInt
  (v % 2 ^ n).toNat

/-- VPACK of `m` registers into fields of `n` bits (22 R433). -/
def packOp (i : Instr) (c : BitVec 2) (d a mode : BitVec 6) (m n : Nat) (s : State) : State :=
  let vd := vop d 1
  let va := vop a m
  issue i { sc := c.toNat, dist := 2, vin := [va], vout := [vd] } noExtra noUniform
    (lanewise vd [va] fun x l =>
      (List.range m).foldl (fun r k => r + packField n mode.toNat (word32 (readOp x va l) k) * 2 ^ (n * k)) 0) s

/-- VUNPK of fields of `n` bits into `m` registers (22 R433). -/
def unpackOp (i : Instr) (c : BitVec 2) (d a mode : BitVec 6) (m n : Nat) (s : State) : State :=
  let vd := vop d m
  let va := vop a 1
  issue i { sc := c.toNat, dist := 2, vin := [va], vout := [vd] } noExtra noUniform
    (lanewise vd [va] fun x l => perReg m fun k =>
      let f := elemAt n (readOp x va l) k
      if mode.toNat = 1 then BitVec.ofInt 32 (sextInt n f) else BitVec.ofNat 32 f) s

/-- VPACK.b (22 R433). -/
def execVpackB (c : BitVec 2) (d a b : BitVec 6) (s : State) : Host.Outcome State Fault Refusal :=
  .next (packOp (.vpackB c d a b) c d a b 4 8 s)

/-- VPACK.h (22 R433). -/
def execVpackH (c : BitVec 2) (d a b : BitVec 6) (s : State) : Host.Outcome State Fault Refusal :=
  .next (packOp (.vpackH c d a b) c d a b 2 16 s)

/-- VUNPK.b (22 R433). -/
def execVunpkB (c : BitVec 2) (d a b : BitVec 6) (s : State) : Host.Outcome State Fault Refusal :=
  .next (unpackOp (.vunpkB c d a b) c d a b 4 8 s)

/-- VUNPK.h (22 R433). -/
def execVunpkH (c : BitVec 2) (d a b : BitVec 6) (s : State) : Host.Outcome State Fault Refusal :=
  .next (unpackOp (.vunpkH c d a b) c d a b 2 16 s)

/-! ### Vector moves -/

/-- VMOV: bits copied unchanged; the sources are read before the write (22 R429, R430). -/
def execVmov (c w : BitVec 2) (d a : BitVec 6) (s : State) : Host.Outcome State Fault Refusal :=
  let n := wdWidth w
  let vd := vop d n
  let va := vop a n
  .next (issue (.vmov c w d a) { sc := c.toNat, dist := 2, vin := [va], vout := [vd] } noExtra noUniform
    (lanewise vd [va] fun x l => readOp x va l) s)

/-- VMOVS: the lead's scalar, low half, in every active lane (22 R429, R430). -/
def execVmovs (c : BitVec 2) (d a : BitVec 6) (s : State) : Host.Outcome State Fault Refusal :=
  let vd := vop d 1
  .next (issue (.vmovs c d a) { sc := c.toNat, dist := 2, srcs := [.s a.toNat], vout := [vd] } noExtra noUniform
    (fun x s =>
      let v := bits (x.rs s a.toNat) 0 32
      lanewise vd [] (fun _ _ => v) x s) s)

/-- The value of a vector operand at a set-lane number, whatever em holds: 0 in an absent member or beyond the set-wide
lanes. The second component is the fault that an active non-helper lane raises (22 R430). -/
def laneValue (x : Ix) (s : State) (va : VOp) (p : Nat) : Nat × List (Nat × Nat × Nat) :=
  match (x.places s)[p / 64]? with
  | none => (0, [])
  | some m =>
    if !x.members.contains m then (0, [])
    else
      match x.warp? s m with
      | none => (0, [])
      | some w =>
        let l := p % 64
        match resolve w va l with
        | .ok n => (readV w n l va.w, [])
        | .error c => (0, if inMask (x.em w) l && !inMask w.helper l then [(m, l, c)] else [])

/-- VGET: the value of A in one lane, to a scalar (22 R429, R430). -/
def execVget (c : BitVec 2) (d a b : BitVec 6) (s : State) : Host.Outcome State Fault Refusal :=
  let va := vop a 1
  .next (issue (.vget c d a b) { sc := c.toNat, dist := 2, vin := [va], srcs := [.s b.toNat], dsts := [.s d.toNat] }
    noExtra noUniform
    (fun x s =>
      let (v, fs) := laneValue x s va ((x.rs s b.toNat).toNat % x.posMask)
      if fs.isEmpty then .done (x.ws s d.toNat (BitVec.ofNat 64 v)) else .trap (faultReq fs) s) s)

/-- VSETL: one active lane of D receives a scalar's low half; only that lane resolves an indexed D (22 R429, R430). -/
def execVsetl (c : BitVec 2) (d a b : BitVec 6) (s : State) : Host.Outcome State Fault Refusal :=
  let vd := vop d 1
  .next (issue (.vsetl c d a b) { sc := c.toNat, dist := 2, srcs := [.s a.toNat, .s b.toNat], vout := [vd] } noExtra
    noUniform
    (fun x s =>
      let p := (x.rs s b.toNat).toNat % x.posMask
      let v := bits (x.rs s a.toNat) 0 32
      match (x.places s)[p / 64]?, x.activeAt s p with
      | some m, some (w, l) =>
        match laneFault w l [vd] with
        | some cause =>
          if inMask w.helper l then .done s else .trap (faultReq [(m, l, cause)]) s
        | none => .done (s.modWarp x.core x.slot m fun w => w.putOp vd fun k => if k = l then some v else none)
      | _, _ => .done s) s)

/-! ### Index registers -/

/-- Writes index register `k` in the active lanes of every member. -/
def putIndex (x : Ix) (s : State) (k : Nat) (keep : Warp → Nat → Bool) (f : Warp → Nat → Word) : State :=
  x.each s fun _ w =>
    { w with xregs := modAt w.xregs k fun r => Vec.of fun l =>
        if inMask (x.em w) l && keep w l then f w l else r.lane l }

/-- An index register's new window lies in the allocation (05 R99). -/
def windowOk (b : Block) (v : Word) : Bool := decide (xBase v + xLimit v ≤ b.kernel.d + b.kernel.i)

/-- The index word that XSET writes: bits [23:0] of the source (22 Table 22.7). -/
def indexWord (v : Word) : Word := v &&& 0xFFFFFF#32

/-- The word that XSET writes in a lane. -/
def xsetWord (va : VOp) (w : Warp) (l : Nat) : Word := indexWord (BitVec.ofNat 32 (readOp w va l))

/-- Why XSET faults in a lane: its operand, or else its new window (05 R99, R100). -/
def xsetFault (b : Block) (va : VOp) (w : Warp) (l : Nat) : Option Nat :=
  (laneFault w l [va]).or (if windowOk b (xsetWord va w l) then none else some 0x044)

/-- XSET: every active lane is checked first, its operand and its window; the record holds the faulting lanes of either
cause (14 R265). An active helper lane that fails is left unchanged (22 R437, R438). -/
def execXset (c : BitVec 2) (d a : BitVec 6) (s : State) : Host.Outcome State Fault Refusal :=
  let va := vop a 1
  .next (issue (.xset c d a) { sc := c.toNat, dist := 2, vin := [va], dsts := [.x d.toNat] } noExtra noUniform
    (fun x s =>
      match x.block? s with
      | none => .done s
      | some b =>
        let bad := (x.warps s).flatMap fun p =>
          (p.2.lanesOn (x.em p.2)).filterMap fun l => (xsetFault b va p.2 l).map fun c => (p.1, l, c)
        if bad.isEmpty then .done (putIndex x s d.toNat (fun w l => windowOk b (xsetWord va w l)) (xsetWord va))
        else .trap (faultReq bad) s) s)

/-- Replaces the index field (05 Table 5.2). -/
def withIndex (r : Word) (i : Nat) : Word := BitVec.ofNat 32 (r.toNat % 2 ^ 16 + i % 256 * 2 ^ 16)

/-- XIDX: the index becomes v[7:0] (22 R437). -/
def execXidx (c : BitVec 2) (d a : BitVec 6) (s : State) : Host.Outcome State Fault Refusal :=
  let va := vop a 1
  .next (issue (.xidx c d a) { sc := c.toNat, dist := 2, vin := [va], dsts := [.x d.toNat] } noExtra noUniform
    (withOperands [va] fun x s =>
      .done (putIndex x s d.toNat (fun _ _ => true) fun w l => withIndex (w.x d.toNat l) (readOp w va l))) s)

/-- XADD: v[7:0] added to the index, modulo 256 (22 R437). -/
def execXadd (c : BitVec 2) (d a : BitVec 6) (s : State) : Host.Outcome State Fault Refusal :=
  let va := vop a 1
  .next (issue (.xadd c d a) { sc := c.toNat, dist := 2, vin := [va], srcs := [.x d.toNat], dsts := [.x d.toNat] } noExtra
    noUniform
    (withOperands [va] fun x s =>
      .done (putIndex x s d.toNat (fun _ _ => true) fun w l =>
        withIndex (w.x d.toNat l) (xIndex (w.x d.toNat l) + readOp w va l % 256))) s)

/-- XGET: the index register, to a vector register (22 R437). -/
def execXget (c : BitVec 2) (d a : BitVec 6) (s : State) : Host.Outcome State Fault Refusal :=
  let vd := vop d 1
  .next (issue (.xget c d a) { sc := c.toNat, dist := 2, srcs := [.x a.toNat], vout := [vd] } noExtra noUniform
    (lanewise vd [] fun w l => (w.x a.toNat l).toNat % 2 ^ 24) s)

end Sys2Proof.Machine
end

