-- ==== Sys2Proof/Machine/Special.lean ====
section
/-! DEFINITION. MFS and MTS: the special registers (05 R111, R112, Table 5.4; 20 R377 to R379). -/

namespace Sys2Proof.Machine

open Sys2Proof

/-- Special `stage` of a block: stage and almanac, or the lone bit (05 Table 5.4). -/
def stageSpecial (s : State) (b : Block) : Nat :=
  match s.grids.get? b.grid with
  | none => 0x200
  | some g => match g.alm with
    | some a => g.stage % 32 + a % 16 * 32
    | none => 0x200

/-- Special `setpos` (05 R110). -/
def setposSpecial (b : Block) (m : Nat) : Nat :=
  match setOf b m with
  | none => 0
  | some n =>
    let ms := b.sets.getD n []
    match findIdx (fun q : Nat => q == m) ms with
    | some (i, _) => i + ms.length * 2 ^ 8
    | none => 0

/-- A scalar special of a member warp, as its issuing split reads it (05 Table 5.4). -/
def scalarSpecial (x : Ix) (s : State) (b : Block) (m : Nat) (w : Warp) (n : Nat) : DWord :=
  match n with
  | 0 => x.em w
  | 1 => w.live
  | 2 => w.helper
  | 3 => BitVec.ofNat 64 m
  | 4 => b.number.setWidth 64
  | 5 => BitVec.ofNat 64 (b.gpos % 64 + (b.gsize - 1) % 64 * 2 ^ 6 + b.gang.toNat * 2 ^ 12)
  | 6 => BitVec.ofNat 64 (stageSpecial s b)
  | 7 => BitVec.ofNat 64 (x.core % 128 + x.core * 2 ^ 16)
  | 8 => BitVec.ofNat 64 (coreDie x.core)
  | 9 => BitVec.ofNat 64 (coreDie x.core + coreDie x.core / 2 * 2 ^ 4)
  | 10 => BitVec.ofNat 64 s.rank
  | 11 => s.kalends
  | 12 => s.cycle
  | 13 => BitVec.ofNat 64 (x.split + w.valid.length * 2 ^ 8)
  | 14 => w.refills.setWidth 64
  | 15 => BitVec.ofNat 64 (b.gcountB.toNat + b.gcountG.toNat * 2 ^ 32)
  | 16 => w.fpm.setWidth 64
  | 17 => w.fpflags.setWidth 64
  | 18 => w.batch.setWidth 64
  | 19 => BitVec.ofNat 64 ((setOf b m).getD 0xFFFFFFFF)
  | 20 => w.stamp
  | 21 => (s.core x.core).pts.setWidth 64
  | 22 => BitVec.ofNat 64 (setposSpecial b m)
  | n => if 24 ≤ n ∧ n ≤ 31 then w.tctx.getD (n - 24) 0#64 else 0#64

/-- A per-lane special (05 Table 5.4). -/
def laneSpecial (w : Warp) (n l : Nat) : Word :=
  match n with
  | 32 => BitVec.ofNat 32 l
  | 33 => w.item.lane l
  | 34 => w.itemhi.lane l
  | 35 => BitVec.ofNat 32 (l % 4)
  | 36 => w.itemage.lane l
  | _ => w.rseed.lane l

/-- MFS, vector form: a per-lane special, or a scalar special's low half (20 R377, R378). -/
def execMfsVector (c : BitVec 2) (d a : BitVec 6) (s : State) : Host.Outcome State Fault Refusal :=
  let n := a.toNat
  let vd := vop d 1
  .next (issue (.mfsVector c d a) { sc := c.toNat, dist := 2, vout := [vd] } noExtra
    (fun _ _ => if n = 23 ∨ 38 ≤ n then some 0x048 else none)
    (withOperands [vd] fun x s =>
      match x.block? s with
      | none => .done s
      | some b => .done (x.putLanes s vd fun m w l =>
          if 32 ≤ n then (laneSpecial w n l).toNat else (scalarSpecial x s b m w n).toNat % 2 ^ 32)) s)

/-- MFS, scalar form: the lead's special, to every member (20 R377, R378). -/
def execMfsScalar (c : BitVec 2) (d a : BitVec 6) (s : State) : Host.Outcome State Fault Refusal :=
  let n := a.toNat
  .next (issue (.mfsScalar c d a) { sc := c.toNat, dist := 2, dsts := [.s d.toNat] } noExtra
    (fun _ _ => if n = 23 ∨ 32 ≤ n then some 0x048 else none)
    (fun x s =>
      match x.block? s, x.warp? s x.lead with
      | some b, some w => .done (x.ws s d.toNat (scalarSpecial x s b x.lead w n))
      | _, _ => .done s) s)

/-- Whether MTS may write a special: the RW ones, the trap context only in a handler (05 R112). -/
def mtsAllowed (n : Nat) (inHandler : Bool) : Bool :=
  n == 0 || n == 16 || n == 17 || n == 20 || n == 37 || (24 ≤ n && n ≤ 31 && inHandler)

/-- The mask that MTS em stores: masked with the live and helper lanes and the issuing split's lanes (05 R106). -/
def emWritten (w : Warp) (p : Split) (v : DWord) : Mask := v &&& (w.live ||| w.helper) &&& p.lanes

/-- The seed that MTS rseed stores in a lane: v + l, or 1 where that is 0 (05 R112). -/
def seedWritten (v : DWord) (l : Nat) : Word :=
  let r : Word := BitVec.ofNat 32 (v.toNat + l)
  if r = 0#32 then 1#32 else r

/-- MTS in one member (20 Table 20.2). -/
def mtsWarp (x : Ix) (s : State) (n : Nat) (v : DWord) (m : Nat) (w : Warp) : Warp :=
  match n with
  | 0 => { w with splits := modAt w.splits x.split fun p => { p with em := emWritten w p v } }
  | 16 => { w with fpm := v.setWidth 8 }
  | 17 => { w with fpflags := v.setWidth 8 &&& 0x7F#8 }
  | 20 => { w with stamp := v }
  | 37 =>
    let em := x.em w
    { w with rseed := Vec.of fun l => if inMask em l then seedWritten v (x.position s m l) else w.rseed.lane l }
  | _ => { w with tctx := setAt w.tctx (n - 24) v }

/-- MTS: the lead's scalar, to a special of every member (20 R379). The checker records no destination. -/
def execMts (c : BitVec 2) (d a : BitVec 6) (s : State) : Host.Outcome State Fault Refusal :=
  let n := d.toNat
  .next (issue (.mts c d a) { sc := c.toNat, srcs := [.s a.toNat] } noExtra
    (fun x s =>
      let inHandler := match x.warp? s x.lead with | some w => w.frozen.isSome | none => false
      if mtsAllowed n inHandler then none else some 0x048)
    (fun x s =>
      let v := x.rs s a.toNat
      .done (x.each s fun m w => mtsWarp x s n v m w)) s)

end Sys2Proof.Machine
end

