-- ==== Sys2Proof/Machine/System.lean ====
section
/-! DEFINITION. The system instructions, major 0x29, and the engine side of CSAVE and CREST (14 R264, R269; 18 R347 to R350;
19 R365 to R367; 20 R397; 22 R426, R427). -/

namespace Sys2Proof.Machine

open Sys2Proof

/-- What the contract needs of a privileged instruction. -/
def sysMeta (srcs : List (BitVec 6)) : Meta :=
  { sc := 1, dist := 2, srcs := srcs.map fun r => .s r.toNat, priv := true, access := true }

/-! ### RFT -/

/-- The handler's own pending results have been written. -/
def handlerDone (w : Warp) : Bool := w.splits.all fun p => p.wins.all fun x => x.pend == .done

/-- RFT leaves the handler (14 R269; 20 R397). -/
def execRft (s : State) : Host.Outcome State Fault Refusal :=
  .next (issue .rft { sc := 1, dist := 2 } noExtra
    (fun x s => match x.warp? s x.lead with
      | some w => if w.frozen.isNone then some 0x1E3 else none
      | none => none)
    (fun x s => match x.warp? s x.lead with
      | none => .done s
      | some w => if handlerDone w then .done (returnTrap s x.core x.slot x.lead) else .wait .lookahead id) s)

/-! ### TLBI and HARV -/

/-- The faults of TLBI's operand words (22 Table 22.4). -/
def tlbiFault (a b : DWord) : Option Nat :=
  let mode := bits a 10 2
  let n := bits a 16 32
  if mode = 3 ∨ bits a 12 4 ≠ 0 ∨ bits a 48 16 ≠ 0 ∨ bits b 56 8 ≠ 0 ∨ (mode = 2 ∧ bits a 0 10 ≠ 0)
      ∨ (mode ≠ 0 ∧ (n ≠ 0 ∨ bits b 0 56 ≠ 0)) ∨ bits b 0 16 ≠ 0 ∨ 2 ^ 56 < bits b 0 56 + 0x10000 * n then some 0x106
  else none

/-- A TLB entry is covered: of every context, of the context, or with a page that meets the range (22 R427). -/
def tlbiCovers (a b : DWord) (e : TlbEntry) : Bool :=
  let lo := bits b 0 56
  let hi := lo + 0x10000 * bits a 16 32
  match bits a 10 2 with
  | 2 => true
  | 1 => e.asid == bits a 0 10
  | _ => e.asid == bits a 0 10 && decide (e.va < hi) && decide (lo < e.va + 2 ^ e.lg)

/-- An arm entry's page is covered. -/
def tlbiArm (a b : DWord) (e : Arm) : Bool :=
  let lo := bits b 0 56
  match bits a 10 2 with
  | 2 => e.meets e.asid 0 (2 ^ 56)
  | 1 => e.meets (bits a 0 10) 0 (2 ^ 56)
  | _ => e.meets (bits a 0 10) lo (lo + 0x10000 * bits a 16 32)

/-- TLBI's effect (22 R427): the release, the entries of every TLB with their flags, the arm entries. -/
def tlbiEffect (a b : DWord) (x : Ix) (s : State) : State :=
  let s := releaseCore s x.core (x.asid s) 3
  if bits a 10 2 = 0 ∧ bits a 16 32 = 0 then s
  else removeArms (dropEntries s (tlbiCovers a b)) (tlbiArm a b)

/-- The accesses that may have translated through a covered entry and are not performed: those with another device. An access does not
keep the size of its page, so the largest size stands for it (10 R200). -/
def tlbiOpen (a b : DWord) (s : State) : List Nat :=
  (s.remPend.filter fun p => tlbiCovers a b
    { asid := p.2.asid, lg := 36, va := p.2.va / 2 ^ 36 * 2 ^ 36, pte := 0, pteAddr := 0, dirtied := false, dirtySince := 0 }).map
    (·.1)

/-- TLBI (22 R426, R427): once the entries are dropped, it waits for the accesses that translated through them (10 R200). -/
def execTlbi (a b : BitVec 6) (s : State) : Host.Outcome State Fault Refusal :=
  .next (issue (.tlbi a b) (sysMeta [a, b]) noExtra (fun x s => tlbiFault (x.rs s a.toNat) (x.rs s b.toNat))
    (fun x s =>
      let va := x.rs s a.toNat
      let vb := x.rs s b.toNat
      let wait (l : Option (List Nat)) (s : State) : State :=
        s.modSplit x.core x.slot x.lead x.split fun q => { q with await := l }
      match (s.split? x.core x.slot x.lead x.split).bind (·.await) with
      | none =>
        let left := tlbiOpen va vb s
        if left.isEmpty then .done (tlbiEffect va vb x s)
        else .wait .memory fun s => wait (some left) (tlbiEffect va vb x s)
      | some left => if left.any s.remPend.has then .wait .memory id else .done (wait none s)) s)

/-- HARV (19 R367): the gathered dirty flags are written, and no entry goes. -/
def execHarv (a : BitVec 6) (s : State) : Host.Outcome State Fault Refusal :=
  .next (issue (.harv a) (sysMeta [a]) noExtra
    (fun x s => if bits (x.rs s a.toNat) 11 53 ≠ 0 then some 0x106 else none)
    (fun x s =>
      let v := x.rs s a.toNat
      .done (harvest s fun e => bit v 10 || e.asid == bits v 0 10)) s)

/-! ### HALTC -/

/-- The faults of HALTC's operand word (19 R365). -/
def haltFault (core : Nat) (v : DWord) : Option Nat :=
  if bits v 11 53 ≠ 0 ∨ 768 ≤ bits v 0 10 ∨ bits v 0 10 = core then some 0x106 else none

/-- A halt is asked for: at once if the core is halted, else once no block is resident (19 R366). -/
def haltCore (s : State) (c : Nat) (by_ : Nat × Nat) : State :=
  if (s.core c).halted then opDone s by_.1 by_.2 0
  else
    let s := s.modCore c fun x => { x with haltOps := x.haltOps ++ [by_] }
    let s := { s with blocks := s.blocks.map fun p =>
                 if p.1 / 96 = c then (p.1, { p.2 with warps := p.2.warps.map Warp.wake }) else p }
    settleHalt s c

/-- The largest pts of the cores of a die. -/
def diePts (s : State) (c : Nat) : BitVec 20 :=
  s.cores.foldl (fun t p => if coreDie p.1 = coreDie c then tsMax t p.2.pts else t) 0#20

/-- A halted core goes back to the shares that it was taken from, where the grids still run (19 R366). -/
def rejoin (s : State) (c : Nat) : State :=
  let keys := (s.core c).haltFrom
  { s with grids := s.grids.map fun (g : Nat × Grid) =>
      if keys.contains g.1 && !g.2.complete && !g.2.share.contains c then (g.1, { g.2 with share := g.2.share ++ [c] }) else g }

/-- A resume: of a halted core, of one whose halt is pending, or of neither (19 R366). -/
def resumeCore (s : State) (c : Nat) (by_ : Nat × Nat) : State :=
  let x := s.core c
  let s :=
    if x.halted then
      let t := diePts s c
      (rejoin s c).modCore c fun k => { k with halted := false, haltFrom := [], l1d := [], pts := t }
    else
      x.haltOps.foldl (fun s q => opDone s q.1 q.2 0x108) (s.modCore c fun k => { k with haltOps := [] })
  opDone s by_.1 by_.2 0

/-- HALTC (19 R365, R366): an operation entry, and no leave or queue. -/
def execHaltc (h : BitVec 4) (a : BitVec 6) (s : State) : Host.Outcome State Fault Refusal :=
  .next (issue (.haltc h a) (sysMeta [a]) noExtra (fun x s => haltFault x.core (x.rs s a.toNat))
    (fun x s =>
      let v := x.rs s a.toNat
      match freeEntryNo s x.core with
      | none => .wait .engineFull id
      | some e =>
        let s := issued (putOp s x.core e { newOp s x .halt v 0#64 with accepted := true }) x h.toNat e
        let c := bits v 0 10
        .done (freeOps (if bit v 10 then resumeCore s c (x.core, e) else haltCore s c (x.core, e)) x.core)) s)

/-! ### CSAVE and CREST -/

/-- The faults of CSAVE's operand words (18 Table 18.5). -/
def csaveFault (a b : DWord) : Option Nat :=
  if bits a 17 47 ≠ 0 ∨ 768 ≤ bits a 0 10 ∨ 96 ≤ bits a 10 7 ∨ bits b 56 8 ≠ 0 then some 0x106
  else if bits b 0 12 ≠ 0 then some 0x081 else none

/-- The faults of CREST's operand words (18 Table 18.5). -/
def crestFault (a b : DWord) : Option Nat :=
  if bits a 10 7 ≠ 0 ∨ bits a 28 36 ≠ 0 ∨ 768 ≤ bits a 0 10 ∨ bits b 56 8 ≠ 0 then some 0x106
  else if bits b 0 12 ≠ 0 then some 0x081 else none

/-- Issues an operation of the copy engine that has no record of its own: its operand words stand for it. -/
def issueArea (kind : OpKind) (x : Ix) (s : State) (a b : DWord) (h : Nat) : Res :=
  let n := s.nextTag
  match issueWithLeave x s kind a b 1 h (decide ((s.core x.core).copyQ.length < 16)) .engineFull
      fun e k => { k with copyQ := k.copyQ ++ [e], ops := modKey k.ops e fun o => { o with accepted := true, turn := n } } with
  | .done t => .done { t with nextTag := n + 1 }
  | r => r

/-- The CSAVEs of the device that name the block slot of an operation and have not completed. -/
def savesOf (s : State) (op : OpEntry) : List (Nat × Nat × OpEntry) :=
  s.cores.flatMap fun (c : Nat × Core) => (c.2.ops.filter fun p =>
    p.2.kind == .csave && !p.2.complete && bits p.2.raddr 0 17 == bits op.raddr 0 17).map fun p => (c.1, p.1, p.2)

/-- CSAVE (18 R347, R348). -/
def execCsave (h : BitVec 4) (a b : BitVec 6) (s : State) : Host.Outcome State Fault Refusal :=
  .next (issue (.csave h a b) (sysMeta [a, b]) noExtra (fun x s => csaveFault (x.rs s a.toNat) (x.rs s b.toNat))
    (fun x s => issueArea .csave x s (x.rs s a.toNat) (x.rs s b.toNat) h.toNat) s)

/-- CREST (18 R347, R349). -/
def execCrest (h : BitVec 4) (a b : BitVec 6) (s : State) : Host.Outcome State Fault Refusal :=
  .next (issue (.crest h a b) (sysMeta [a, b]) noExtra (fun x s => crestFault (x.rs s a.toNat) (x.rs s b.toNat))
    (fun x s => issueArea .crest x s (x.rs s a.toNat) (x.rs s b.toNat) h.toNat) s)

/-- Writes the words of an area from word `next` on; true when all are written. -/
def writeArea (c e base : Nat) : List DWord → Nat → State → Bool × State
  | [], _, s => (true, s)
  | w :: r, n, s =>
    match engOp? s c e with
    | none => (false, s)
    | some op => match engWrite s c e op 0 8 (base + 8 * n) w.toNat with
      | (.ok, s) => writeArea c e base r (n + 1) (modEng s c e fun o => { o with next := n + 1 })
      | (x, s) => (false, engStopWrite s c e x)

/-- CSAVE at the head of the copy queue (18 R348): those that name one block are served in the order of their acceptance, and the first
saves it. The gang stops; once the block may be saved its area is written, and the block leaves its core. -/
def runCsave (s : State) (c e : Nat) (op : OpEntry) : State :=
  let core := bits op.raddr 0 10
  let slot := bits op.raddr 10 7
  if (savesOf s op).any fun p => decide (p.2.2.turn < op.turn) then s
  else if op.late then opDone s c e 0x106
  else match s.block? core slot with
  | none => opDone s c e 0x106
  | some b =>
    let s := freezeBlocks s (fun k _ => k == State.blockKey core slot) false
    if !quiet s core slot b then s
    else
      let s := settleTiles s core b
      let (sv, t) := saveBlock s core slot b
      match writeArea c e (bits op.raddr2 0 56) ((areaWords s sv).drop op.next) op.next s with
      | (false, s) => s
      | (true, s') =>
        if engRemote s' c e then s'
        else
          let (sv, t) := match s'.block? core slot with
            | some b => saveBlock s' core slot b
            | none => (sv, t)
          let t := t.modGrid sv.block.grid fun g => { g with away := g.away ++ [sv] }
          let t := (savesOf t op).foldl (fun s p => if p.2.2.turn = op.turn then s else
            s.modOp p.1 p.2.1 fun o => { o with late := true }) t
          opDone (settleHalt (drainFlits t) core) c e 0

/-- The saved block that a header names (18 R349). -/
def savedOf (s : State) (asid : Nat) (ws : List DWord) : Option (Nat × Saved) :=
  (s.grids.flatMap fun (g : Nat × Grid) => g.2.away.map fun v => (g.1, v)).find? fun p =>
    p.2.block.asid == asid && p.2.block.kernel.addr.toNat % 2 ^ 56 == recField ws 1 0 56
      && p.2.block.number.toNat == recField ws 3 0 32 && p.2.block.gang.toNat == recField ws 3 32 32

/-- A block of the same context, kernel, number and gang is resident. -/
def residentLike (s : State) (asid : Nat) (ws : List DWord) : Bool :=
  s.blocks.any fun p => p.2.asid == asid && p.2.kernel.addr.toNat % 2 ^ 56 == recField ws 1 0 56
    && p.2.number.toNat == recField ws 3 0 32 && p.2.gang.toNat == recField ws 3 32 32

/-- The header breaks Table 14.6 (18 R349). -/
def badHeader (ws : List DWord) (k : Kernel) : Bool :=
  recField ws 0 0 16 != 1 || decide (8 < recField ws 0 21 4) || recField ws 0 32 8 != k.d || recField ws 0 40 8 != k.i

/-- Restores a block on a core, in the cycle in which the operation completes (18 R349). -/
def placeSaved (s : State) (gk : Nat) (v : Saved) (c : Nat) (m : Room) (l : List (Nat × Nat)) : State :=
  let s := s.modGrid gk fun g => { g with away := g.away.filter fun w =>
    !(w.block.number == v.block.number && w.block.gang == v.block.gang) }
  resumeGang (restoreBlock s v c m l) gk v.block.gang

/-- CREST at the head of the copy queue (18 R349). -/
def runCrest (s : State) (c e : Nat) (op : OpEntry) : State :=
  let s := engAcquire s c e true
  let asid := bits op.raddr 18 10
  let area := bits op.raddr2 0 56
  match engReadMany s c e op 0 area headerWords [] with
  | (.error r, s) => engStopRead s c e r
  | (.ok ws, s) =>
    match savedOf s asid ws with
    | none => opDone s c e 0x106
    | some (gk, v) =>
      if badHeader ws v.block.kernel || residentLike s asid ws then opDone s c e 0x106
      else match engReadMany s c e op 0 area (areaLength v.block.kernel v.block.scrSize v.block.warps.length) [] with
        | (.error r, s) => engStopRead s c e r
        | (.ok ws, s) =>
          let share := match s.grids.get? gk with | some g => g.share | none => []
          let dies : BitVec 6 := match s.grids.get? gk with | some g => g.dies | none => 0
          let able (k : Nat) : Option (Nat × Room × List (Nat × Nat)) :=
            if bit dies (coreDie k) then (restorable s v k).map fun m => (k, m) else none
          let cores := if bit op.raddr 17 then (List.range 768).filter share.contains else [bits op.raddr 0 10]
          match cores.findSome? able with
          | none => s
          | some (k, m, l) => opDone (placeSaved s gk (areaBlock ws v) k m l) c e 0

/-- COPY_COMPLETE: the operation at the head of a core's copy queue goes on to its end (12 R230, R231; 18 R347 to R349). -/
def execCopyComplete (core entry : Nat) (s : State) : Host.Outcome State Fault Refusal :=
  .next (
    if ioCore ≤ core then s
    else match s.op? core entry with
      | none => s
      | some op =>
        if (s.core core).copyQ.head? ≠ some entry ∨ op.complete ∨ op.suspended ∨ op.asks ≠ 0 then s
        else match op.kind with
          | .csave => runCsave s core entry op
          | .crest => runCrest s core entry op
          | _ => copyComplete s core entry op)

end Sys2Proof.Machine
end

