-- ==== Sys2Proof/Machine/Transcendental.lean ====
section
/-! DEFINITION. The transcendental group, major 0x09 (19 R361; 07 R145, Table 7.5). The specification bounds each result
and does not give it: the result is the free value `Config.transcendental` where that lies within the bound, else the
nearest value (log 4). The bound is decided with fixed-point enclosures of 400 fraction bits. -/

namespace Sys2Proof.Machine

open Sys2Proof

/-- Fraction bits of the enclosures. -/
def fxBits : Nat := 400

/-- One, in fixed point. -/
def fxOne : Int := 2 ^ 400

/-- Sum of an odd power series: Σ (±1)^k z^(2k+1) / (2k+1), from `p = z^(2k+1)` on. -/
def fxAtanSum (alt : Bool) (z2 p : Int) (k : Nat) : Nat → Int
  | 0 => 0
  | n + 1 =>
    let t := p / ((2 * k + 1 : Nat) : Int)
    (if alt && k % 2 == 1 then -t else t) + fxAtanSum alt z2 (p * z2 / fxOne) (k + 1) n

/-- The inverse hyperbolic tangent of z, |z| ≤ 1/3. -/
def fxAtanh (z : Int) : Int := fxAtanSum false (z * z / fxOne) z 0 140

/-- The inverse tangent of 1/n. -/
def fxAtanInv (n : Int) : Int := fxAtanSum true (fxOne / (n * n)) (fxOne / n) 0 180

/-- π, by Machin's formula. -/
def fxPi : Int := 16 * fxAtanInv 5 - 4 * fxAtanInv 239

/-- The natural logarithm of 2. -/
def fxLn2 : Int := 2 * fxAtanh (fxOne / 3)

/-- Taylor sum of the exponential from the term `t` = y^k / k! on. -/
def fxExpSum (y t : Int) (k : Nat) : Nat → Int
  | 0 => 0
  | n + 1 => t + fxExpSum y (t * y / fxOne / ((k + 1 : Nat) : Int)) (k + 1) n

/-- 2^x for a fixed-point x of at most 2^12 in magnitude; values below 2^-400 read 0. -/
def fxExp2 (x : Int) : Int :=
  let i := x / fxOne
  let f := x % fxOne
  let v := fxExpSum (f * fxLn2 / fxOne) fxOne 0 110
  if 0 ≤ i then v * 2 ^ i.toNat else v / 2 ^ (-i).toNat

/-- e^x. -/
def fxExp (x : Int) : Int := fxExp2 (x * fxOne / fxLn2)

/-- Taylor sum of sine or cosine from the term `t` = y^k / k! on; signs alternate. -/
def fxTrigSum (y2 t : Int) (k : Nat) : Nat → Int
  | 0 => 0
  | n + 1 => t - fxTrigSum y2 (t * y2 / fxOne / (((k + 1) * (k + 2) : Nat) : Int)) (k + 2) n

/-- An angle brought into [−π, π]. -/
def fxReduce (x : Int) : Int :=
  let p := fxPi
  (x + p) % (2 * p) - p

/-- The fixed-point value of a finite f32, exactly. -/
def fxOf (neg : Bool) (m : Nat) (e : Int) : Int :=
  let v : Int := ((m * 2 ^ (e + 400).toNat : Nat) : Int)
  if neg then -v else v

/-- Functions of major 0x09 by FN, FSQRT apart. -/
inductive TFun where
  | rcp | rsq | exp2 | log2 | sin | cos | tanh | sigm
deriving DecidableEq, Repr

/-- FN of a function (19 R361). -/
def TFun.fn : TFun → Nat
  | .rcp => 0
  | .rsq => 1
  | .exp2 => 3
  | .log2 => 4
  | .sin => 5
  | .cos => 6
  | .tanh => 7
  | .sigm => 8

/-- The function's value on a finite nonspecial input, within 2^-190. Beyond ±4096 the exponential functions act as at that
bound, where they overflow, vanish or reach their limits. -/
def TFun.value (t : TFun) (neg : Bool) (m : Nat) (e : Int) : Int :=
  let x := fxOf neg m e
  let lim : Int := 4096 * fxOne
  let xc := clamp (-lim) lim x
  match t with
  | .rcp => fxOne * fxOne / x
  | .rsq => ((isqrt ((fxOne * fxOne * fxOne / x).toNat) 0 1280 : Nat) : Int)
  | .exp2 => fxExp2 xc
  | .log2 =>
    let k := bitLen m - 1
    let z : Int := ((m : Int) - 2 ^ k) * fxOne / ((m : Int) + 2 ^ k)
    (e + (k : Int)) * fxOne + 2 * fxAtanh z * fxOne / fxLn2
  | .sin => let y := fxReduce x; fxTrigSum (y * y / fxOne) y 1 80
  | .cos => let y := fxReduce x; fxTrigSum (y * y / fxOne) fxOne 0 80
  | .tanh =>
    let a := if x < 0 then -x else x
    if 200 * fxOne < a then (if neg then -fxOne else fxOne)
    else
      let q := fxExp (2 * a)
      let r := (q - fxOne) * fxOne / (q + fxOne)
      if neg then -r else r
  | .sigm =>
    if 400 * fxOne < x then fxOne
    else if x < -(400 * fxOne) then 0
    else fxOne * fxOne / (fxOne + fxExp (-x))

/-- Whether the exact value is a binary fraction, so that `value` gives it exactly (07 R145: nx); a power of two too small for `value` is
not zero. -/
def TFun.isExact (t : TFun) (m : Nat) (e : Int) (v : Int) (x : Int) : Bool :=
  match t with
  | .rcp => v * x == fxOne * fxOne
  | .rsq => v * v * x == fxOne * fxOne * fxOne
  | .exp2 => (decide (0 ≤ e) || m % 2 ^ (-e).toNat == 0) && v != 0
  | .log2 => m == 2 ^ (bitLen m - 1)
  | _ => m == 0

/-- Bound in ULP on an input (07 Table 7.5). -/
def TFun.bound (t : TFun) (x : Int) : Int :=
  let a := if x < 0 then -x else x
  match t with
  | .rcp => 1
  | .rsq => 1
  | .exp2 => 2
  | .log2 => 2
  | .sin => if a ≤ fxPi then 2 else 4
  | .cos => if a ≤ fxPi then 2 else 4
  | .tanh => if a ≤ 8 * fxOne then 2 else 4
  | .sigm => if a ≤ 16 * fxOne then 2 else 4

/-- A candidate result is finite and lies within the bound. -/
def TFun.meetsBound (t : TFun) (x v : Int) (r : Nat) : Bool :=
  match Fmt.f32.decode r with
  | .fin n m e =>
    let guard : Int := 2 ^ 210
    let d := fxOf n m e - v
    let a := (if v < 0 then -v else v) - guard
    let lg : Int := if a ≤ 0 then -126 else (bitLen a.toNat : Int) - 401
    let ulp : Int := 2 ^ ((if lg < -126 then -126 else lg) - 23 + 400).toNat
    decide ((if d < 0 then -d else d) + guard ≤ t.bound x * ulp)
  | _ => false

/-- A finite result as delivered: flags nx and uf, and the result flush (07 R141, R142). -/
def tDeliver (ftz : Bool) (r : Nat) (nx : Bool) : Nat × Flags :=
  let sub := r % 2 ^ 31 < 2 ^ 23
  if sub && ftz && r % 2 ^ 31 != 0 then (r / 2 ^ 31 * 2 ^ 31, { uf := true, nx := true, fz := true })
  else (r, { nx := nx, uf := nx && sub })

/-- A finite nonspecial input: overflow beyond the f32 range, else the free result within its bound (19 R361). -/
def TFun.finite (t : TFun) (env : FEnv) (pattern : Nat) (neg : Bool) (m : Nat) (e : Int) : Nat × Flags :=
  let v := t.value neg m e
  let x := fxOf neg m e
  if 2 ^ 528 ≤ (if v < 0 then -v else v) then Fmt.f32.overflow { env with mode := .rne } (decide (v < 0))
  else
    let c := (Config.transcendental t.fn (BitVec.ofNat 32 pattern) env.ftz).toNat
    let near := (Fmt.f32.roundFin .rne (decide (v < 0)) v.natAbs (-400) false).1
    let r := if t.meetsBound x v c then c else near
    let rv : Int := match Fmt.f32.decode r with | .fin n m e => fxOf n m e | _ => 0
    tDeliver env.ftz r (!(t.isExact m e v x && rv == v))

/-- The transcendental functions on a pattern, special cases first (07 Table 7.5). FLOG2 of +∞ is +∞ (DEDUCED, log 4). -/
def TFun.eval (t : TFun) (env : FEnv) (a : Nat) : Nat × Flags :=
  let f := Fmt.f32
  let (p, fl) := f.flushed env.ftz a
  let r : Nat × Flags :=
    match f.decode p with
    | .nan s => f.nanOf s
    | .inf n =>
      match t with
      | .rcp => (f.signBit n, {})
      | .rsq => if n then (f.cnan, Flags.invalid) else (0, {})
      | .exp2 => if n then (0, {}) else (f.infCode false, {})
      | .log2 => if n then (f.cnan, Flags.invalid) else (f.infCode false, {})
      | .sin => (f.cnan, Flags.invalid)
      | .cos => (f.cnan, Flags.invalid)
      | .tanh => (f.signBit n + 0x3F800000, {})
      | .sigm => if n then (0, {}) else (0x3F800000, {})
    | .fin n m e =>
      match t with
      | .rcp => if m = 0 then (f.infCode n, { dz := true }) else t.finite env p n m e
      | .rsq =>
        if m = 0 then (f.infCode n, { dz := true })
        else if n then (f.cnan, Flags.invalid) else t.finite env p n m e
      | .log2 =>
        if m = 0 then (f.infCode true, { dz := true })
        else if n then (f.cnan, Flags.invalid)
        else if p = 0x3F800000 then (0, {}) else t.finite env p n m e
      | .sin => if m = 0 then (f.signBit n, {}) else t.finite env p n m e
      | _ => t.finite env p n m e
  (r.1, r.2.or fl)

/-- FSQRT on a pattern: correctly rounded in the effective mode (07 R144). -/
def fsqrtElem (env : FEnv) (a : Nat) : Nat × Flags :=
  let (v, fv) := Fmt.f32.input env.ftz a
  let (r, fr) := Fmt.f32.sqrtV env v
  (r, fv.or fr)

/-- An instruction of the transcendental group: class C, an ARITH hint without the stochastic bit (19 R361). -/
def transOp (i : Instr) (c w : BitVec 2) (d a : BitVec 6) (f : FEnv → Nat → Nat × Flags) (s : State) : State :=
  let n := wdWidth w
  let vd := vop d n
  let va := vop a n
  issue i { sc := c.toNat, dist := 6, vin := [va], vout := [vd], arith := some { cmp := false, sr := false } } noExtra
    noUniform
    (lanewiseF vd [va] 0 fun e _ q l => perElem 32 n fun j => f (e.env 0) (elemAt 32 (readOp q va l) j)) s

/-- FRCP (19 R361). -/
def execFrcp (c w : BitVec 2) (d a : BitVec 6) (s : State) : Host.Outcome State Fault Refusal :=
  .next (transOp (.frcp c w d a) c w d a TFun.rcp.eval s)

/-- FRSQ (19 R361). -/
def execFrsq (c w : BitVec 2) (d a : BitVec 6) (s : State) : Host.Outcome State Fault Refusal :=
  .next (transOp (.frsq c w d a) c w d a TFun.rsq.eval s)

/-- FSQRT (19 R361). -/
def execFsqrt (c w : BitVec 2) (d a : BitVec 6) (s : State) : Host.Outcome State Fault Refusal :=
  .next (transOp (.fsqrt c w d a) c w d a fsqrtElem s)

/-- FEXP2 (19 R361). -/
def execFexp2 (c w : BitVec 2) (d a : BitVec 6) (s : State) : Host.Outcome State Fault Refusal :=
  .next (transOp (.fexp2 c w d a) c w d a TFun.exp2.eval s)

/-- FLOG2 (19 R361). -/
def execFlog2 (c w : BitVec 2) (d a : BitVec 6) (s : State) : Host.Outcome State Fault Refusal :=
  .next (transOp (.flog2 c w d a) c w d a TFun.log2.eval s)

/-- FSIN (19 R361). -/
def execFsin (c w : BitVec 2) (d a : BitVec 6) (s : State) : Host.Outcome State Fault Refusal :=
  .next (transOp (.fsin c w d a) c w d a TFun.sin.eval s)

/-- FCOS (19 R361). -/
def execFcos (c w : BitVec 2) (d a : BitVec 6) (s : State) : Host.Outcome State Fault Refusal :=
  .next (transOp (.fcos c w d a) c w d a TFun.cos.eval s)

/-- FTANH (19 R361). -/
def execFtanh (c w : BitVec 2) (d a : BitVec 6) (s : State) : Host.Outcome State Fault Refusal :=
  .next (transOp (.ftanh c w d a) c w d a TFun.tanh.eval s)

/-- FSIGM (19 R361). -/
def execFsigm (c w : BitVec 2) (d a : BitVec 6) (s : State) : Host.Outcome State Fault Refusal :=
  .next (transOp (.fsigm c w d a) c w d a TFun.sigm.eval s)

end Sys2Proof.Machine
end

