-- ==== Sys2Proof/Machine/Dispatch.lean ====
section
/-! DEFINITION. The dispatch of every row of the opcode table to its meaning. -/

namespace Sys2Proof.Machine

open Sys2Proof

def exec (i : Instr) (s : State) : Host.Outcome State Fault Refusal :=
  match i with
  | .iadd32 c w d a b => Sys2Proof.Machine.execIadd32 c w d a b s
  | .isub32 c w d a b => Sys2Proof.Machine.execIsub32 c w d a b s
  | .imul32 c w d a b => Sys2Proof.Machine.execImul32 c w d a b s
  | .imulhI32 c w d a b => Sys2Proof.Machine.execImulhI32 c w d a b s
  | .imulhN32 c w d a b => Sys2Proof.Machine.execImulhN32 c w d a b s
  | .imad32 c w d a b => Sys2Proof.Machine.execImad32 c w d a b s
  | .iminI32 c w d a b => Sys2Proof.Machine.execIminI32 c w d a b s
  | .iminN32 c w d a b => Sys2Proof.Machine.execIminN32 c w d a b s
  | .imaxI32 c w d a b => Sys2Proof.Machine.execImaxI32 c w d a b s
  | .imaxN32 c w d a b => Sys2Proof.Machine.execImaxN32 c w d a b s
  | .iabs32 c w d a => Sys2Proof.Machine.execIabs32 c w d a s
  | .iaddsI32 c w d a b => Sys2Proof.Machine.execIaddsI32 c w d a b s
  | .iaddsN32 c w d a b => Sys2Proof.Machine.execIaddsN32 c w d a b s
  | .isubsI32 c w d a b => Sys2Proof.Machine.execIsubsI32 c w d a b s
  | .isubsN32 c w d a b => Sys2Proof.Machine.execIsubsN32 c w d a b s
  | .iadd64 c d a b => Sys2Proof.Machine.execIadd64 c d a b s
  | .isub64 c d a b => Sys2Proof.Machine.execIsub64 c d a b s
  | .imul64 c d a b => Sys2Proof.Machine.execImul64 c d a b s
  | .imulhI64 c d a b => Sys2Proof.Machine.execImulhI64 c d a b s
  | .imulhN64 c d a b => Sys2Proof.Machine.execImulhN64 c d a b s
  | .imad64 c d a b => Sys2Proof.Machine.execImad64 c d a b s
  | .iminI64 c d a b => Sys2Proof.Machine.execIminI64 c d a b s
  | .iminN64 c d a b => Sys2Proof.Machine.execIminN64 c d a b s
  | .imaxI64 c d a b => Sys2Proof.Machine.execImaxI64 c d a b s
  | .imaxN64 c d a b => Sys2Proof.Machine.execImaxN64 c d a b s
  | .iabs64 c d a => Sys2Proof.Machine.execIabs64 c d a s
  | .iaddsI64 c d a b => Sys2Proof.Machine.execIaddsI64 c d a b s
  | .iaddsN64 c d a b => Sys2Proof.Machine.execIaddsN64 c d a b s
  | .isubsI64 c d a b => Sys2Proof.Machine.execIsubsI64 c d a b s
  | .isubsN64 c d a b => Sys2Proof.Machine.execIsubsN64 c d a b s
  | .and c w d a b => Sys2Proof.Machine.execAnd c w d a b s
  | .or c w d a b => Sys2Proof.Machine.execOr c w d a b s
  | .xor c w d a b => Sys2Proof.Machine.execXor c w d a b s
  | .andn c w d a b => Sys2Proof.Machine.execAndn c w d a b s
  | .shl c d a b => Sys2Proof.Machine.execShl c d a b s
  | .shrN c d a b => Sys2Proof.Machine.execShrN c d a b s
  | .shrI c d a b => Sys2Proof.Machine.execShrI c d a b s
  | .rot c d a b => Sys2Proof.Machine.execRot c d a b s
  | .popc c d a => Sys2Proof.Machine.execPopc c d a s
  | .clz c d a => Sys2Proof.Machine.execClz c d a s
  | .brev c d a => Sys2Proof.Machine.execBrev c d a s
  | .bfxN c d a b => Sys2Proof.Machine.execBfxN c d a b s
  | .bfxI c d a b => Sys2Proof.Machine.execBfxI c d a b s
  | .bfi c d a b => Sys2Proof.Machine.execBfi c d a b s
  | .vsel c w d a b => Sys2Proof.Machine.execVsel c w d a b s
  | .iaddi c w d imm => Sys2Proof.Machine.execIaddi c w d imm s
  | .andi c w d imm => Sys2Proof.Machine.execAndi c w d imm s
  | .ori c w d imm => Sys2Proof.Machine.execOri c w d imm s
  | .xori c w d imm => Sys2Proof.Machine.execXori c w d imm s
  | .shli c w d imm => Sys2Proof.Machine.execShli c w d imm s
  | .shriN c w d imm => Sys2Proof.Machine.execShriN c w d imm s
  | .shriI c w d imm => Sys2Proof.Machine.execShriI c w d imm s
  | .vmovi c w d imm => Sys2Proof.Machine.execVmovi c w d imm s
  | .imuli c w d imm => Sys2Proof.Machine.execImuli c w d imm s
  | .faddF32 c w d a b => Sys2Proof.Machine.execFaddF32 c w d a b s
  | .fsubF32 c w d a b => Sys2Proof.Machine.execFsubF32 c w d a b s
  | .fmulF32 c w d a b => Sys2Proof.Machine.execFmulF32 c w d a b s
  | .ffmaF32 c w d a b => Sys2Proof.Machine.execFfmaF32 c w d a b s
  | .fminF32 c w d a b => Sys2Proof.Machine.execFminF32 c w d a b s
  | .fmaxF32 c w d a b => Sys2Proof.Machine.execFmaxF32 c w d a b s
  | .fabsF32 c w d a => Sys2Proof.Machine.execFabsF32 c w d a s
  | .fnegF32 c w d a => Sys2Proof.Machine.execFnegF32 c w d a s
  | .fscaleF32 c w d a b => Sys2Proof.Machine.execFscaleF32 c w d a b s
  | .fdivF32 c w d a b => Sys2Proof.Machine.execFdivF32 c w d a b s
  | .fclassF32 c w d a => Sys2Proof.Machine.execFclassF32 c w d a s
  | .frndF32 c w d a => Sys2Proof.Machine.execFrndF32 c w d a s
  | .faddF64 c d a b => Sys2Proof.Machine.execFaddF64 c d a b s
  | .fsubF64 c d a b => Sys2Proof.Machine.execFsubF64 c d a b s
  | .fmulF64 c d a b => Sys2Proof.Machine.execFmulF64 c d a b s
  | .ffmaF64 c d a b => Sys2Proof.Machine.execFfmaF64 c d a b s
  | .fminF64 c d a b => Sys2Proof.Machine.execFminF64 c d a b s
  | .fmaxF64 c d a b => Sys2Proof.Machine.execFmaxF64 c d a b s
  | .fabsF64 c d a => Sys2Proof.Machine.execFabsF64 c d a s
  | .fnegF64 c d a => Sys2Proof.Machine.execFnegF64 c d a s
  | .fscaleF64 c d a b => Sys2Proof.Machine.execFscaleF64 c d a b s
  | .fdivF64 c d a b => Sys2Proof.Machine.execFdivF64 c d a b s
  | .fclassF64 c d a => Sys2Proof.Machine.execFclassF64 c d a s
  | .frndF64 c d a => Sys2Proof.Machine.execFrndF64 c d a s
  | .faddF16x2 c w d a b => Sys2Proof.Machine.execFaddF16x2 c w d a b s
  | .fsubF16x2 c w d a b => Sys2Proof.Machine.execFsubF16x2 c w d a b s
  | .fmulF16x2 c w d a b => Sys2Proof.Machine.execFmulF16x2 c w d a b s
  | .ffmaF16x2 c w d a b => Sys2Proof.Machine.execFfmaF16x2 c w d a b s
  | .fminF16x2 c w d a b => Sys2Proof.Machine.execFminF16x2 c w d a b s
  | .fmaxF16x2 c w d a b => Sys2Proof.Machine.execFmaxF16x2 c w d a b s
  | .fabsF16x2 c w d a => Sys2Proof.Machine.execFabsF16x2 c w d a s
  | .fnegF16x2 c w d a => Sys2Proof.Machine.execFnegF16x2 c w d a s
  | .faddBf16x2 c w d a b => Sys2Proof.Machine.execFaddBf16x2 c w d a b s
  | .fsubBf16x2 c w d a b => Sys2Proof.Machine.execFsubBf16x2 c w d a b s
  | .fmulBf16x2 c w d a b => Sys2Proof.Machine.execFmulBf16x2 c w d a b s
  | .ffmaBf16x2 c w d a b => Sys2Proof.Machine.execFfmaBf16x2 c w d a b s
  | .fminBf16x2 c w d a b => Sys2Proof.Machine.execFminBf16x2 c w d a b s
  | .fmaxBf16x2 c w d a b => Sys2Proof.Machine.execFmaxBf16x2 c w d a b s
  | .fabsBf16x2 c w d a => Sys2Proof.Machine.execFabsBf16x2 c w d a s
  | .fnegBf16x2 c w d a => Sys2Proof.Machine.execFnegBf16x2 c w d a s
  | .frcp c w d a => Sys2Proof.Machine.execFrcp c w d a s
  | .frsq c w d a => Sys2Proof.Machine.execFrsq c w d a s
  | .fsqrt c w d a => Sys2Proof.Machine.execFsqrt c w d a s
  | .fexp2 c w d a => Sys2Proof.Machine.execFexp2 c w d a s
  | .flog2 c w d a => Sys2Proof.Machine.execFlog2 c w d a s
  | .fsin c w d a => Sys2Proof.Machine.execFsin c w d a s
  | .fcos c w d a => Sys2Proof.Machine.execFcos c w d a s
  | .ftanh c w d a => Sys2Proof.Machine.execFtanh c w d a s
  | .fsigm c w d a => Sys2Proof.Machine.execFsigm c w d a s
  | .icmp c w k sf a b => Sys2Proof.Machine.execIcmp c w k sf a b s
  | .fcmpF32 c k sf a b => Sys2Proof.Machine.execFcmpF32 c k sf a b s
  | .fcmpF64 c k sf a b => Sys2Proof.Machine.execFcmpF64 c k sf a b s
  | .fcvt c n m g e d a x y => Sys2Proof.Machine.execFcvt c n m g e d a x y s
  | .vpackB c d a b => Sys2Proof.Machine.execVpackB c d a b s
  | .vpackH c d a b => Sys2Proof.Machine.execVpackH c d a b s
  | .vunpkB c d a b => Sys2Proof.Machine.execVunpkB c d a b s
  | .vunpkH c d a b => Sys2Proof.Machine.execVunpkH c d a b s
  | .vmov c w d a => Sys2Proof.Machine.execVmov c w d a s
  | .vmovs c d a => Sys2Proof.Machine.execVmovs c d a s
  | .vget c d a b => Sys2Proof.Machine.execVget c d a b s
  | .vsetl c d a b => Sys2Proof.Machine.execVsetl c d a b s
  | .mfsVector c d a => Sys2Proof.Machine.execMfsVector c d a s
  | .xset c d a => Sys2Proof.Machine.execXset c d a s
  | .xidx c d a => Sys2Proof.Machine.execXidx c d a s
  | .xadd c d a => Sys2Proof.Machine.execXadd c d a s
  | .xget c d a => Sys2Proof.Machine.execXget c d a s
  | .trd c r t v sf imm => Sys2Proof.Machine.execTrd c r t v sf imm s
  | .twr c r t v sf imm => Sys2Proof.Machine.execTwr c r t v sf imm s
  | .tacc c r t v sf imm => Sys2Proof.Machine.execTacc c r t v sf imm s
  | .tzero c r t sf imm => Sys2Proof.Machine.execTzero c r t sf imm s
  | .shfl c w d a b => Sys2Proof.Machine.execShfl c w d a b s
  | .shflx c w d a b => Sys2Proof.Machine.execShflx c w d a b s
  | .bcast c w d a b => Sys2Proof.Machine.execBcast c w d a b s
  | .qxch c w d a b => Sys2Proof.Machine.execQxch c w d a b s
  | .scan c w d a b => Sys2Proof.Machine.execScan c w d a b s
  | .reduce c w d a b => Sys2Proof.Machine.execReduce c w d a b s
  | .vote c d a b => Sys2Proof.Machine.execVote c d a b s
  | .xshuf l w d a sf => Sys2Proof.Machine.execXshuf l w d a sf s
  | .sadd c d a b => Sys2Proof.Machine.execSadd c d a b s
  | .ssub c d a b => Sys2Proof.Machine.execSsub c d a b s
  | .smul c d a b => Sys2Proof.Machine.execSmul c d a b s
  | .sand c d a b => Sys2Proof.Machine.execSand c d a b s
  | .sor c d a b => Sys2Proof.Machine.execSor c d a b s
  | .sxor c d a b => Sys2Proof.Machine.execSxor c d a b s
  | .sandn c d a b => Sys2Proof.Machine.execSandn c d a b s
  | .sshl c d a b => Sys2Proof.Machine.execSshl c d a b s
  | .sshrN c d a b => Sys2Proof.Machine.execSshrN c d a b s
  | .sshrI c d a b => Sys2Proof.Machine.execSshrI c d a b s
  | .sminI c d a b => Sys2Proof.Machine.execSminI c d a b s
  | .sminN c d a b => Sys2Proof.Machine.execSminN c d a b s
  | .smaxI c d a b => Sys2Proof.Machine.execSmaxI c d a b s
  | .smaxN c d a b => Sys2Proof.Machine.execSmaxN c d a b s
  | .spopc c d a => Sys2Proof.Machine.execSpopc c d a s
  | .sffs c d a => Sys2Proof.Machine.execSffs c d a s
  | .saddi c d imm => Sys2Proof.Machine.execSaddi c d imm s
  | .sandi c d imm => Sys2Proof.Machine.execSandi c d imm s
  | .sori c d imm => Sys2Proof.Machine.execSori c d imm s
  | .sxori c d imm => Sys2Proof.Machine.execSxori c d imm s
  | .sshli c d imm => Sys2Proof.Machine.execSshli c d imm s
  | .sshriN c d imm => Sys2Proof.Machine.execSshriN c d imm s
  | .sshriI c d imm => Sys2Proof.Machine.execSshriI c d imm s
  | .smovi c d imm => Sys2Proof.Machine.execSmovi c d imm s
  | .smuli c d imm => Sys2Proof.Machine.execSmuli c d imm s
  | .scmp c k sf a b => Sys2Proof.Machine.execScmp c k sf a b s
  | .smov c d a => Sys2Proof.Machine.execSmov c d a s
  | .ssel c d a b => Sys2Proof.Machine.execSsel c d a b s
  | .mfsScalar c d a => Sys2Proof.Machine.execMfsScalar c d a s
  | .mts c d a => Sys2Proof.Machine.execMts c d a s
  | .bra c o => Sys2Proof.Machine.execBra c o s
  | .brz c sf o => Sys2Proof.Machine.execBrz c sf o s
  | .brnz c sf o => Sys2Proof.Machine.execBrnz c sf o s
  | .brx sf o => Sys2Proof.Machine.execBrx sf o s
  | .call c sf o => Sys2Proof.Machine.execCall c sf o s
  | .ret c sf => Sys2Proof.Machine.execRet c sf s
  | .join sf => Sys2Proof.Machine.execJoin sf s
  | .exit c => Sys2Proof.Machine.execExit c s
  | .exitl sf => Sys2Proof.Machine.execExitl sf s
  | .refill sf => Sys2Proof.Machine.execRefill sf s
  | .refillWarp sf => Sys2Proof.Machine.execRefillWarp sf s
  | .refillBlock sf => Sys2Proof.Machine.execRefillBlock sf s
  | .yield c => Sys2Proof.Machine.execYield c s
  | .bar v => Sys2Proof.Machine.execBar v s
  | .bara v => Sys2Proof.Machine.execBara v s
  | .barw v => Sys2Proof.Machine.execBarw v s
  | .setdef sf n => Sys2Proof.Machine.execSetdef sf n s
  | .nop c => Sys2Proof.Machine.execNop c s
  | .bpt => Sys2Proof.Machine.execBpt s
  | .trap c n => Sys2Proof.Machine.execTrap c n s
  | .grow c sf => Sys2Proof.Machine.execGrow c sf s
  | .region g => Sys2Proof.Machine.execRegion g s
  | .ld c l w p d a sf => Sys2Proof.Machine.execLd c l w p d a sf s
  | .st c w p d a sf => Sys2Proof.Machine.execSt c w p d a sf s
  | .lds c l w p d a sf => Sys2Proof.Machine.execLds c l w p d a sf s
  | .sts c w p d a sf => Sys2Proof.Machine.execSts c w p d a sf s
  | .atom c l u d a sf => Sys2Proof.Machine.execAtom c l u d a sf s
  | .atoml c l u d a sf => Sys2Proof.Machine.execAtoml c l u d a sf s
  | .fence c => Sys2Proof.Machine.execFence c s
  | .pref c a => Sys2Proof.Machine.execPref c a s
  | .disc c a b => Sys2Proof.Machine.execDisc c a b s
  | .cflush c a b => Sys2Proof.Machine.execCflush c a b s
  | .qopen c q a => Sys2Proof.Machine.execQopen c q a s
  | .qrsv c l q d => Sys2Proof.Machine.execQrsv c l q d s
  | .qcmt c q d a => Sys2Proof.Machine.execQcmt c q d a s
  | .qpop c l q d => Sys2Proof.Machine.execQpop c l q d s
  | .qrel c q a => Sys2Proof.Machine.execQrel c q a s
  | .qstat c l q d => Sys2Proof.Machine.execQstat c l q d s
  | .qstamp c l q d a => Sys2Proof.Machine.execQstamp c l q d a s
  | .qclose c q => Sys2Proof.Machine.execQclose c q s
  | .cpy c h a => Sys2Proof.Machine.execCpy c h a s
  | .xfer c h a => Sys2Proof.Machine.execXfer c h a s
  | .gath c h a => Sys2Proof.Machine.execGath c h a s
  | .mmk c h a b => Sys2Proof.Machine.execMmk c h a b s
  | .mmj c h a => Sys2Proof.Machine.execMmj c h a s
  | .htest c l h a b => Sys2Proof.Machine.execHtest c l h a b s
  | .hcancel c h => Sys2Proof.Machine.execHcancel c h s
  | .hmovs c l h a => Sys2Proof.Machine.execHmovs c l h a s
  | .smovh c h a => Sys2Proof.Machine.execSmovh c h a s
  | .batch c l a => Sys2Proof.Machine.execBatch c l a s
  | .waitbBatch c a => Sys2Proof.Machine.execWaitbBatch c a s
  | .waitbHandle c h b => Sys2Proof.Machine.execWaitbHandle c h b s
  | .npost c a b => Sys2Proof.Machine.execNpost c a b s
  | .nsend c a => Sys2Proof.Machine.execNsend c a s
  | .tcadd c a b => Sys2Proof.Machine.execTcadd c a b s
  | .tcrd c l a b => Sys2Proof.Machine.execTcrd c l a b s
  | .tcarm c a b => Sys2Proof.Machine.execTcarm c a b s
  | .tcset c a b => Sys2Proof.Machine.execTcset c a b s
  | .rft => Sys2Proof.Machine.execRft s
  | .csave h a b => Sys2Proof.Machine.execCsave h a b s
  | .crest h a b => Sys2Proof.Machine.execCrest h a b s
  | .tlbi a b => Sys2Proof.Machine.execTlbi a b s
  | .harv a => Sys2Proof.Machine.execHarv a s
  | .haltc h a => Sys2Proof.Machine.execHaltc h a s
  | .hintImm p => Sys2Proof.Machine.execHintImm p s
  | .hintSched n m => Sys2Proof.Machine.execHintSched n m s
  | .hintMemord e u sf o => Sys2Proof.Machine.execHintMemord e u sf o s
  | .hintArith g f u t e m => Sys2Proof.Machine.execHintArith g f u t e m s
  | .hintStamp sf => Sys2Proof.Machine.execHintStamp sf s
  | .hintTrace p => Sys2Proof.Machine.execHintTrace p s
  | .hintRemote c => Sys2Proof.Machine.execHintRemote c s
  | .powerOn key images sigs => Sys2Proof.Machine.execPowerOn key images sigs s
  | .attestationRequest nonce => Sys2Proof.Machine.execAttestationRequest nonce s
  | .sessionEncapsulation ciphertext => Sys2Proof.Machine.execSessionEncapsulation ciphertext s
  | .sessionIdleTimeout => Sys2Proof.Machine.execSessionIdleTimeout s
  | .commandDatagram port bytes => Sys2Proof.Machine.execCommandDatagram port bytes s
  | .powerControl port bytes => Sys2Proof.Machine.execPowerControl port bytes s
  | .packetFetch => Sys2Proof.Machine.execPacketFetch s
  | .packetStart pkt => Sys2Proof.Machine.execPacketStart pkt s
  | .launchGrid pkt => Sys2Proof.Machine.execLaunchGrid pkt s
  | .launchAlmanac pkt => Sys2Proof.Machine.execLaunchAlmanac pkt s
  | .writeMemory pkt => Sys2Proof.Machine.execWriteMemory pkt s
  | .readMemory pkt => Sys2Proof.Machine.execReadMemory pkt s
  | .fencePacket pkt => Sys2Proof.Machine.execFencePacket pkt s
  | .signal pkt => Sys2Proof.Machine.execSignal pkt s
  | .drain pkt => Sys2Proof.Machine.execDrain pkt s
  | .resize pkt => Sys2Proof.Machine.execResize pkt s
  | .createRing pkt => Sys2Proof.Machine.execCreateRing pkt s
  | .destroyRing pkt => Sys2Proof.Machine.execDestroyRing pkt s
  | .restartRing pkt => Sys2Proof.Machine.execRestartRing pkt s
  | .queryRing pkt => Sys2Proof.Machine.execQueryRing pkt s
  | .registerHandle pkt => Sys2Proof.Machine.execRegisterHandle pkt s
  | .unregisterHandle pkt => Sys2Proof.Machine.execUnregisterHandle pkt s
  | .suspendContext pkt => Sys2Proof.Machine.execSuspendContext pkt s
  | .resumeContext pkt => Sys2Proof.Machine.execResumeContext pkt s
  | .setRendezvousTimeout pkt => Sys2Proof.Machine.execSetRendezvousTimeout pkt s
  | .cancel pkt => Sys2Proof.Machine.execCancel pkt s
  | .packetComplete pkt => Sys2Proof.Machine.execPacketComplete pkt s
  | .fenceTimeout pkt => Sys2Proof.Machine.execFenceTimeout pkt s
  | .blockPlacement grid => Sys2Proof.Machine.execBlockPlacement grid s
  | .gangPlacement grid => Sys2Proof.Machine.execGangPlacement grid s
  | .prologueCopyComplete core slot => Sys2Proof.Machine.execPrologueCopyComplete core slot s
  | .warpStart core slot warp => Sys2Proof.Machine.execWarpStart core slot warp s
  | .blockRetire core slot => Sys2Proof.Machine.execBlockRetire core slot s
  | .stageRecordWrite alm => Sys2Proof.Machine.execStageRecordWrite alm s
  | .refillWake core slot warp => Sys2Proof.Machine.execRefillWake core slot warp s
  | .refillReconverge core slot warp => Sys2Proof.Machine.execRefillReconverge core slot warp s
  | .warpSwap core quarter => Sys2Proof.Machine.execWarpSwap core quarter s
  | .restageDone core slot warp => Sys2Proof.Machine.execRestageDone core slot warp s
  | .leaveGrant die => Sys2Proof.Machine.execLeaveGrant die s
  | .leaveAgeing die => Sys2Proof.Machine.execLeaveAgeing die s
  | .rendezvousComplete core slot inst => Sys2Proof.Machine.execRendezvousComplete core slot inst s
  | .rendezvousTimeout core slot inst => Sys2Proof.Machine.execRendezvousTimeout core slot inst s
  | .joinComplete core slot warp => Sys2Proof.Machine.execJoinComplete core slot warp s
  | .joinTimeout core slot warp split => Sys2Proof.Machine.execJoinTimeout core slot warp split s
  | .gangPhaseComplete grid gang => Sys2Proof.Machine.execGangPhaseComplete grid gang s
  | .grantRequest core pipe => Sys2Proof.Machine.execGrantRequest core pipe s
  | .grantBlockArrival core pipe => Sys2Proof.Machine.execGrantBlockArrival core pipe s
  | .grantReturnTimeout core pipe => Sys2Proof.Machine.execGrantReturnTimeout core pipe s
  | .freeReport pipe => Sys2Proof.Machine.execFreeReport pipe s
  | .freeReportFlush core pipe => Sys2Proof.Machine.execFreeReportFlush core pipe s
  | .commitAtHome pipe => Sys2Proof.Machine.execCommitAtHome pipe s
  | .eosHeader pipe => Sys2Proof.Machine.execEosHeader pipe s
  | .retainedSlotRewrite pipe seq header => Sys2Proof.Machine.execRetainedSlotRewrite pipe seq header s
  | .retainedSlotDiscard pipe seq => Sys2Proof.Machine.execRetainedSlotDiscard pipe seq s
  | .spillWrite pipe seq => Sys2Proof.Machine.execSpillWrite pipe seq s
  | .spillFetch pipe seq => Sys2Proof.Machine.execSpillFetch pipe seq s
  | .mirrorTransfer pipe header data => Sys2Proof.Machine.execMirrorTransfer pipe header data s
  | .mirrorFree pipe count => Sys2Proof.Machine.execMirrorFree pipe count s
  | .peerMatchTimeout pipe => Sys2Proof.Machine.execPeerMatchTimeout pipe s
  | .pipePeerLost pipe => Sys2Proof.Machine.execPipePeerLost pipe s
  | .balancerSample => Sys2Proof.Machine.execBalancerSample s
  | .handoffComplete core => Sys2Proof.Machine.execHandoffComplete core s
  | .handoffTimeout core => Sys2Proof.Machine.execHandoffTimeout core s
  | .deadlockDetected alm => Sys2Proof.Machine.execDeadlockDetected alm s
  | .fillResponse core line => Sys2Proof.Machine.execFillResponse core line s
  | .dirtyWriteHome core line words => Sys2Proof.Machine.execDirtyWriteHome core line words s
  | .homeRead src line => Sys2Proof.Machine.execHomeRead src line s
  | .homeWrite src line => Sys2Proof.Machine.execHomeWrite src line s
  | .homeAtomic src line => Sys2Proof.Machine.execHomeAtomic src line s
  | .ptsSelfExpiry core => Sys2Proof.Machine.execPtsSelfExpiry core s
  | .rebase => Sys2Proof.Machine.execRebase s
  | .multicastForward slice => Sys2Proof.Machine.execMulticastForward slice s
  | .multicastDelivery core => Sys2Proof.Machine.execMulticastDelivery core s
  | .podRemoteAccess rank tag kind addr data => Sys2Proof.Machine.execPodRemoteAccess rank tag kind addr data s
  | .linkRetry link => Sys2Proof.Machine.execLinkRetry link s
  | .oplogReplay core quarter entry => Sys2Proof.Machine.execOplogReplay core quarter entry s
  | .oplogDeliver core quarter entry => Sys2Proof.Machine.execOplogDeliver core quarter entry s
  | .oplogFail core quarter entry => Sys2Proof.Machine.execOplogFail core quarter entry s
  | .recordReplay core quarter rseq => Sys2Proof.Machine.execRecordReplay core quarter rseq s
  | .recordDeliver core quarter rseq => Sys2Proof.Machine.execRecordDeliver core quarter rseq s
  | .recordFail core quarter rseq => Sys2Proof.Machine.execRecordFail core quarter rseq s
  | .dirtyFlagTimeout core tlbent => Sys2Proof.Machine.execDirtyFlagTimeout core tlbent s
  | .matrixAccept core => Sys2Proof.Machine.execMatrixAccept core s
  | .kStep core => Sys2Proof.Machine.execKStep core s
  | .epilogue core => Sys2Proof.Machine.execEpilogue core s
  | .matrixFaultResume core rseq => Sys2Proof.Machine.execMatrixFaultResume core rseq s
  | .engineAccept core entry => Sys2Proof.Machine.execEngineAccept core entry s
  | .copyComplete core entry => Sys2Proof.Machine.execCopyComplete core entry s
  | .gatherGroup core entry => Sys2Proof.Machine.execGatherGroup core entry s
  | .engineFaultResume core rseq => Sys2Proof.Machine.execEngineFaultResume core rseq s
  | .engineFaultDeliver core rseq => Sys2Proof.Machine.execEngineFaultDeliver core rseq s
  | .triggerFlit idx => Sys2Proof.Machine.execTriggerFlit idx s
  | .vigilStart => Sys2Proof.Machine.execVigilStart s
  | .vigilComplete vslot => Sys2Proof.Machine.execVigilComplete vslot s
  | .chunkSend core entry => Sys2Proof.Machine.execChunkSend core entry s
  | .chunkArrival tag source header data => Sys2Proof.Machine.execChunkArrival tag source header data s
  | .chunkAck tag status => Sys2Proof.Machine.execChunkAck tag status s
  | .nsendArrival source ptag descriptor => Sys2Proof.Machine.execNsendArrival source ptag descriptor s
  | .xshufPair core slot warp => Sys2Proof.Machine.execXshufPair core slot warp s
  | .xshufDataArrival core slot warp => Sys2Proof.Machine.execXshufDataArrival core slot warp s
  | .holidayPause coll source hseq => Sys2Proof.Machine.execHolidayPause coll source hseq s
  | .holidayStop coll source hseq chunk => Sys2Proof.Machine.execHolidayStop coll source hseq chunk s
  | .holidayHold coll source hseq => Sys2Proof.Machine.execHolidayHold coll source hseq s
  | .holidayResume coll source hseq => Sys2Proof.Machine.execHolidayResume coll source hseq s
  | .holidayReply coll source hseq stepno chunk => Sys2Proof.Machine.execHolidayReply coll source hseq stepno chunk s
  | .holidayTimeout coll => Sys2Proof.Machine.execHolidayTimeout coll s
  | .collectivePeerLost rank => Sys2Proof.Machine.execCollectivePeerLost rank s
  | .faultQueueTailWrite asid tail => Sys2Proof.Machine.execFaultQueueTailWrite asid tail s
  | .errorDetected unit place correctable => Sys2Proof.Machine.execErrorDetected unit place correctable s
  | .scrub => Sys2Proof.Machine.execScrub s
  | .coreStallTimeout core => Sys2Proof.Machine.execCoreStallTimeout core s
  | .coreSelfTestFail core => Sys2Proof.Machine.execCoreSelfTestFail core s
  | .debugStop core slot => Sys2Proof.Machine.execDebugStop core slot s
  | .debugResume core slot => Sys2Proof.Machine.execDebugResume core slot s
  | .stallSample core quarter => Sys2Proof.Machine.execStallSample core quarter s
  | .pmcWrap core counter => Sys2Proof.Machine.execPmcWrap core counter s
  | .ptpMessage rateppm => Sys2Proof.Machine.execPtpMessage rateppm s
  | .ualinkTimingMessage source rateppm => Sys2Proof.Machine.execUalinkTimingMessage source rateppm s
  | .powerStateDecision die => Sys2Proof.Machine.execPowerStateDecision die s
  | .powerSample watts limit celsius => Sys2Proof.Machine.execPowerSample watts limit celsius s
  | .thermalTrip celsius => Sys2Proof.Machine.execThermalTrip celsius s
  | .moduleWake => Sys2Proof.Machine.execModuleWake s
  | .registerWrite reg index value => Sys2Proof.Machine.execRegisterWrite reg index value s
  | .pipePeerMatch pipe declaration => Sys2Proof.Machine.execPipePeerMatch pipe declaration s
  | .ualinkCompletion tag status data => Sys2Proof.Machine.execUalinkCompletion tag status data s

end Sys2Proof.Machine
end

