-- ==== Sys2Proof/Machine/Choose.lean ====
section
/-! DEFINITION. Whose turn it is: which splits are ready, which warp a quarter issues, which split of it, and which second split
co-issues (04 R91, R92, R93; 06 R120, R130); and which events can arrive (16 R292, R299). -/

namespace Sys2Proof.Machine

open Sys2Proof

/-! ### A turn -/

/-- The split at the port issues the word at its pc (10 R206; 17 R304). -/
def stepIssue (s : State) : Host.Outcome State Fault Refusal :=
  match fetchTurn s with
  | .stays t => .next t
  | .word w t =>
    match decodeWord w with
    | .ok i => exec i t
    | .error _ => .next (oddWord w t)

/-- The state after a split's turn. -/
def attempt (s : State) (p : Port) : State :=
  match stepIssue { s with port := p } with
  | .next t => t
  | _ => s

/-- A turn of a split has come to a wait: the split stands at its word, shows what it waits for, and has neither issued nor
arrived at a rendezvous. -/
def waited (s t : State) (p : Port) : Bool :=
  match s.split? p.core p.slot p.warp p.split, t.split? p.core p.slot p.warp p.split with
  | some q, some r => r.valid && r.pc == q.pc && r.hints == q.hints && !r.jwait && (!r.rwait || q.rwait) && r.stall.waits
  | _, _ => false

/-- A split is ready: it may issue, and the waits of its next instruction are satisfied (04 R91). -/
def readyAt (s : State) (p : Port) : Bool := canIssue s p && !waited s (attempt s p) p

/-- A warp is ready: one of its splits is. -/
def warpReady (s : State) (c slot m : Nat) : Bool :=
  (List.range 8).any fun k => readyAt s { core := c, slot := slot, warp := m, split := k }

/-! ### The choice of a quarter (04 R91) -/

/-- The hot warps of a quarter. -/
def hotWarps (s : State) (c q : Nat) : List (Nat × Nat × Warp) :=
  (coreWarps s c).filter fun w => w.2.2.quarter == q && w.2.2.hot

/-- The ready hot warps of a quarter in this cycle. -/
def readyHot (s : State) (c q : Nat) : List (Nat × Nat × Warp) := (hotWarps s c q).filter fun w => warpReady s c w.1 w.2.1

/-- A hot warp is boosted: it has been ready and not issued for at least as many cycles as there are ready hot warps; behind a YIELD
it is not (22 R441). -/
def boosted (s : State) (c : Nat) (w : Warp) : Bool := !w.yielded && decide ((readyHot s c w.quarter).length ≤ w.idle)

/-- `b` is chosen before `a`: boosted warps first, then the one placed earliest. -/
def chosenBefore (s : State) (c : Nat) (b a : Warp) : Bool :=
  if boosted s c b = boosted s c a then placedBefore b.order a.order else boosted s c b

/-- The warps that a quarter may issue in this cycle, `mine` among them without a test: ready, hot, and not issued in the cycle
before. -/
def contenders (s : State) (c q : Nat) (mine : Nat × Nat) : List (Nat × Nat × Warp) :=
  (hotWarps s c q).filter fun w => decide (w.2.2.mayAt ≤ s.cycle.toNat) && ((w.1, w.2.1) == mine || warpReady s c w.1 w.2.1)

/-- The warp that a quarter issues. -/
def chosenWarp (s : State) (c q : Nat) (mine : Nat × Nat) : Option (Nat × Nat) :=
  match contenders s c q mine with
  | [] => none
  | a :: r => let w := r.foldl (fun a b => if chosenBefore s c b.2.2 a.2.2 then b else a) a; some (w.1, w.2.1)

/-- The split of a warp that issues: the ready one that issued least recently, the lower slot first (06 R120); `mine` is taken as
ready. -/
def chosenSplit (s : State) (c slot m : Nat) (w : Warp) (mine : Nat) : Option Nat :=
  match w.valid.filter fun q => q.1 == mine || readyAt s { core := c, slot := slot, warp := m, split := q.1 } with
  | [] => none
  | a :: r => some (r.foldl (fun a b => if b.2.lastIssue < a.2.lastIssue then b else a) a).1

/-- The quarter issues the ready split at a port in this cycle (04 R91; 06 R120). -/
def scheduled (s : State) (p : Port) : Bool :=
  match s.warp? p.core p.slot p.warp with
  | none => false
  | some w =>
    decide (w.mayAt ≤ s.cycle.toNat) && decide ((s.core p.core).quarterAt.getD w.quarter 0 ≤ s.cycle.toNat)
    && chosenWarp s p.core w.quarter (p.slot, p.warp) == some (p.slot, p.warp)
    && chosenSplit s p.core p.slot p.warp w p.split == some p.split

/-- A warp has issued: its quarter issues no more in this cycle, and the warp none in the next one (04 R91). -/
def issuedMark (s : State) (p : Port) (quarter : Nat) : State :=
  let cycle := s.cycle.toNat
  (s.modWarp p.core p.slot p.warp fun w => { w with mayAt := cycle + 2, idle := 0 }).modCore p.core fun x =>
    { x with quarterAt := setAt x.quarterAt quarter (cycle + 1) }

/-! ### Co-issue (04 R93) -/

/-- The class distance of a lane-scope vector ALU instruction (06 Table 6.4; 17 Table 17.2). That majors 0x01 to 0x09 and 0x0D to
0x0F are the vector ALU instructions is the model's reading (DEDUCED, log 49). -/
def coClass (w : Word) : Option Nat :=
  let fn := bits w 18 4
  match bits w 24 2, decodeWord w with
  | 0, .ok _ => match bits w 26 6 with
    | 0x01 | 0x02 => some (if 2 ≤ fn ∧ fn ≤ 5 then 3 else 2)
    | 0x03 | 0x0E | 0x0F => some 2
    | 0x04 => some (if fn = 8 then 3 else 2)
    | 0x05 => some (if fn = 9 then 6 else 3)
    | 0x06 | 0x09 => some 6
    | 0x07 | 0x08 | 0x0D => some 3
    | _ => none
  | _, _ => none

/-- The class under which the next word of a split may co-issue: no hint stands before it. -/
def pairClass (s : State) (p : Port) : Option Nat :=
  match s.split? p.core p.slot p.warp p.split with
  | none => none
  | some q =>
    if !q.hints.isEmpty || !canIssue s p then none
    else match fetchTurn { s with port := p } with
      | .word w _ => coClass w
      | .stays _ => none

/-- The split that co-issues with the one at a port: the lowest-numbered other one that meets the conditions. -/
def secondSplit (s : State) (p : Port) : Option Port :=
  match s.warp? p.core p.slot p.warp with
  | none => none
  | some w =>
    let others := (w.valid.filter fun q => q.1 != p.split).map fun q => { p with split := q.1 }
    if others.isEmpty then none
    else match pairClass s p with
      | none => none
      | some c => others.find? fun r => pairClass s r == some c && readyAt s r

/-- Two splits of a warp issue in one cycle, the one of the higher slot first. A trap of it is kept until the other has issued:
one record holds both (06 R130). -/
def issuePair (s : State) (p r : Port) : State :=
  let (lo, hi) := if p.split < r.split then (p, r) else (r, p)
  let s := attempt { s with joint := .collect } hi
  let s := attempt (if s.joint = .collect then { s with joint := .off } else s) lo
  let s := match s.joint with
    | .kept a t => takeTrap { s with joint := .off } a t
    | _ => s
  pmCount { s with port := p, joint := .off } p.core (blockAsid s p.core p.slot) 2 1

/-- The turn of the split at the port. A split that waits shows what it waits for; a ready one issues if its quarter chooses it in
this cycle, with a second split of its warp where one may co-issue; otherwise nothing happens. -/
def issueTurn (s : State) : Host.Outcome State Fault Refusal :=
  let p := s.port
  match stepIssue s with
  | .next t =>
    if waited s t p || !canIssue s p then .next t
    else if !scheduled s p then .next s
    else
      let q := match s.warp? p.core p.slot p.warp with | some w => w.quarter | none => 0
      match secondSplit s p with
      | none => .next (issuedMark t p q)
      | some r => .next (issuedMark (issuePair s p r) p q)
  | o => o

/-! ### Time -/

/-- What a cycle finds of one split of a warp, as if the warp were hot (`h`): what its next instruction waits for, or that it is
ready. Operands are delivered to hot warps. -/
def noteSplit (s h : State) (p : Port) (q : Split) : Split :=
  if !canIssue h p then q
  else
    let t := attempt h p
    if waited h t p then (match t.split? p.core p.slot p.warp p.split with
      | some r => { q with stall := r.stall, operands := if canIssue s p then r.operands else q.operands }
      | none => q)
    else { q with stall := .ready }

/-- What a number of cycles finds of a warp: the waits of its splits, and for how long it has been ready, hot and not issued. -/
def noteWarp (s : State) (c slot m n : Nat) (w : Warp) : Warp :=
  let h := s.modWarp c slot m fun w => { w with hot := true, restaging := false }
  let splits := w.splits.zipIdx.map fun q => noteSplit s h { core := c, slot := slot, warp := m, split := q.2 } q.1
  let ready := w.hot && splits.zipIdx.any fun q =>
    q.1.stall == .ready && canIssue s { core := c, slot := slot, warp := m, split := q.2 }
  { w with splits := splits, idle := if ready then w.idle + n else 0 }

/-- The free hot places of every quarter go to ready cold warps (04 R92). -/
def fillAll (s : State) : State :=
  (dedup (s.blocks.map fun p => p.1 / 96)).foldl (fun s c => (List.range 4).foldl (fun s q => fillHot s c q 8) s) s

/-- Cycles and nanoseconds pass, and every quarter sees which of its warps are ready. -/
def passCycles (s : State) (cycles ns : Nat) : State :=
  let s := passTime s cycles ns
  fillAll { s with blocks := s.blocks.map fun b =>
    (b.1, { b.2 with warps := b.2.warps.zipIdx.map fun w => noteWarp s (b.1 / 96) (b.1 % 96) w.2 cycles w.1 }) }

/-- The default choice when nothing is asked: a quarter that chooses a split in this cycle issues it; when none does, a cycle
passes, and the next runnable split after the port has its turn (log 2). -/
def defaultTurn (s : State) : Host.Outcome State Fault Refusal :=
  match (runnable s).find? fun p => readyAt s p && scheduled s p with
  | some p => issueTurn { s with port := p }
  | none =>
    let s := passCycles s 1 1
    match nextPort s with
    | none => .next s
    | some p => issueTurn { s with port := p }

/-! ### Events and links (16 R292, R299) -/

/-- An event that another device, a port or a link brings. -/
def onLink (i : Instr) : Bool :=
  match i with
  | .mirrorTransfer .. => true
  | .mirrorFree .. => true
  | .pipePeerMatch .. => true
  | .podRemoteAccess .. => true
  | .ualinkCompletion .. => true
  | .chunkArrival .. => true
  | .chunkAck .. => true
  | .nsendArrival .. => true
  | .holidayPause .. => true
  | .holidayStop .. => true
  | .holidayHold .. => true
  | .holidayResume .. => true
  | .holidayReply .. => true
  | .ualinkTimingMessage .. => true
  | .ptpMessage .. => true
  | _ => false

/-- A counter update that travels on the Return lines. -/
def onReturn (i : Instr) : Bool := match i with | .triggerFlit _ => true | _ => false

/-- The event can arrive: no link beyond the management cores is up before boot is complete (16 R292). -/
def arrives (i : Instr) (s : State) : Bool := !onLink i || s.boot == .up

/-- The state that an event finds: a UALink message or a counter update ends retention (16 R299). -/
def awaken (i : Instr) (s : State) : State := if onLink i || onReturn i then wakePackage s else s

end Sys2Proof.Machine
end

