-- ==== Sys2Proof/Machine/Step.lean ====
section
/-! DEFINITION. One step of the device: the agent whose turn it is moves (log 2). -/

namespace Sys2Proof.Machine

open Sys2Proof

/-- An event comes about, unless a link that is not up would bring it. An instruction word is no event: it issues at a split's pc
only. -/
def stepEvent (i : Instr) (s : State) : Host.Outcome State Fault Refusal :=
  match encodeWord i with
  | some _ => .next s
  | none => if arrives i s then exec i (awaken i s) else .next s

/-- One step. -/
def step (s : State) : Host.Outcome State Fault Refusal :=
  match s.agenda with
  | [] => defaultTurn s
  | .issue p :: r => issueTurn { s with agenda := r, port := p }
  | .event i :: r => stepEvent i { s with agenda := r }
  | .answer byRecord act c q n :: r => answerLog byRecord act c q n { s with agenda := r }
  | .element c e :: r => engineElement c e { s with agenda := r }
  | .time cycles ns :: r => .next (passCycles { s with agenda := r } cycles ns)

/-- The context in which `withFetchWord` places its instruction. -/
def benchCtx (s : State) : Ctx := { s.ctx 1 with root := 0x10000 }

/-- The kernel of `withFetchWord`: 56 direct and 16 indexed registers, one warp, its entry at 0x2_0040. -/
def benchKernel : Kernel :=
  { addr := 0x20000, d := 56, i := 16, t := 8, items := 0, lanesN := 64, replayable := false, inbound := false, trap := 0,
    refill := 0, scratch := 1024, gsize := 1, far := false, warps := 1, inregs := 0, intiles := 0, code := 64 }

/-- The warp of `withFetchWord`: started, hot, every lane live, the operands of its first instruction delivered. -/
def benchWarp : Warp :=
  { started := true, retired := false, quarter := 0, order := 0, hot := true, restaging := false, waitSince := 0,
    mayAt := 0, idle := 0, lastIssue := 0, keepUntil := 0, swapFirst := false, yielded := false, region := 0, staged := 0,
    live := 0xFFFFFFFFFFFFFFFF#64, helper := 0, refills := 0, stamp := 0, item := Vec.splat 0, itemhi := Vec.splat 0, itemage := Vec.splat 0,
    rseed := Vec.of fun l => BitVec.ofNat 32 (l + 1), fpm := 0, fpflags := 0, batch := 0, ets := 0,
    splits := (Split.start 0xFFFFFFFFFFFFFFFF#64 0x20040#64).map fun q => { q with operands := some (0x20040#64, 0) }
    vregs := List.replicate 72 (Vec.splat 0),
    sregs := List.replicate 64 0#64, xregs := List.replicate 8 (Vec.splat 0), hregs := List.replicate 16 .empty,
    qregs := List.replicate 8 none, tctx := List.replicate 8 0#64, frozen := none, rftWait := false, rftSince := 0, rftLimit := 0, trapMembers := [],
    suspended := false, xshuf := none, restarted := false, refillBlocked := false, refillSince := none, refillLimit := 0, reserved := [],
    pipeItems := [], exiting := none }

/-- The block of `withFetchWord`. -/
def benchBlock : Block :=
  { asid := 1, grid := 0, number := 0, gang := 0, gpos := 0, gsize := 1, spans := false, kernel := benchKernel,
    warps := [benchWarp], sets := List.replicate 8 [], setInst := [], blockInst := none, gcountB := 0, gcountG := 0,
    tileBase := 0, scrBase := 0, scrSize := 1024, regCount := 72, held := [], blockItem := none, marked := [],
    prologue := [], ready := true, stopped := false, frozen := false, supervisor := false, saving := false, restored := false }

/-- The grid of `withFetchWord`: a lone grid whose index range is exhausted. -/
def benchGrid : Grid :=
  { asid := 1, alm := none, stage := 0, pkt := 0, launch := 0, kernel := benchKernel, params := 0, qpipe := none, next := 64,
    stop := 64, returned := [], returns := [], share := [0], minShare := 1, maxShare := 1, dies := 1, prio := 0,
    span := false, placed := 1, gangs := 1, resident := 1, prologues := [], downgrade := false, restore := [], away := [],
    complete := false, status := 0, doneAt := 0, dropped := 0, moved := none, recorded := false, cancelled := false,
    supervisor := false }

/-- The memory of `withFetchWord`: a level-3 entry at 0x1_0000, the level-2 leaf at 0x1_2000 that maps the first 64 GiB onto
themselves, and the word at 0x2_0040. -/
def benchMem (m : Mem) (nbits w : Nat) : Mem :=
  Mem.store (Mem.store (Mem.store m 0x10000 8 0x12001) 0x12000 8 0x83F) 0x20040 4 (w % 2 ^ nbits % 2 ^ 32)

/-- `s` with the instruction stored where the next step fetches: a load from outside the machine (log 12). Every line that
the fetch reads is taken out of L2 and out of the poison marks, the TLBs of core 0 and die 0 and the L1I of core 0 are emptied, and the quarters of
core 0 issue. -/
def State.withFetchWord (s : State) (nbits w : Nat) : State :=
  let p : Port := { core := 0, slot := 0, warp := 0, split := 0 }
  let used := [0x10000 / 128, 0x12000 / 128, 0x20000 / 128]
  { s with
    mem := benchMem s.mem nbits w
    poison := s.poison.filter fun a => !used.contains a
    l2 := s.l2.filter fun h => !used.contains h.1
    cores := s.cores.put 0 { s.core 0 with itlb := [], l1i := [], halted := false, quarterAt := [0, 0, 0, 0] }
    dies := s.dies.put 0 { s.die 0 with tlb := [] }
    ctxs := s.ctxs.put 1 (benchCtx s)
    grids := s.grids.put 0 benchGrid
    blocks := [(0, benchBlock)]
    agenda := [.issue p]
    port := p }

end Sys2Proof.Machine
end

