-- ==== Sys2Proof/Safety.lean ====
section
/-! DEFINITION. What the statements mean: a safe step, the instance as which an instruction issues, and what an
instruction leaves unchanged. -/

namespace Sys2Proof

open Sys2Proof.Machine

/-- Every byte memory of the device is in canonical form: HBM, and each core's scratch and tile file. -/
def memoriesCanonical (s : State) : Bool :=
  Mem.wf s.mem && s.cores.all fun c => Mem.wf c.2.scratch && Mem.wf c.2.tiles

/-- A step ends in a next state. -/
def stepsOn (s : State) : Prop := ∃ t, step s = .next t

/-! ### The instance as which an instruction issues -/

/-- The instance at the port's split, before any rendezvous. -/
def portInstance (s : State) (m : Meta) (q : Split) : Ix :=
  { core := s.port.core, slot := s.port.slot, split := s.port.split, members := [s.port.warp], lead := s.port.warp,
    pc := q.pc, sc := m.sc, hints := q.hints }

/-- The instance of an instruction of lane or warp scope, if rows 4 and 5 of Table 17.8 find nothing, no logged lanes hold
it back, and its operands have been delivered. -/
def aloneAs (m : Meta) (uniform : Ix → State → Option Nat) (s : State) (b : Block) (w : Warp) (q : Split) (x : Ix) :
    Option (Ix × State) :=
  if (((boundsCheck b m).or (uniform x s)).or (contractCheck w q m)).isNone && !accessHeld w q m && !operandsOut s w q m then some (x, s)
  else none

/-- The instance that issues a completed rendezvous' instruction for its members. -/
def memberInstance (x : Ix) (r : Reissue) (names : List Nat) : Ix :=
  { x with members := names, split := 0, todo := r.todo, deferred := r.deferred
           lead := if names.contains r.lead || !r.todo.isEmpty then r.lead else leadOf names }

/-- The instance of a completed rendezvous, when every member that is to issue stands at the word. -/
def membersAs (m : Meta) (uniform : Ix → State → Option Nat) (s : State) (x : Ix) (r : Reissue) : Option (Ix × State) :=
  let ms := redoMembers s x.core x.slot r
  if ms.isEmpty || ms.any (fun p => !p.2.rwait || p.2.pc != r.pc) then none
  else
    match s.block? x.core x.slot with
    | none => none
    | some b =>
      let y := memberInstance x r (ms.map (·.1))
      if ((boundsCheck b m).or (uniform y s)).isNone then some (y, s) else none

/-- A split reaches a set- or block-scope word: the instance that its arrival completes. -/
def arrivesAs (m : Meta) (uniform : Ix → State → Option Nat) (s : State) (b : Block) (w : Warp) (q : Split) (x : Ix) :
    Option (Ix × State) :=
  match q.redo with
  | some r => if r.pc = q.pc then membersAs m uniform (waitAt s s.port) x r else none
  | none =>
    if (contractCheck w q m).isSome || accessHeld w q m || operandsOut s w q m then none
    else
      let t := reach s s.port b q (instKey b x.sc s.port.warp) none
      match t.split? s.port.core s.port.slot s.port.warp 0 with
      | none => none
      | some q' => match q'.redo with
        | some r => membersAs m uniform t x r
        | none => none

/-- The checks of Table 17.8 that come before the operands' values pass, the split may issue, and no result that it needs is
outstanding. -/
def reaches (i : Instr) (m : Meta) (extra : Block → Split → Bool) (s : State) (b : Block) (w : Warp) (q : Split) : Bool :=
  canIssue s s.port && !lookaheadWait q && (firstCheck i m (extra b q) s b s.port.warp w q).isNone

/-- The instance as which the split at the port performs an instruction, and the state in which it does (the rendezvous of set
and block scope made): a condition on the state and the operands alone. `m`, `extra` and `uniform` are what the specification
gives the instruction: its scope, class distance, sources and destinations; what it adds to row 1 of Table 17.8; and its
warp-uniform operand faults. -/
def issuesAs (i : Instr) (m : Meta) (extra : Block → Split → Bool) (uniform : Ix → State → Option Nat) (s : State) :
    Option (Ix × State) :=
  match s.block? s.port.core s.port.slot, s.warp? s.port.core s.port.slot s.port.warp,
      s.split? s.port.core s.port.slot s.port.warp s.port.split with
  | some b, some w, some q =>
    let m := m.withStamp q.hints
    let x := portInstance s m q
    if !reaches i m extra s b w q then none
    else if m.sc ≤ 1 then
      aloneAs m uniform s b w q (match q.redo with
        | some r => if r.pc = q.pc then { x with todo := r.todo, deferred := r.deferred } else x
        | none => x)
    else arrivesAs m uniform s b w q x
  | _, _, _ => none

/-- An instruction that issues as `x` in state `a` and meets `H` ends in a next state with `P` (before the marker record of a
bound TRACE hint, which comes last). -/
def Performs (i : Instr) (m : Meta) (extra : Block → Split → Bool) (uniform : Ix → State → Option Nat)
    (H : Ix → State → Prop) (P : Ix → State → State → Prop) : Prop :=
  ∀ s x a, issuesAs i m extra uniform s = some (x, a) → H x a →
    ∃ t, exec i s = .next (traceMark x t) ∧ P x a t

/-- The state in which an instance's effect begins: every member has passed the word, and the splits as they were are noted. -/
def begun (m : Meta) (x : Ix) (a : State) : Ix × State :=
  ({ x with saved := savedSplits x a }, advance (m.withStamp x.hints) x a)

/-- An instruction that issues as `x` in state `a` and meets `H` ends in the state that `f` makes of the one in which its
effect begins. -/
def Makes (i : Instr) (m : Meta) (extra : Block → Split → Bool) (uniform : Ix → State → Option Nat)
    (H : Ix → State → Prop) (f : Ix → State → State) : Prop :=
  ∀ s x a, issuesAs i m extra uniform s = some (x, a) → H (begun m x a).1 (begun m x a).2 →
    exec i s = .next (traceMark x (f (begun m x a).1 (begun m x a).2))

/-! ### Frames -/

/-- Nothing but the members' warps and the issue counts of their core differs. -/
def beyondMembers (x : Ix) (a t : State) : Prop :=
  { t with blocks := a.blocks, cores := a.cores } = a
  ∧ (∀ c k, (c, k) ≠ (x.core, x.slot) → k < 96 → x.slot < 96 → t.block? c k = a.block? c k)
  ∧ (∀ b, a.block? x.core x.slot = some b → ∃ b', t.block? x.core x.slot = some b' ∧ { b' with warps := b.warps } = b
      ∧ b'.warps.length = b.warps.length ∧ ∀ m, m ∉ x.members → b'.warps[m]? = b.warps[m]?)
  ∧ (∀ c, c ≠ x.core → t.core c = a.core c)
  ∧ { t.core x.core with
        lastIssue := (a.core x.core).lastIssue, pmcnt := (a.core x.core).pmcnt, pmwrap := (a.core x.core).pmwrap }
      = a.core x.core

/-- A member's issuing split has passed the word, and its other splits are as they were. (`seen`, the model's own, notes the lease
time of relaxed reads.) -/
def passedWord (x : Ix) (w w' : Warp) : Prop :=
  (∀ k, k ≠ x.split → w'.splits[k]? = w.splits[k]?)
  ∧ ∀ p, w.splits[x.split]? = some p → ∃ p', w'.splits[x.split]? = some p'
      ∧ p'.pc = x.pc + 4#64 ∧ p'.hints = [] ∧ p'.rwait = false ∧ p'.redo = none
      ∧ { p' with pc := p.pc, hints := p.hints, landed := p.landed, rwait := p.rwait, redo := p.redo, hist := p.hist,
                  wins := p.wins, stall := p.stall, lastIssue := p.lastIssue, seen := p.seen, operands := p.operands } = p

/-- A warp's fields without those that every issue writes. -/
def unissued (w w' : Warp) : Warp :=
  { w' with lastIssue := w.lastIssue, swapFirst := w.swapFirst, yielded := w.yielded, keepUntil := w.keepUntil, splits := w.splits }

/-- The instance changes only its members: each passes the word and is changed as `Q` says. -/
def onMembers (x : Ix) (a t : State) (Q : Nat → Warp → Warp → Prop) : Prop :=
  beyondMembers x a t
  ∧ ∀ m ∈ x.members, ∀ w, a.warp? x.core x.slot m = some w →
      ∃ w', t.warp? x.core x.slot m = some w' ∧ passedWord x w w' ∧ Q m w w'

/-- The vector registers of a member after a result `f` (word j of lane l) is written to an operand in its active lanes. -/
def lanesWritten (x : Ix) (dst : VOp) (f : Nat → Nat → Word) (w w' : Warp) : Prop :=
  w'.vregs.length = w.vregs.length
  ∧ ∀ n l, n < w.vregs.length → l < 64 →
      w'.v n l = (match resolve w dst l with
        | .ok k => if inMask (x.em w) l = true ∧ k ≤ n ∧ n < k + dst.w then f l (n - k) else w.v n l
        | .error _ => w.v n l)

/-- The scalar registers of a warp after `v` is written to one. -/
def scalarWritten (d : Nat) (v : DWord) (w w' : Warp) : Prop :=
  w'.sregs.length = w.sregs.length ∧ ∀ n, n < w.sregs.length → w'.s n = if n = d then v else w.s n

/-- No active lane that is not a helper lane has an operand fault. -/
def operandsFine (ops : List VOp) (x : Ix) (a : State) : Prop := x.operandFaults a ops = []

/-- No condition. -/
def always : Ix → State → Prop := fun _ _ => True

/-- An instruction that writes one result in each active lane, and nothing else: word j of lane l is `f` of the member's
registers as they were. -/
def LaneResult (i : Instr) (m : Meta) (dst : VOp) (srcs : List VOp) (f : Ix → Warp → Nat → Nat → Word) : Prop :=
  Performs i m noExtra noUniform (operandsFine (srcs ++ [dst])) fun x a t =>
    onMembers x a t fun _ w w' => { unissued w w' with vregs := w.vregs } = w ∧ lanesWritten x dst (f x w) w w'

/-- An instruction that writes one scalar register in every member, and nothing else: the value is `f` of the lead's scalars
as they were. -/
def ScalarResult (i : Instr) (m : Meta) (d : BitVec 6) (f : Ix → (Nat → DWord) → DWord) : Prop :=
  Performs i m noExtra noUniform always fun x a t =>
    onMembers x a t fun _ w w' => { unissued w w' with sregs := w.sregs } = w ∧ scalarWritten d.toNat (f x (x.rs a)) w w'

/-- Word k of an operand in a lane. -/
def wordIn (w : Warp) (o : VOp) (l k : Nat) : Word := word32 (readOp w o l) k

/-- The 64-bit value of an operand pair in a lane. -/
def pairIn (w : Warp) (o : VOp) (l : Nat) : DWord := BitVec.ofNat 64 (readOp w o l)

/-- Half k of a 64-bit value: the low half in the lower register (05 R101). -/
def halfOf (v : DWord) (k : Nat) : Word := word32 v.toNat k

/-! ### Results of the arithmetic families -/

/-- What the specification gives an element-wise instruction of register operands: scope, class distance, sources,
destination. -/
def laneMeta (c : BitVec 2) (dist : Nat) (srcs : List VOp) (dst : VOp) : Meta :=
  { sc := c.toNat, dist := dist, vin := srcs, vout := [dst] }

/-- A 32-bit instruction on `w` registers: word k of D is `f` of words k of A, B and the old D. `readD`: the old D is a
source. -/
def WordResult (i : Instr) (c w : BitVec 2) (d a b : BitVec 6) (dist : Nat) (readD : Bool) (f : Word → Word → Word → Word) :
    Prop :=
  let n := wdWidth w
  LaneResult i (laneMeta c dist (if readD then [vop a n, vop b n, vop d n] else [vop a n, vop b n]) (vop d n)) (vop d n)
    [vop a n, vop b n] fun _ q l k => f (wordIn q (vop a n) l k) (wordIn q (vop b n) l k) (wordIn q (vop d n) l k)

/-- An instruction of one source on `n` registers. -/
def UnaryResult (i : Instr) (c : BitVec 2) (n : Nat) (d a : BitVec 6) (f : Word → Word) : Prop :=
  LaneResult i (laneMeta c 2 [vop a n] (vop d n)) (vop d n) [vop a n] fun _ q l k => f (wordIn q (vop a n) l k)

/-- A 64-bit instruction: the pair D is `f` of the pairs A, B and the old D. -/
def PairResult (i : Instr) (c : BitVec 2) (d a b : BitVec 6) (dist : Nat) (readD : Bool) (f : DWord → DWord → DWord → DWord) :
    Prop :=
  LaneResult i (laneMeta c dist (if readD then [vop a 2, vop b 2, vop d 2] else [vop a 2, vop b 2]) (vop d 2)) (vop d 2)
    [vop a 2, vop b 2] fun _ q l k => halfOf (f (pairIn q (vop a 2) l) (pairIn q (vop b 2) l) (pairIn q (vop d 2) l)) k

/-- A vector immediate: each of the `w` registers of D becomes `f` of its old value and the immediate. -/
def ImmediateResult (i : Instr) (c w : BitVec 2) (d : BitVec 6) (imm : BitVec 12) (dist : Nat) (readD : Bool)
    (f : Word → Word → Word) : Prop :=
  let n := wdWidth w
  LaneResult i { laneMeta c dist (if readD then [vop d n] else []) (vop d n) with imm := true } (vop d n) [] fun x q l k =>
    f (wordIn q (vop d n) l k) (BitVec.ofInt 32 (immExt x.hints imm.toNat 12))

/-- What the specification gives a scalar instruction. -/
def scalarMeta (c : BitVec 2) (dist : Nat) (srcs : List (BitVec 6)) (d : BitVec 6) (imm : Bool) : Meta :=
  { sc := c.toNat, dist := dist, srcs := srcs.map fun n => .s n.toNat, dsts := [.s d.toNat], imm := imm }

/-- A scalar instruction of two sources. -/
def Scalar2Result (i : Instr) (c : BitVec 2) (d a b : BitVec 6) (dist : Nat) (f : DWord → DWord → DWord) : Prop :=
  ScalarResult i (scalarMeta c dist [a, b] d false) d fun _ rs => f (rs a.toNat) (rs b.toNat)

/-- A scalar immediate instruction. -/
def ScalarImmResult (i : Instr) (c : BitVec 2) (d : BitVec 6) (imm : BitVec 12) (dist : Nat) (readD : Bool)
    (f : DWord → DWord → DWord) : Prop :=
  ScalarResult i (scalarMeta c dist (if readD then [d] else []) d true) d fun x rs =>
    f (rs d.toNat) (BitVec.ofInt 64 (immExt x.hints imm.toNat 12))

/-- A vector compare: bit l of S is the condition in active lane l and 0 elsewhere, in each member for its own lanes. -/
def MaskResult (i : Instr) (m : Meta) (srcs : List VOp) (d : BitVec 6) (cond : Warp → Nat → Bool) : Prop :=
  Performs i m noExtra noUniform (operandsFine srcs) fun x a t =>
    onMembers x a t fun _ w w' => { unissued w w' with sregs := w.sregs } = w ∧ w'.sregs.length = w.sregs.length
      ∧ (∀ n, n < w.sregs.length → n ≠ d.toNat → w'.s n = w.s n)
      ∧ (d.toNat < w.sregs.length → ∀ l, l < 64 → (w'.s d.toNat).getLsbD l = (inMask (x.em w) l && cond w l))

/-- The flags that a member's active lanes other than helper lanes raise, and the enabled ones among them. -/
def enabledFlags (x : Ix) (a : State) (fl : Warp → Nat → Flags) : Prop :=
  ∀ p ∈ x.warps a, ∀ l ∈ p.2.lanesOn (x.em p.2), (fl p.2 l).toBits &&& ((x.fpm a >>> 3) &&& 0x1F#8) = 0#8

/-- fpflags of a member after the flags `fl` of its active lanes other than helper lanes have accrued. -/
def flagsAccrued (x : Ix) (fl : Warp → Nat → Flags) (w w' : Warp) : Prop :=
  ∀ k, k < 8 → bit w'.fpflags k = (bit w.fpflags k || (w.lanesOn (x.em w)).any fun l => bit (fl w l).toBits k)

/-- A floating-point instruction in which no active lane other than a helper lane raises an enabled flag: the values are
written in every active lane, the flags accrue, and stochastic rounding advances the seeds of the active lanes. `fs`: the
settings that govern it. -/
def FloatResultBy (fs : Ix → State → FSet) (i : Instr) (m : Meta) (dst : VOp) (srcs : List VOp) (draws : Nat)
    (g : FSet → (Nat → Nat) → Warp → Nat → Nat × Flags) : Prop :=
  Performs i m noExtra noUniform
    (fun x a => operandsFine (srcs ++ [dst]) x a ∧ enabledFlags x a fun w l => (g (fs x a) (srDraw w l) w l).2)
    fun x a t => onMembers x a t fun _ w w' =>
      { unissued w w' with vregs := w.vregs, fpflags := w.fpflags, rseed := w.rseed } = w
      ∧ lanesWritten x dst (fun l j => word32 (g (fs x a) (srDraw w l) w l).1 j) w w'
      ∧ flagsAccrued x (fun w l => (g (fs x a) (srDraw w l) w l).2) w w'
      ∧ ∀ l, l < 64 → w'.rseed.lane l
          = if (fs x a).sr && inMask (x.em w) l then srAfter (w.rseed.lane l) draws else w.rseed.lane l

/-- A floating-point instruction under the lead's settings and its ARITH hint. -/
def FloatResult (i : Instr) (m : Meta) (dst : VOp) (srcs : List VOp) (draws : Nat)
    (g : FSet → (Nat → Nat) → Warp → Nat → Nat × Flags) : Prop := FloatResultBy Ix.fset i m dst srcs draws g

/-- A vector compare of floating-point values in which no active lane other than a helper lane raises an enabled flag: the
mask is written, and the flags accrue. -/
def CompareResult (i : Instr) (m : Meta) (srcs : List VOp) (d : BitVec 6) (g : FSet → Warp → Nat → Bool × Flags) : Prop :=
  Performs i m noExtra noUniform
    (fun x a => operandsFine srcs x a ∧ enabledFlags x a fun w l => (g (x.fset a) w l).2)
    fun x a t => onMembers x a t fun _ w w' =>
      { unissued w w' with sregs := w.sregs, fpflags := w.fpflags } = w ∧ w'.sregs.length = w.sregs.length
      ∧ (∀ n, n < w.sregs.length → n ≠ d.toNat → w'.s n = w.s n)
      ∧ (d.toNat < w.sregs.length → ∀ l, l < 64 →
          (w'.s d.toNat).getLsbD l = (inMask (x.em w) l && (g (x.fset a) w l).1))
      ∧ flagsAccrued x (fun w l => (g (x.fset a) w l).2) w w'

/-- The elements of a floating-point arithmetic instruction: `cnt` elements of a format in the registers of an operand. -/
def floatElems (fmt : Fmt) (n : Nat) (va vb vd : VOp) (f : FEnv → Nat → Nat → Nat → Nat × Flags) (e : FSet) (r : Nat → Nat)
    (w : Warp) (l : Nat) : Nat × Flags :=
  perElem fmt.width (32 * n / fmt.width) fun j =>
    f (e.env (r j)) (elemAt fmt.width (readOp w va l) j) (elemAt fmt.width (readOp w vb l) j)
      (elemAt fmt.width (readOp w vd l) j)

/-- A floating-point arithmetic instruction on `n` registers of elements of a format. -/
def ArithResult (i : Instr) (c : BitVec 2) (n : Nat) (d a b : BitVec 6) (fmt : Fmt) (dist : Nat) (useB useD rounds : Bool)
    (f : FEnv → Nat → Nat → Nat → Nat × Flags) : Prop :=
  let srcs := vop a n :: ((if useB then [vop b n] else []) ++ (if useD then [vop d n] else []))
  FloatResult i { laneMeta c dist srcs (vop d n) with arith := some { cmp := false, sr := decide (fmt.width ≤ 16) } }
    (vop d n) srcs (if rounds then 32 * n / fmt.width else 0) (floatElems fmt n (vop a n) (vop b n) (vop d n) f)

/-- An instruction of the transcendental group. -/
def TransResult (i : Instr) (c w : BitVec 2) (d a : BitVec 6) (f : FEnv → Nat → Nat × Flags) : Prop :=
  let n := wdWidth w
  FloatResult i { laneMeta c 6 [vop a n] (vop d n) with arith := some { cmp := false, sr := false } } (vop d n) [vop a n] 0
    fun e _ q l => perElem 32 n fun j => f (e.env 0) (elemAt 32 (readOp q (vop a n) l) j)

/-- What the specification gives a vector compare of operands of `n` registers. -/
def compareMeta (c : BitVec 2) (n : Nat) (d a b : BitVec 6) (ar : Option ArithRule) : Meta :=
  { sc := c.toNat, dist := 2, vin := [vop a n, vop b n], dsts := [.s d.toNat], arith := ar }

/-- The trap enables of the governing fpm, as flag bits. -/
def enables (x : Ix) (a : State) : BitVec 8 := (x.fpm a >>> 3) &&& 0x1F#8

/-- A floating-point arithmetic instruction of two sources, of whose active lanes other than helper lanes one raises an enabled
flag: results and flags first, then the trap. -/
def ArithTrap (i : Instr) (c : BitVec 2) (n : Nat) (d a b : BitVec 6) (fmt : Fmt) (dist : Nat)
    (f : FEnv → Nat → Nat → Nat → Nat × Flags) : Prop :=
  let m : Meta :=
    { laneMeta c dist [vop a n, vop b n] (vop d n) with arith := some { cmp := false, sr := decide (fmt.width ≤ 16) } }
  let g := floatElems fmt n (vop a n) (vop b n) (vop d n) f
  ∀ s x y, issuesAs i m noExtra noUniform s = some (x, y) → operandsFine [vop a n, vop b n, vop d n] x y →
    let fl (w : Warp) (l : Nat) : BitVec 8 := (g (x.fset y) (srDraw w l) w l).2.toBits &&& enables x y
    let raising := (x.warps y).filter fun p => (p.2.lanesOn (x.em p.2)).any fun l => fl p.2 l != 0#8
    ∀ p r, raising = p :: r → ∃ t q, exec i s = .next (takeTrap (traceMark x t) x.at_ q)
      ∧ (onMembers x y t fun _ w w' =>
          { unissued w w' with vregs := w.vregs, fpflags := w.fpflags, rseed := w.rseed } = w
          ∧ lanesWritten x (vop d n) (fun l j => word32 (g (x.fset y) (srDraw w l) w l).1 j) w w'
          ∧ flagsAccrued x (fun w l => (g (x.fset y) (srDraw w l) w l).2) w w')
      ∧ q.resnext = true
      ∧ (∃ k, k < 5 ∧ q.cause = 0x1C0 + k ∧ ((p.2.lanesOn (x.em p.2)).any fun l => bit (fl p.2 l) k)
          ∧ ∀ j, j < k → ∀ l ∈ p.2.lanesOn (x.em p.2), bit (fl p.2 l) j = false)
      ∧ ∀ u ∈ x.warps y, ∀ l, l < 64 →
          (q.lanesOf u.1).getLsbD l = ((u.2.lanesOn (x.em u.2)).contains l && fl u.2 l != 0#8)

/-- An instruction that writes one result in each active lane, where the result may depend on the whole instance: word j of
lane l of member k is `f x a k w l j`, `a` the state in which it issues. -/
def LanePut (i : Instr) (m : Meta) (uniform : Ix → State → Option Nat) (ops : List VOp) (dst : VOp)
    (f : Ix → State → Nat → Warp → Nat → Nat → Word) : Prop :=
  Performs i m noExtra uniform (operandsFine (ops ++ [dst])) fun x a t =>
    onMembers x a t fun k w w' => { unissued w w' with vregs := w.vregs } = w ∧ lanesWritten x dst (f x a k w) w w'

/-- A member's index register k after `f` is written to it in the active lanes that `keep` admits. -/
def indexWritten (x : Ix) (k : Nat) (keep : Nat → Bool) (f : Nat → Word) (w w' : Warp) : Prop :=
  { unissued w w' with xregs := w.xregs } = w ∧ w'.xregs.length = w.xregs.length
  ∧ ∀ n l, n < w.xregs.length → l < 64 →
      w'.x n l = if n = k ∧ inMask (x.em w) l = true ∧ keep l = true then f l else w.x n l

/-- An instruction that writes an index register in the active lanes. -/
def IndexResult (i : Instr) (m : Meta) (srcs : List VOp) (k : BitVec 6) (H : Ix → State → Prop)
    (keep : Ix → State → Warp → Nat → Bool) (f : Warp → Nat → Word) : Prop :=
  Performs i m noExtra noUniform (fun x a => operandsFine srcs x a ∧ H x a) fun x a t =>
    onMembers x a t fun _ w w' => indexWritten x k.toNat (keep x a w) (f w) w w'

/-- An instruction that writes a scalar register of every member: `v` for member k. -/
def ScalarPut (i : Instr) (m : Meta) (uniform : Ix → State → Option Nat) (H : Ix → State → Prop) (d : BitVec 6)
    (v : Ix → State → Nat → Warp → DWord) : Prop :=
  Performs i m noExtra uniform H fun x a t =>
    onMembers x a t fun k w w' =>
      { unissued w w' with sregs := w.sregs } = w ∧ scalarWritten d.toNat (v x a k w) w w'

/-- The set-lane number that a scalar gives: 6 bits under warp scope, 11 under set and block scope (22 R430). -/
def givenPosition (x : Ix) (a : State) (b : BitVec 6) : Nat := (x.rs a b.toNat).toNat % if x.sc ≤ 1 then 64 else 2048

/-- Word k of A at a set-lane number, 0 where no active lane stands (21 R409). -/
def wordAtPosition (x : Ix) (a : State) (o : VOp) (p k : Nat) : Word :=
  match x.activeAt a p with
  | some (w, l) => wordIn w o l k
  | none => 0#32

/-- A field of a pack in mode 0 (truncate), 1 (signed saturate) or 2 (unsigned saturate) (22 R433). -/
def packedField (n : Nat) (mode : BitVec 6) (x : Word) : BitVec n :=
  if mode = 1#6 then BitVec.ofInt n (max (-2 ^ (n - 1)) (min x.toInt (2 ^ (n - 1) - 1)))
  else if mode = 2#6 then BitVec.ofInt n (max 0 (min x.toInt (2 ^ n - 1)))
  else BitVec.ofNat n x.toNat

/-- Field k of n bits of a word, sign-extended in mode 1 and zero-extended in mode 0 (22 R433). -/
def unpackedField (n : Nat) (mode : BitVec 6) (x : Word) (k : Nat) : Word :=
  if mode = 1#6 then (x.extractLsb' (n * k) n).signExtend 32 else (x.extractLsb' (n * k) n).setWidth 32

/-- The members whose lane l is active and no helper lane, ascending. -/
def contributors (x : Ix) (a : State) (l : Nat) : List (Nat × Warp) :=
  (x.warps a).filter fun p => (p.2.lanesOn (x.em p.2)).contains l

/-- Nothing but the tile file of the instance's core differs, and what every issue writes: the elements of a slice become
`v`, every other element of every tile of the core is as before. (`unitOwn`, the model's own, keeps what the matrix unit has of
the sectors.) -/
def sliceWritten (x : Ix) (a t : State) (z : Slice) (v : Nat → Word) (Q : Nat → Warp → Warp → Prop) : Prop :=
  onMembers x a (t.modCore x.core fun c => { c with tiles := (a.core x.core).tiles, unitOwn := (a.core x.core).unitOwn }) Q
  ∧ (∀ j, j < 128 → z.get t j = v j)
  ∧ ∀ k row col, row < 128 → col < 128 → (k ≠ z.tile ∨ (if z.col then col else row) ≠ z.idx) →
      tileElem t x.core k row col = tileElem a x.core k row col

/-- An instruction that writes a tile slice. -/
def SliceResult (i : Instr) (m : Meta) (t : BitVec 3) (r : BitVec 6) (n : BitVec 4) (rc : BitVec 1) (ops : List VOp)
    (H : Ix → State → Prop) (v : Ix → State → Nat → Word) (Q : Nat → Warp → Warp → Prop) : Prop :=
  Performs i m noExtra (sliceFault t r n)
    (fun x a => operandsFine ops x a ∧ H x a ∧ Mem.wf (a.core x.core).tiles = true)
    fun x a u => sliceWritten x a u (x.slice a rc t r n) (v x a) Q

/-- Branch records are off for the instance's context (15 R289: bt of DBGCTL). -/
def untraced (x : Ix) (a : State) : Prop := bit (a.ctx (x.asid a)).dbgctl 8 = false

/-- A member's issuing split has gone to an address, which is folded into its signature (15 R289); its other splits are as they
were. -/
def jumpedTo (x : Ix) (tgt : BitVec 64) (w w' : Warp) : Prop :=
  (∀ k, k ≠ x.split → w'.splits[k]? = w.splits[k]?)
  ∧ ∀ p, w.splits[x.split]? = some p → ∃ p', w'.splits[x.split]? = some p'
      ∧ p'.pc = tgt ∧ p'.sig = p.sig.rotateLeft 1 ^^^ tgt ∧ p'.landed = true ∧ p'.hints = [] ∧ p'.rwait = false
      ∧ p'.redo = none
      ∧ { p' with pc := p.pc, sig := p.sig, hints := p.hints, landed := p.landed, rwait := p.rwait, redo := p.redo,
                  hist := p.hist, wins := p.wins, stall := p.stall, lastIssue := p.lastIssue, operands := p.operands } = p

/-- Every member goes to an address and is changed otherwise as `Q` says; where no branch record is written, nothing but the
members differs. -/
def goesTo (x : Ix) (a t : State) (tgt : BitVec 64) (Q : Warp → Warp → Prop) : Prop :=
  (untraced x a → beyondMembers x a t)
  ∧ ∀ m ∈ x.members, ∀ w, a.warp? x.core x.slot m = some w →
      ∃ w', t.warp? x.core x.slot m = some w' ∧ jumpedTo x tgt w w' ∧ Q w w'

/-- The members pass the word, and nothing else changes. -/
def fallsThrough (x : Ix) (a t : State) : Prop := onMembers x a t fun _ w w' => unissued w w' = w

/-- The state in which an instruction that does not complete at once is held: its members' splits stand before the word and show
the reason. -/
def heldAt (x : Ix) (a : State) (r : Stall) : State := restoreSplits x (savedSplits x a) (fun p => { p with stall := r }) a

/-- An instruction that issues as `x` in state `a` and meets `H` ends with its splits before the word, in the state that `f`
makes of that. -/
def Waits (i : Instr) (m : Meta) (extra : Block → Split → Bool) (uniform : Ix → State → Option Nat) (H : Ix → State → Prop)
    (r : Stall) (f : Ix → State → State) : Prop :=
  ∀ s x a, issuesAs i m extra uniform s = some (x, a) → H (begun m x a).1 (begun m x a).2 →
    exec i s = .next (f (begun m x a).1 (heldAt x a r))

/-- An instruction that issues as `x` in state `a` and meets `H` takes the trap `q`, with resumption at the next word. -/
def TrapsPast (i : Instr) (m : Meta) (uniform : Ix → State → Option Nat) (H : Ix → State → Prop) (q : Ix → State → TrapReq) :
    Prop :=
  ∀ s x a, issuesAs i m noExtra uniform s = some (x, a) → H x a →
    exec i s = .next (takeTrap (traceMark x (begun m x a).2) x.at_ (q x a))

/-! ### Memory instructions -/

/-- The base of a memory instruction: the scalar and the offset of its IMM hints (19 R375). -/
def memBase (x : Ix) (s : State) (r : BitVec 4) : Nat := ((x.rs s r.toNat).toNat + (immExt x.hints 0 0 % 2 ^ 64).toNat) % 2 ^ 64

/-- What the lanes of a memory instruction come to (19 R375, R376). -/
def memOut (op : MemOp) (vd va : VOp) (r : BitVec 4) (x : Ix) (s : State) : LaneOut :=
  match x.block? s with
  | some b => runLanes x.core x.slot x.split b op x.hints s (x.laneAccs s vd va (memBase x s r))
  | none => { s := s, vals := [], trans := [], bad := [], hits := [], tags := [], ins := none }

/-- The results of a memory instruction written to their registers. -/
def memDone (op : MemOp) (vd va : VOp) (r : BitVec 4) (x : Ix) (s : State) : State :=
  writeVals x.core x.slot op (memOut op vd va r x s)

/-- The instruction waits: for remote accesses that its release needs, for the end of a rebase, or for a miss-status entry. -/
def memHeld (op : MemOp) (vd va : VOp) (r : BitVec 4) (x : Ix) (s : State) : Bool :=
  x.remoteHeld s (howOf x.hints) || (match x.block? s with
    | some b => entriesWait x s b op (howOf x.hints) (x.laneAccs s vd va (memBase x s r))
    | none => false)

/-- A memory instruction accesses memory: no operand fault, nothing to wait for, no watchpoint, no other device. -/
def memRuns (op : MemOp) (vd va : VOp) (r : BitVec 4) (x : Ix) (s : State) : Prop :=
  operandsFine [vd, va] x s ∧ (x.block? s).isSome = true ∧ memHeld op vd va r x s = false ∧ x.deferred = []
    ∧ (memOut op vd va r x s).hits = [] ∧ (memOut op vd va r x s).tags = [] ∧ (memOut op vd va r x s).ins = none

/-- What a memory instruction does (19 R376; 21 R416, R417; 18 R327 to R329; 10 R201): its accesses and results, when no lane
faults; a wait; lanes with a translation fault go to the operand log; lanes that fault otherwise trap past the word. -/
def MemoryResult (i : Instr) (op : MemOp) (m : Meta) (la : Nat) (vd va : VOp) (r : BitVec 4) (extra : Block → Split → Bool) : Prop :=
  Makes i m extra noUniform
    (fun x s => memRuns op vd va r x s ∧ (memOut op vd va r x s).trans = [] ∧ (memOut op vd va r x s).bad = []) (memDone op vd va r)
  ∧ Waits i m extra noUniform (fun x s => operandsFine [vd, va] x s ∧ (x.block? s).isSome = true ∧ memHeld op vd va r x s = true) .memory
    (fun _ s => s)
  ∧ Makes i m extra noUniform (fun x s => memRuns op vd va r x s ∧ (memOut op vd va r x s).trans ≠ [])
    (fun x s => match x.block? s with
      | some b => logAll x (wordOf i) op la b (x.laneAccs s vd va (memBase x s r)) (memOut op vd va r x s).trans
          (memOut op vd va r x s).bad (x.rs s r.toNat)
          (fun k => match x.warp? s k with
            | some w => Vec.of fun l => word32 (readOp w va l) 0
            | none => Vec.splat 0) (memDone op vd va r x s)
      | none => s)
  ∧ ∀ s x a, issuesAs i m extra noUniform s = some (x, a) →
      let y := (begun m x a).1
      let b := (begun m x a).2
      memRuns op vd va r y b → (memOut op vd va r y b).trans = [] → (∀ k ∈ x.members, k < 32) →
      ∀ f fs, (memOut op vd va r y b).bad = f :: fs →
        ∃ q, exec i s = .next (takeTrap (traceMark x (memDone op vd va r y b)) x.at_ q) ∧ q.resnext = true
          ∧ (∃ g ∈ f :: fs, q.cause = g.2.2.1 ∧ ∀ h ∈ f :: fs, g.1 < h.1 ∨ (g.1 = h.1 ∧ g.2.1 ≤ h.2.1))
          ∧ ∀ h ∈ f :: fs, (q.lanesOf h.1).getLsbD h.2.1 = true

/-- The offset of a lane (19 R375). -/
def laneOffset (x : Ix) (s : State) (va : VOp) (r : BitVec 4) (w : Warp) (l : Nat) : Nat := (memBase x s r + readOp w va l) % 2 ^ 64

/-- `n` bytes at an offset lie in the block's own scratch, aligned (08 R158; 19 R375). -/
def scratchFits (x : Ix) (s : State) (b : Block) (n o : Nat) : Bool :=
  decide (o % n = 0) && decide (o < b.scrSize) && ((scratchOwner s x.core (b.scrBase + o) n).map (·.asid) == some b.asid)

/-- Where an aligned offset of the cluster-scratch layout lies: a core and an address of its scratch (08 Table 8.4). -/
def clusterAt (x : Ix) (s : State) (b : Block) (n o : Nat) : Option (Nat × Nat) :=
  if o % n ≠ 0 then none
  else match scratchPlace s x.core b 2 o with
    | .at_ p => (match p.at_ with
      | .scratch c y => if (scratchOwner s c y n).map (·.asid) = some b.asid then some (c, y) else none
      | _ => none)
    | _ => none

/-- A memory instruction without a MEMORD hint, issued for the first time, that need not wait. -/
def plainMemory (x : Ix) (s : State) : Prop :=
  hintOf x.hints 2 = none ∧ missFull s x.core = false ∧ s.rebasing = false ∧ x.todo = [] ∧ x.deferred = []
    ∧ ∀ p ∈ x.warps s, p.2.vregs.length ≤ 1024

/-- The pipe of the lead's stream register. -/
def pipeAt (x : Ix) (s : State) (q : BitVec 3) : Option (Nat × Pipe) :=
  (x.stream s q).bind fun b => (s.pipes.get? b.pipe).map fun p => (b.pipe, p)

/-- A commit or a free at pod scope waits for the members' remote writes (09 R192). -/
def podWrites (x : Ix) (s : State) (p : Pipe) : Bool :=
  p.scope == 2 && x.members.any fun m => remoteWrites s x.core x.slot m x.split

/-- The number in a slot of a pipe that the block reserved. -/
def reservedNum (x : Ix) (p : Pipe) (a : DWord) : Option Nat := p.findSlot a fun _ st => st.reservedBy x.core x.slot

/-- The number in a slot of a pipe that the block holds through QPOP. -/
def heldNum (x : Ix) (s : State) (key : Nat) (p : Pipe) (a : DWord) : Option Nat :=
  p.findSlot a fun n st => st.heldBy x.core x.slot && x.holds s key n

/-- An engine instruction that asks for leave before it takes an entry (12 R226; 04 R94): with leave, a free entry and room in
its queue, the operation starts, and what `after` says follows; without leave it asks and waits; without an entry or room it
waits. -/
def LeaveResult (i : Instr) (m : Meta) (uni pre : Ix → State → Option Nat) (kind : Ix → State → OpKind)
    (words : Ix → State → DWord × DWord) (units : Nat) (h : BitVec 4) (room : Ix → State → Bool) (full : Stall)
    (queue : Ix → State → Nat → Core → Core) (after : Ix → State → State → State) : Prop :=
  let leave (x : Ix) (s : State) : Bool := leaveGranted s x.core x.slot x.lead x.pc
  let asks (x : Ix) (s : State) : Prop := pre x s = none
  Makes i m noExtra uni (fun x s => asks x s ∧ leave x s = true ∧ room x s = true ∧ (freeEntryNo s x.core).isSome = true)
    (fun x s => match freeEntryNo s x.core with
      | some e => after x s (startOp x s (kind x s) (words x s).1 (words x s).2 units h.toNat e (queue x s e))
      | none => s)
  ∧ Waits i m noExtra uni (fun x s => asks x s ∧ leave x s = false) .leave (fun x s => askLeave s x.core x.slot x.lead x.pc units)
  ∧ Waits i m noExtra uni (fun x s => asks x s ∧ leave x s = true ∧ freeEntryNo s x.core = none) .engineFull (fun _ s => s)
  ∧ Waits i m noExtra uni (fun x s => asks x s ∧ leave x s = true ∧ (freeEntryNo s x.core).isSome = true ∧ room x s = false) full
    (fun _ s => s)

/-- The entry of a CPY: the one that it took when it first came here, or a free one, with a place in the copy queue
(12 R226). -/
def copyEntry (x : Ix) (a : BitVec 6) (s : State) : Option (Nat × State) :=
  match waitingCopy s x with
  | some e => some (e, s)
  | none => if 16 ≤ (s.core x.core).copyQ.length then none
    else (freeEntryNo s x.core).map fun e => (e, takeCopy x (x.rs s a.toNat) e s)

/-- The words of the record that a scalar of the lead names, when its reading meets no fault (13 R246). -/
def recordAt (x : Ix) (s : State) (v : DWord) (n : Nat) : Option (List DWord × State) :=
  (x.block? s).bind fun b => match netRead x s b (bits v 56 2) (bits v 0 56) n [] with
    | .words ws t => some (ws, t)
    | _ => none

/-- The kernel's trap word sends a cause to its own handler (14 Table 14.3). -/
def handles (k : DWord) (cause : Nat) (delivered : Bool) : Prop :=
  (0x040 ≤ cause ∧ cause ≤ 0x07F ∧ cause ≠ 0x04A ∧ bit k 24 = true) ∨ (delivered = true ∧ bit k 25 = true)
    ∨ (0x1C0 ≤ cause ∧ cause ≤ 0x1C4 ∧ bit k 26 = true) ∨ (0x1F0 ≤ cause ∧ cause ≤ 0x1FF ∧ bit k 27 = true)
    ∨ (cause = 0x1E1 ∧ bit k 28 = true)

/-- resnext of a trap record (14 R265): of the causes that the rule names, and where the instruction says so. -/
def resumesPast (t : TrapReq) : Bool :=
  t.resnext || decide ((0x1C0 ≤ t.cause ∧ t.cause ≤ 0x1C4) ∨ t.cause = 0x1E1 ∨ t.cause = 0x1E2 ∨ (0x1F0 ≤ t.cause ∧ t.cause ≤ 0x1FF))

/-- The words of a trap record: cause, kind 6, asid, resnext; address; lanes; pc (14 Table 14.2). -/
def recordOf (a : TrapAt) (t : TrapReq) (asid : Nat) (ws : List DWord) : Prop :=
  recField ws 0 0 9 = t.cause ∧ recField ws 0 9 3 = 6 ∧ recField ws 0 12 10 = asid
    ∧ recField ws 0 31 1 = (if resumesPast t then 1 else 0) ∧ recField ws 1 0 56 = t.va % 2 ^ 56
    ∧ wordAt ws 2 = t.lanesOf a.warp ∧ wordAt ws 3 = a.pc

/-- The port's split may issue, and waits for no result: what a hint word and a word that is no instruction need. -/
def portReady (s : State) (b : Block) (w : Warp) (q : Split) : Prop :=
  canIssue s s.port = true ∧ s.block? s.port.core s.port.slot = some b ∧ s.warp? s.port.core s.port.slot s.port.warp = some w
    ∧ w.splits[s.port.split]? = some q ∧ lookaheadWait q = false

/-- Where the port's split traps on its own word. -/
def portTrap (s : State) (q : Split) : TrapAt :=
  { core := s.port.core, slot := s.port.slot, warp := s.port.warp, split := s.port.split, pc := q.pc, sc := 0 }

/-! ### Packets -/

/-- A packet of a kind has started and does not wait for firmware: its action comes next (04 R88). `ws` are its body's words. -/
def acting (k kind : Nat) (p : Packet) (ws : List DWord) (s : State) : Prop :=
  s.pkts.get? k = some p ∧ p.kind = kind ∧ p.st = .started ∧ p.waiting = false ∧ ws = wordsOf (p.body.length / 8) p.body

/-- A context-control packet of a subcommand acts: its conditions hold (04 R83, R84). -/
def controls (k sub : Nat) (p : Packet) (ws : List DWord) (s : State) : Prop :=
  acting k 9 p ws s ∧ pf ws 0 0 8 = sub
    ∧ ∀ d, s.rings.get? p.ring = some d → firstBad (ctlChecks s p.ring d (List.replicate 4 0#64 ++ ws)) = none

/-- The packet's action has ended with a status; every other packet is as it was. -/
def endsWith (k status : Nat) (s t : State) : Prop :=
  (∀ p, s.pkts.get? k = some p → t.pkts.get? k = some { p with st := .ended status, fault := none, got := [] })
  ∧ ∀ j, j ≠ k → t.pkts.get? j = s.pkts.get? j

/-- A block's barrier instance has completed: it is closed, and the splits of its arrived warps that waited stand at the next
word (18 R331, R332). -/
def barPassed (b b' : Block) (i : Inst) : Prop :=
  b'.blockInst = none ∧ { b' with blockInst := b.blockInst, gcountB := b.gcountB, gcountG := b.gcountG, warps := b.warps } = b
  ∧ b'.warps.length = b.warps.length
  ∧ ∀ (m : Nat) (w : Warp), b.warps[m]? = some w → ∃ w', b'.warps[m]? = some w'
      ∧ (m ∉ i.arrived → w' = w) ∧ { w' with splits := w.splits } = w
      ∧ ∀ (k : Nat) (q : Split), w.splits[k]? = some q → m ∈ i.arrived →
          ∃ q', w'.splits[k]? = some q' ∧ (q.waitsAt i.pc = false → q' = q)
            ∧ (q.waitsAt i.pc = true → q'.pc = i.pc + 4#64 ∧ q'.rwait = false ∧ q'.lanes = q.lanes ∧ q'.em = q.em)

/-- The splits of a JOIN group have become one, in the lowest slot, past the word: the union of their lanes, one level less
deep; the others are empty (06 R121). -/
def groupMerged (w w' : Warp) (pc : BitVec 64) (d : Nat) : Prop :=
  { w' with splits := w.splits } = w ∧ w'.splits.length = w.splits.length
  ∧ ∃ (k : Nat) (p q : Split), w.splits[k]? = some q ∧ q.inGroup pc d = true ∧ (∀ (j : Nat) (q : Split), j < k → w.splits[j]? = some q → q.inGroup pc d = false)
      ∧ w'.splits[k]? = some p ∧ p.valid = true ∧ p.pc = pc + 4#64 ∧ p.jwait = false ∧ p.depth = d - 1
      ∧ (∀ l, p.lanes.getLsbD l = true ↔ ∃ q ∈ w.splits, q.inGroup pc d = true ∧ q.lanes.getLsbD l = true)
      ∧ (∀ l, p.em.getLsbD l = true ↔ ∃ q ∈ w.splits, q.inGroup pc d = true ∧ q.em.getLsbD l = true)
      ∧ ∀ (j : Nat) (q : Split), j ≠ k → w.splits[j]? = some q → w'.splits[j]? = some (if q.inGroup pc d then Split.empty else q)

/-- A record that firmware answers by its number: of a trap, of a fault that no log entry holds, or of a trap of a saved block that
has no answer yet (10 R202; 14 R271). -/
def awaitsAnswer (core quarter n : Nat) (r : FaultRec) : Bool :=
  r.rseq.toNat == n && r.core == core && r.quarter == quarter && (match r.who with
    | .trap _ _ _ _ => true
    | .noLog _ _ _ _ _ => true
    | .savedTrap _ _ _ _ => r.answer == 0
    | _ => false)

/-- A record of a fault of a unit's access that firmware answers by its number. -/
def unitRecord (unit n : Nat) (r : FaultRec) : Bool := r.rseq.toNat == n && r.unit == unit

/-- A record of a fault of a core's matrix operation. -/
def matrixRecord (s : State) (core n : Nat) (r : FaultRec) : Bool :=
  r.written && r.rseq.toNat == n && (match r.who with
    | .engine c e _ => c == core && (match s.op? c e with | some o => o.kind == .matrix | none => false)
    | _ => false)

/-! ### Words -/

/-- Table 17.7: a hint of a kind may stand before the instruction of a word. -/
def acceptsHint (word : Word) (kind : Nat) : Bool :=
  let major := bits word 26 6
  match kind with
  | 0 => major == 0x04 || major == 0x15 || (major == 0x18 && decide (bits word 20 4 ≤ 4)) || (decide (0x1A ≤ major) && decide (major ≤ 0x1F))
  | 2 => (decide (0x1A ≤ major) && decide (major ≤ 0x1F)) || (major == 0x20 && bits word 0 4 == 0)
  | 3 => (decide (0x05 ≤ major) && decide (major ≤ 0x09)) || major == 0x0B || major == 0x0C
  | 4 => (major == 0x21 && bits word 0 5 == 2) || (decide (0x22 ≤ major) && decide (major ≤ 0x24)) || major == 0x26
      || (major == 0x28 && bits word 0 4 == 1)
  | 6 => decide (0x1A ≤ major) && decide (major ≤ 0x1D) && bits word 16 2 == 3
  | _ => kind == 1 || kind == 5

/-- 14 R268: a handler must not execute the instruction of a word. -/
def forbiddenInHandler (word : Word) : Bool :=
  let major := bits word 26 6
  let fn := bits word 20 4
  decide (2 ≤ bits word 24 2) || (major == 0x18 && (fn == 3 || fn == 6))
    || (major == 0x19 && (fn == 1 || fn == 2 || fn == 11 || fn == 12)) || (decide (0x21 ≤ major) && decide (major ≤ 0x28))

/-- 02 R31: what a REFILL asks of the word's place and of the kernel; every other word asks nothing more. -/
def atItsPlace (word : Word) (b : Block) (q : Split) : Prop :=
  bits word 26 6 = 0x19 → bits word 20 4 = 2 → q.pc = b.refillPc ∧ b.kernel.items = min (bits word 24 2) 2

/-! ### Values that the statements name -/

/-- The position that a control operand gives (18 R323). -/
def fieldPos (b : Word) : Nat := b.toNat % 32

/-- The length that a control operand gives (18 R323). -/
def fieldLen (b : Word) : Nat := min (b.toNat / 256 % 64) (32 - fieldPos b)

/-- The mask of the field that a control operand gives (18 R323). -/
def fieldMask (b : Word) : Word := ((BitVec.allOnes (fieldLen b)).setWidth 32) <<< fieldPos b

/-- The condition codes of an integer compare, in the order of 17 Table 17.4. -/
def intConds {n : Nat} (a b : BitVec n) : List Bool :=
  [a == b, a != b, a.slt b, a.sle b, b.slt a, b.sle a, a.ult b, a.ule b, b.ult a, b.ule a, a &&& b != 0#n, a &&& b == 0#n]

/-- What MTS may write: the RW specials, the trap context in a handler alone (05 R112). -/
def mayWriteSpecial (n : Nat) (x : Ix) (s : State) : Bool :=
  [0, 16, 17, 20, 37].contains n
    || (decide (24 ≤ n ∧ n ≤ 31) && (x.warp? s x.lead).any fun q => q.frozen.isSome)

end Sys2Proof
end

