-- ==== Sys2Proof/Certificates/Slice0/Obligations.lean ====
section
/-! DEFINITION. What is claimed of the Sorrek 6: the statements for the provers. -/

open Sys2Proof Sys2Proof.Machine

/-- 19 R371, R372, Table 19.8, major 0x01: each of the `w` words of D is the instruction's function of the same words of A, B
and (IMAD) the old D, in every active lane; nothing else changes but the word passed. -/
def Obligations.IntegerWordResults : Prop :=
  ∀ (c w : BitVec 2) (d a b : BitVec 6),
    WordResult (.iadd32 c w d a b) c w d a b 2 false (fun x y _ => BitVec.ofNat 32 (x.toNat + y.toNat))
    ∧ WordResult (.isub32 c w d a b) c w d a b 2 false (fun x y _ => BitVec.ofInt 32 (x.toNat - y.toNat : Int))
    ∧ WordResult (.imul32 c w d a b) c w d a b 3 false (fun x y _ => BitVec.ofNat 32 (x.toNat * y.toNat))
    ∧ WordResult (.imulhI32 c w d a b) c w d a b 3 false
        (fun x y _ => (x.signExtend 64 * y.signExtend 64).extractLsb' 32 32)
    ∧ WordResult (.imulhN32 c w d a b) c w d a b 3 false
        (fun x y _ => (x.setWidth 64 * y.setWidth 64).extractLsb' 32 32)
    ∧ WordResult (.imad32 c w d a b) c w d a b 3 true (fun x y z => BitVec.ofNat 32 (x.toNat * y.toNat + z.toNat))
    ∧ WordResult (.iminI32 c w d a b) c w d a b 2 false (fun x y _ => BitVec.ofInt 32 (min x.toInt y.toInt))
    ∧ WordResult (.iminN32 c w d a b) c w d a b 2 false (fun x y _ => BitVec.ofNat 32 (min x.toNat y.toNat))
    ∧ WordResult (.imaxI32 c w d a b) c w d a b 2 false (fun x y _ => BitVec.ofInt 32 (max x.toInt y.toInt))
    ∧ WordResult (.imaxN32 c w d a b) c w d a b 2 false (fun x y _ => BitVec.ofNat 32 (max x.toNat y.toNat))
    ∧ UnaryResult (.iabs32 c w d a) c (wdWidth w) d a (fun x => BitVec.ofNat 32 x.toInt.natAbs)
    ∧ WordResult (.iaddsI32 c w d a b) c w d a b 2 false
        (fun x y _ => BitVec.ofInt 32 (max (-2 ^ 31) (min (x.toInt + y.toInt) (2 ^ 31 - 1))))
    ∧ WordResult (.iaddsN32 c w d a b) c w d a b 2 false
        (fun x y _ => BitVec.ofNat 32 (min (x.toNat + y.toNat) (2 ^ 32 - 1)))
    ∧ WordResult (.isubsI32 c w d a b) c w d a b 2 false
        (fun x y _ => BitVec.ofInt 32 (max (-2 ^ 31) (min (x.toInt - y.toInt) (2 ^ 31 - 1))))
    ∧ WordResult (.isubsN32 c w d a b) c w d a b 2 false
        (fun x y _ => BitVec.ofInt 32 (max (x.toNat - y.toNat : Int) 0))

/-- 19 R371, R372, Table 19.8, major 0x02: the pair D is the instruction's function of the pairs A, B and (IMAD) the old D, in
every active lane; nothing else changes but the word passed. -/
def Obligations.IntegerPairResults : Prop :=
  ∀ (c : BitVec 2) (d a b : BitVec 6),
    PairResult (.iadd64 c d a b) c d a b 2 false (fun x y _ => BitVec.ofNat 64 (x.toNat + y.toNat))
    ∧ PairResult (.isub64 c d a b) c d a b 2 false (fun x y _ => BitVec.ofInt 64 (x.toNat - y.toNat : Int))
    ∧ PairResult (.imul64 c d a b) c d a b 3 false (fun x y _ => BitVec.ofNat 64 (x.toNat * y.toNat))
    ∧ PairResult (.imulhI64 c d a b) c d a b 3 false
        (fun x y _ => (x.signExtend 128 * y.signExtend 128).extractLsb' 64 64)
    ∧ PairResult (.imulhN64 c d a b) c d a b 3 false
        (fun x y _ => (x.setWidth 128 * y.setWidth 128).extractLsb' 64 64)
    ∧ PairResult (.imad64 c d a b) c d a b 3 true (fun x y z => BitVec.ofNat 64 (x.toNat * y.toNat + z.toNat))
    ∧ PairResult (.iminI64 c d a b) c d a b 2 false (fun x y _ => BitVec.ofInt 64 (min x.toInt y.toInt))
    ∧ PairResult (.iminN64 c d a b) c d a b 2 false (fun x y _ => BitVec.ofNat 64 (min x.toNat y.toNat))
    ∧ PairResult (.imaxI64 c d a b) c d a b 2 false (fun x y _ => BitVec.ofInt 64 (max x.toInt y.toInt))
    ∧ PairResult (.imaxN64 c d a b) c d a b 2 false (fun x y _ => BitVec.ofNat 64 (max x.toNat y.toNat))
    ∧ LaneResult (.iabs64 c d a) (laneMeta c 2 [vop a 2] (vop d 2)) (vop d 2) [vop a 2]
        (fun _ q l k => halfOf (BitVec.ofNat 64 (pairIn q (vop a 2) l).toInt.natAbs) k)
    ∧ PairResult (.iaddsI64 c d a b) c d a b 2 false
        (fun x y _ => BitVec.ofInt 64 (max (-2 ^ 63) (min (x.toInt + y.toInt) (2 ^ 63 - 1))))
    ∧ PairResult (.iaddsN64 c d a b) c d a b 2 false
        (fun x y _ => BitVec.ofNat 64 (min (x.toNat + y.toNat) (2 ^ 64 - 1)))
    ∧ PairResult (.isubsI64 c d a b) c d a b 2 false
        (fun x y _ => BitVec.ofInt 64 (max (-2 ^ 63) (min (x.toInt - y.toInt) (2 ^ 63 - 1))))
    ∧ PairResult (.isubsN64 c d a b) c d a b 2 false
        (fun x y _ => BitVec.ofInt 64 (max (x.toNat - y.toNat : Int) 0))

/-- 18 R322, R323; 20 R384; 21 R410, R411; 22 R434, R440: the bit operations of major 0x03, in every active lane; nothing else
changes but the word passed. -/
def Obligations.BitOperationResults : Prop :=
  ∀ (c w : BitVec 2) (d a b : BitVec 6),
    WordResult (.and c w d a b) c w d a b 2 false (fun x y _ => x &&& y)
    ∧ WordResult (.or c w d a b) c w d a b 2 false (fun x y _ => x ||| y)
    ∧ WordResult (.xor c w d a b) c w d a b 2 false (fun x y _ => x ^^^ y)
    ∧ WordResult (.andn c w d a b) c w d a b 2 false (fun x y _ => x &&& ~~~y)
    ∧ WordResult (.vsel c w d a b) c w d a b 2 true (fun x y m => (x &&& m) ||| (y &&& ~~~m))
    ∧ WordResult (.shl c d a b) c 0#2 d a b 2 false (fun x y _ => BitVec.ofNat 32 (x.toNat * 2 ^ (y.toNat % 32)))
    ∧ WordResult (.shrN c d a b) c 0#2 d a b 2 false (fun x y _ => BitVec.ofNat 32 (x.toNat / 2 ^ (y.toNat % 32)))
    ∧ WordResult (.shrI c d a b) c 0#2 d a b 2 false (fun x y _ => BitVec.ofInt 32 (x.toInt / 2 ^ (y.toNat % 32)))
    ∧ WordResult (.rot c d a b) c 0#2 d a b 2 false
        (fun x y _ => (x <<< (y.toNat % 32)) ||| (x >>> (32 - y.toNat % 32)))
    ∧ UnaryResult (.popc c d a) c 1 d a (fun x => BitVec.ofNat 32 ((List.range 32).filter x.getLsbD).length)
    ∧ UnaryResult (.clz c d a) c 1 d a (fun x => BitVec.ofNat 32 (if x = 0#32 then 32 else 31 - Nat.log2 x.toNat))
    ∧ UnaryResult (.brev c d a) c 1 d a (fun x => x.reverse)
    ∧ WordResult (.bfxN c d a b) c 0#2 d a b 2 false
        (fun x y _ => (x.extractLsb' (fieldPos y) (fieldLen y)).setWidth 32)
    ∧ WordResult (.bfxI c d a b) c 0#2 d a b 2 false
        (fun x y _ => (x.extractLsb' (fieldPos y) (fieldLen y)).signExtend 32)
    ∧ WordResult (.bfi c d a b) c 0#2 d a b 2 true
        (fun x y z => (z &&& ~~~fieldMask y) ||| ((x <<< fieldPos y) &&& fieldMask y))

/-- 18 R324; 19 R373; 20 R385; 21 R400, R401, R410, R411, Table 21.3; 22 R431, R440: the vector immediates of major 0x04, on
each of the `w` registers of D in every active lane, and the scalar immediates of major 0x15, on D of every member from the
lead's D; nothing else changes but the word passed. -/
def Obligations.ImmediateOperandResults : Prop :=
  ∀ (c w : BitVec 2) (d : BitVec 6) (i : BitVec 12),
    ImmediateResult (.iaddi c w d i) c w d i 2 true (fun x y => BitVec.ofNat 32 (x.toNat + y.toNat))
    ∧ ImmediateResult (.imuli c w d i) c w d i 3 true (fun x y => BitVec.ofNat 32 (x.toNat * y.toNat))
    ∧ ImmediateResult (.andi c w d i) c w d i 2 true (fun x y => x &&& y)
    ∧ ImmediateResult (.ori c w d i) c w d i 2 true (fun x y => x ||| y)
    ∧ ImmediateResult (.xori c w d i) c w d i 2 true (fun x y => x ^^^ y)
    ∧ ImmediateResult (.shli c w d i) c w d i 2 true (fun x y => BitVec.ofNat 32 (x.toNat * 2 ^ (y.toNat % 32)))
    ∧ ImmediateResult (.shriN c w d i) c w d i 2 true (fun x y => BitVec.ofNat 32 (x.toNat / 2 ^ (y.toNat % 32)))
    ∧ ImmediateResult (.shriI c w d i) c w d i 2 true (fun x y => BitVec.ofInt 32 (x.toInt / 2 ^ (y.toNat % 32)))
    ∧ ImmediateResult (.vmovi c w d i) c w d i 2 false (fun _ y => y)
    ∧ ScalarImmResult (.saddi c d i) c d i 2 true (fun x y => BitVec.ofNat 64 (x.toNat + y.toNat))
    ∧ ScalarImmResult (.sandi c d i) c d i 2 true (fun x y => x &&& y)
    ∧ ScalarImmResult (.sori c d i) c d i 2 true (fun x y => x ||| y)
    ∧ ScalarImmResult (.sxori c d i) c d i 2 true (fun x y => x ^^^ y)
    ∧ ScalarImmResult (.sshli c d i) c d i 2 true (fun x y => BitVec.ofNat 64 (x.toNat * 2 ^ (y.toNat % 64)))
    ∧ ScalarImmResult (.sshriN c d i) c d i 2 true (fun x y => BitVec.ofNat 64 (x.toNat / 2 ^ (y.toNat % 64)))
    ∧ ScalarImmResult (.sshriI c d i) c d i 2 true (fun x y => BitVec.ofInt 64 (x.toInt / 2 ^ (y.toNat % 64)))
    ∧ ScalarImmResult (.smovi c d i) c d i 2 false (fun _ y => y)
    ∧ ScalarImmResult (.smuli c d i) c d i 3 true (fun x y => BitVec.ofNat 64 (x.toNat * y.toNat))

/-- 21 R398, R399, Table 21.1: the scalar instructions of major 0x14 write their result to D of every member, from the lead's
sources as they were; nothing else changes but the word passed. -/
def Obligations.ScalarArithmeticResults : Prop :=
  ∀ (c : BitVec 2) (d a b : BitVec 6),
    Scalar2Result (.sadd c d a b) c d a b 2 (fun x y => BitVec.ofNat 64 (x.toNat + y.toNat))
    ∧ Scalar2Result (.ssub c d a b) c d a b 2 (fun x y => BitVec.ofInt 64 (x.toNat - y.toNat : Int))
    ∧ Scalar2Result (.smul c d a b) c d a b 3 (fun x y => BitVec.ofNat 64 (x.toNat * y.toNat))
    ∧ Scalar2Result (.sand c d a b) c d a b 2 (fun x y => x &&& y)
    ∧ Scalar2Result (.sor c d a b) c d a b 2 (fun x y => x ||| y)
    ∧ Scalar2Result (.sxor c d a b) c d a b 2 (fun x y => x ^^^ y)
    ∧ Scalar2Result (.sandn c d a b) c d a b 2 (fun x y => x &&& ~~~y)
    ∧ Scalar2Result (.sshl c d a b) c d a b 2 (fun x y => BitVec.ofNat 64 (x.toNat * 2 ^ (y.toNat % 64)))
    ∧ Scalar2Result (.sshrN c d a b) c d a b 2 (fun x y => BitVec.ofNat 64 (x.toNat / 2 ^ (y.toNat % 64)))
    ∧ Scalar2Result (.sshrI c d a b) c d a b 2 (fun x y => BitVec.ofInt 64 (x.toInt / 2 ^ (y.toNat % 64)))
    ∧ Scalar2Result (.sminI c d a b) c d a b 2 (fun x y => BitVec.ofInt 64 (min x.toInt y.toInt))
    ∧ Scalar2Result (.sminN c d a b) c d a b 2 (fun x y => BitVec.ofNat 64 (min x.toNat y.toNat))
    ∧ Scalar2Result (.smaxI c d a b) c d a b 2 (fun x y => BitVec.ofInt 64 (max x.toInt y.toInt))
    ∧ Scalar2Result (.smaxN c d a b) c d a b 2 (fun x y => BitVec.ofNat 64 (max x.toNat y.toNat))
    ∧ ScalarResult (.spopc c d a) (scalarMeta c 2 [a] d false) d
        (fun _ rs => BitVec.ofNat 64 ((List.range 64).filter (rs a.toNat).getLsbD).length)
    ∧ ScalarResult (.sffs c d a) (scalarMeta c 2 [a] d false) d
        (fun _ rs => BitVec.ofNat 64 (((List.range 64).find? (rs a.toNat).getLsbD).getD 64))

/-- 21 R404, R412: SCMP, SMOV and SSEL; nothing else changes but the word passed. -/
def Obligations.ScalarCompareAndMoveResults : Prop :=
  ∀ (c : BitVec 2) (k : BitVec 4) (d a b : BitVec 6),
    (k.toNat < 12 → Scalar2Result (.scmp c k d a b) c d a b 2
      (fun x y => if (intConds x y).getD k.toNat false then 1#64 else 0#64))
    ∧ ScalarResult (.smov c d a) (scalarMeta c 2 [a] d false) d (fun _ rs => rs a.toNat)
    ∧ ScalarResult (.ssel c d a b) (scalarMeta c 2 [a, b, d] d false) d
        (fun _ rs => if rs b.toNat = 0#64 then rs d.toNat else rs a.toNat)

/-- 19 R354 to R358; 07 R141, R142: the arithmetic instructions on f32 (WD gives the registers) and on f64, in every active
lane. No lane raises an enabled flag; the flags accrue; nothing else changes but the word passed. -/
def Obligations.FloatArithmeticResults : Prop :=
  ∀ (c w : BitVec 2) (d a b : BitVec 6),
    ArithResult (.faddF32 c w d a b) c (wdWidth w) d a b .f32 3 true false true (faddElem .f32)
    ∧ ArithResult (.fsubF32 c w d a b) c (wdWidth w) d a b .f32 3 true false true (fsubElem .f32)
    ∧ ArithResult (.fmulF32 c w d a b) c (wdWidth w) d a b .f32 3 true false true (fmulElem .f32)
    ∧ ArithResult (.ffmaF32 c w d a b) c (wdWidth w) d a b .f32 3 true true true (ffmaElem .f32)
    ∧ ArithResult (.fminF32 c w d a b) c (wdWidth w) d a b .f32 3 true false false (fminmaxElem false .f32)
    ∧ ArithResult (.fmaxF32 c w d a b) c (wdWidth w) d a b .f32 3 true false false (fminmaxElem true .f32)
    ∧ ArithResult (.fabsF32 c w d a) c (wdWidth w) d a 0#6 .f32 3 false false false (fsignElem false .f32)
    ∧ ArithResult (.fnegF32 c w d a) c (wdWidth w) d a 0#6 .f32 3 false false false (fsignElem true .f32)
    ∧ ArithResult (.fscaleF32 c w d a b) c (wdWidth w) d a b .f32 3 true false true (fscaleElem .f32)
    ∧ ArithResult (.fdivF32 c w d a b) c (wdWidth w) d a b .f32 6 true false true (fdivElem .f32)
    ∧ ArithResult (.fclassF32 c w d a) c (wdWidth w) d a 0#6 .f32 3 false false false (fclassElem .f32)
    ∧ ArithResult (.frndF32 c w d a) c (wdWidth w) d a 0#6 .f32 3 false false true (frndElem .f32)
    ∧ ArithResult (.faddF64 c d a b) c 2 d a b .f64 6 true false true (faddElem .f64)
    ∧ ArithResult (.fsubF64 c d a b) c 2 d a b .f64 6 true false true (fsubElem .f64)
    ∧ ArithResult (.fmulF64 c d a b) c 2 d a b .f64 6 true false true (fmulElem .f64)
    ∧ ArithResult (.ffmaF64 c d a b) c 2 d a b .f64 6 true true true (ffmaElem .f64)
    ∧ ArithResult (.fminF64 c d a b) c 2 d a b .f64 6 true false false (fminmaxElem false .f64)
    ∧ ArithResult (.fmaxF64 c d a b) c 2 d a b .f64 6 true false false (fminmaxElem true .f64)
    ∧ ArithResult (.fabsF64 c d a) c 2 d a 0#6 .f64 6 false false false (fsignElem false .f64)
    ∧ ArithResult (.fnegF64 c d a) c 2 d a 0#6 .f64 6 false false false (fsignElem true .f64)
    ∧ ArithResult (.fscaleF64 c d a b) c 2 d a b .f64 6 true false true (fscaleElem .f64)
    ∧ ArithResult (.fdivF64 c d a b) c 2 d a b .f64 6 true false true (fdivElem .f64)
    ∧ ArithResult (.fclassF64 c d a) c 2 d a 0#6 .f64 6 false false false (fclassElem .f64)
    ∧ ArithResult (.frndF64 c d a) c 2 d a 0#6 .f64 6 false false true (frndElem .f64)

/-- 19 R354 to R358; 07 R139, R141, R144: the packed arithmetic instructions, two elements in each register, element 0 first. -/
def Obligations.PackedFloatResults : Prop :=
  ∀ (c w : BitVec 2) (d a b : BitVec 6),
    ArithResult (.faddF16x2 c w d a b) c (wdWidth w) d a b .f16 3 true false true (faddElem .f16)
    ∧ ArithResult (.fsubF16x2 c w d a b) c (wdWidth w) d a b .f16 3 true false true (fsubElem .f16)
    ∧ ArithResult (.fmulF16x2 c w d a b) c (wdWidth w) d a b .f16 3 true false true (fmulElem .f16)
    ∧ ArithResult (.ffmaF16x2 c w d a b) c (wdWidth w) d a b .f16 3 true true true (ffmaElem .f16)
    ∧ ArithResult (.fminF16x2 c w d a b) c (wdWidth w) d a b .f16 3 true false false (fminmaxElem false .f16)
    ∧ ArithResult (.fmaxF16x2 c w d a b) c (wdWidth w) d a b .f16 3 true false false (fminmaxElem true .f16)
    ∧ ArithResult (.fabsF16x2 c w d a) c (wdWidth w) d a 0#6 .f16 3 false false false (fsignElem false .f16)
    ∧ ArithResult (.fnegF16x2 c w d a) c (wdWidth w) d a 0#6 .f16 3 false false false (fsignElem true .f16)
    ∧ ArithResult (.faddBf16x2 c w d a b) c (wdWidth w) d a b .bf16 3 true false true (faddElem .bf16)
    ∧ ArithResult (.fsubBf16x2 c w d a b) c (wdWidth w) d a b .bf16 3 true false true (fsubElem .bf16)
    ∧ ArithResult (.fmulBf16x2 c w d a b) c (wdWidth w) d a b .bf16 3 true false true (fmulElem .bf16)
    ∧ ArithResult (.ffmaBf16x2 c w d a b) c (wdWidth w) d a b .bf16 3 true true true (ffmaElem .bf16)
    ∧ ArithResult (.fminBf16x2 c w d a b) c (wdWidth w) d a b .bf16 3 true false false (fminmaxElem false .bf16)
    ∧ ArithResult (.fmaxBf16x2 c w d a b) c (wdWidth w) d a b .bf16 3 true false false (fminmaxElem true .bf16)
    ∧ ArithResult (.fabsBf16x2 c w d a) c (wdWidth w) d a 0#6 .bf16 3 false false false (fsignElem false .bf16)
    ∧ ArithResult (.fnegBf16x2 c w d a) c (wdWidth w) d a 0#6 .bf16 3 false false false (fsignElem true .bf16)

/-- 19 R361; 07 R145: the transcendental group on each of the `w` registers of A, in every active lane. The value is the
function of the input pattern and of the flush setting that the model gives (the free values of log 4 within Table 7.5). -/
def Obligations.TranscendentalResults : Prop :=
  ∀ (c w : BitVec 2) (d a : BitVec 6),
    TransResult (.frcp c w d a) c w d a TFun.rcp.eval
    ∧ TransResult (.frsq c w d a) c w d a TFun.rsq.eval
    ∧ TransResult (.fsqrt c w d a) c w d a fsqrtElem
    ∧ TransResult (.fexp2 c w d a) c w d a TFun.exp2.eval
    ∧ TransResult (.flog2 c w d a) c w d a TFun.log2.eval
    ∧ TransResult (.fsin c w d a) c w d a TFun.sin.eval
    ∧ TransResult (.fcos c w d a) c w d a TFun.cos.eval
    ∧ TransResult (.ftanh c w d a) c w d a TFun.tanh.eval
    ∧ TransResult (.fsigm c w d a) c w d a TFun.sigm.eval

/-- 17 Table 17.4; 19 R359, R360: the vector compares. Bit l of S is the condition in active lane l and 0 elsewhere; FCMP's
flags accrue when none is enabled; nothing else changes but the word passed. -/
def Obligations.CompareResults : Prop :=
  ∀ (c : BitVec 2) (k : BitVec 4) (d a b : BitVec 6),
    (k.toNat < 12 → MaskResult (.icmp c 0#2 k d a b) (compareMeta c 1 d a b none) [vop a 1, vop b 1] d
      (fun q l => (intConds (wordIn q (vop a 1) l 0) (wordIn q (vop b 1) l 0)).getD k.toNat false))
    ∧ (k.toNat < 12 → MaskResult (.icmp c 1#2 k d a b) (compareMeta c 2 d a b none) [vop a 2, vop b 2] d
      (fun q l => (intConds (pairIn q (vop a 2) l) (pairIn q (vop b 2) l)).getD k.toNat false))
    ∧ CompareResult (.fcmpF32 c k d a b) (compareMeta c 1 d a b (some { cmp := true, sr := false })) [vop a 1, vop b 1] d
      (fun e q l => floatCompare .f32 e.ftz k.toNat (readOp q (vop a 1) l) (readOp q (vop b 1) l))
    ∧ CompareResult (.fcmpF64 c k d a b) (compareMeta c 2 d a b (some { cmp := true, sr := false })) [vop a 2, vop b 2] d
      (fun e q l => floatCompare .f64 e.ftz k.toNat (readOp q (vop a 2) l) (readOp q (vop b 2) l))

/-- 07 R146 to R148: FCVT converts the source pattern in every active lane, under its own rounding mode, saturation and
stochastic bit and the lead's flush setting; stochastic rounding advances the seeds once. -/
def Obligations.ConversionResults : Prop :=
  ∀ (c n m : BitVec 2) (g e : BitVec 1) (d a : BitVec 6) (x y : BitVec 3),
    FloatResultBy (fun z s => { mode := m.toNat, ftz := bit (z.fpm s) 2, sat := g == 1#1, sr := e == 1#1 })
      (.fcvt c n m g e d a x y) (laneMeta c 3 [vop a (cvtWidth x)] (vop d (cvtWidth y))) (vop d (cvtWidth y))
      [vop a (cvtWidth x)] 1
      fun fs r w l => convert (cvtType n.toNat x.toNat) (cvtType n.toNat y.toNat) (fs.env (r 0)) (readOp w (vop a (cvtWidth x)) l)

/-- 07 R133, R138, R139, R142: a value is rounded to multiples of 2^(e + k) (its bits beyond k are kept, as many as there are):
to the nearest with ties to even, toward zero, down or up by the sign, or up when the random bits are below the discarded part.
Rounding the value of a finite pattern into its own format gives the pattern back and raises no flag, in every mode, unless the
flush setting takes it away. -/
def Obligations.RoundingResults : Prop :=
  (∀ (neg : Bool) (m k : Nat) (e : Int), 0 < k →
    let r (mode : RMode) : Nat := (roundAt mode neg m e (e + k) false).1
    (∀ mode, (roundAt mode neg m e (e + k) false).2 = decide (m % 2 ^ k ≠ 0))
    ∧ (2 * m ≤ (2 * r .rne + 1) * 2 ^ k ∧ 2 * r .rne * 2 ^ k ≤ 2 * m + 2 ^ k
        ∧ ((2 * m = (2 * r .rne + 1) * 2 ^ k ∨ 2 * r .rne * 2 ^ k = 2 * m + 2 ^ k) → r .rne % 2 = 0))
    ∧ (r .rz * 2 ^ k ≤ m ∧ m < (r .rz + 1) * 2 ^ k)
    ∧ (if neg then m ≤ r .rd * 2 ^ k ∧ r .rd * 2 ^ k < m + 2 ^ k else r .rd * 2 ^ k ≤ m ∧ m < (r .rd + 1) * 2 ^ k)
    ∧ (if neg then r .ru * 2 ^ k ≤ m ∧ m < (r .ru + 1) * 2 ^ k else m ≤ r .ru * 2 ^ k ∧ r .ru * 2 ^ k < m + 2 ^ k)
    ∧ ∀ b, r (.sr b) = m / 2 ^ k + (if b < m % 2 ^ k * 2 ^ 16 / 2 ^ k then 1 else 0))
  ∧ ∀ f ∈ [Fmt.f64, .f32, .f16, .bf16, .e5m2, .e4m3, .e3m2, .e2m3, .e2m1], ∀ (env : FEnv) (x : Nat) (neg : Bool) (m : Nat)
    (e : Int), x < 2 ^ f.width → f.decode x = .fin neg m e → ¬ (env.ftz ∧ f.flush ∧ m < 2 ^ f.man) →
    f.roundFin env neg m e false = (x, {})

/-- 07 R134, R144: the results that are special, for the four IEEE formats: NaNs in, the invalid operations, division by
zero, and overflow by mode and saturation. -/
def Obligations.SpecialFloatResults : Prop :=
  ∀ f ∈ [Fmt.f64, .f32, .f16, .bf16], ∀ (env : FEnv) (a b c : Nat) (p q : Bool),
    (f.isNan a ∨ f.isNan b → ∀ op ∈ [faddElem f env a b c, fsubElem f env a b c, fmulElem f env a b c, fdivElem f env a b c],
      op.1 = f.cnan ∧ op.2.nv = (f.isSnan a || f.isSnan b))
    ∧ faddElem f env (f.infCode p) (f.infCode (!p)) c = (f.cnan, Flags.invalid)
    ∧ fsubElem f env (f.infCode p) (f.infCode p) c = (f.cnan, Flags.invalid)
    ∧ fmulElem f env (f.signBit p) (f.infCode q) c = (f.cnan, Flags.invalid)
    ∧ fdivElem f env (f.infCode p) (f.infCode q) c = (f.cnan, Flags.invalid)
    ∧ fdivElem f env (f.signBit p) (f.signBit q) c = (f.cnan, Flags.invalid)
    ∧ ((ffmaElem f env (f.signBit p) (f.infCode q) c).1 = f.cnan ∧ (ffmaElem f env (f.signBit p) (f.infCode q) c).2.nv)
    ∧ (∀ m e, f.decode a = .fin p m e → m ≠ 0 → env.ftz = false →
        fdivElem f env a (f.signBit q) c = (f.infCode (p != q), { dz := true }))
    ∧ (env.sat = true → f.overflow env p = (f.maxFinite p, { sat := true }))
    ∧ (env.sat = false → f.overflow env p = (match env.mode with
        | .rz => f.maxFinite p
        | .rd => if p then f.infCode p else f.maxFinite p
        | .ru => if p then f.maxFinite p else f.infCode p
        | _ => f.infCode p, { ovf := true, nx := true }))

/-- 07 R143; 06 R126: an enabled flag is raised: the results of every active lane are written and the flags accrued, and then
the trap is taken, with the word's own address and resumption at the next word; its lanes are those that raised an enabled
flag, its cause the lowest that one of the first such member's lanes raised. -/
def Obligations.ArithmeticTrapsAfterResults : Prop :=
  ∀ (c w : BitVec 2) (d a b : BitVec 6),
    ArithTrap (.faddF32 c w d a b) c (wdWidth w) d a b .f32 3 (faddElem .f32)
    ∧ ArithTrap (.fmulF32 c w d a b) c (wdWidth w) d a b .f32 3 (fmulElem .f32)
    ∧ ArithTrap (.fdivF64 c d a b) c 2 d a b .f64 6 (fdivElem .f64)
    ∧ ArithTrap (.fmulBf16x2 c w d a b) c (wdWidth w) d a b .bf16 3 (fmulElem .bf16)

/-- 22 R429 to R431, R433: packing, unpacking and vector moves, in every active lane; nothing else changes but the word
passed. -/
def Obligations.PackAndMoveResults : Prop :=
  ∀ (c w : BitVec 2) (d a b : BitVec 6),
    LaneResult (.vpackB c d a b) (laneMeta c 2 [vop a 4] (vop d 1)) (vop d 1) [vop a 4] (fun _ q l _ =>
      let f (k : Nat) : BitVec 8 := packedField 8 b (wordIn q (vop a 4) l k)
      f 3 ++ (f 2 ++ (f 1 ++ f 0)))
    ∧ LaneResult (.vpackH c d a b) (laneMeta c 2 [vop a 2] (vop d 1)) (vop d 1) [vop a 2] (fun _ q l _ =>
      let f (k : Nat) : BitVec 16 := packedField 16 b (wordIn q (vop a 2) l k)
      f 1 ++ f 0)
    ∧ LaneResult (.vunpkB c d a b) (laneMeta c 2 [vop a 1] (vop d 4)) (vop d 4) [vop a 1]
        (fun _ q l k => unpackedField 8 b (wordIn q (vop a 1) l 0) k)
    ∧ LaneResult (.vunpkH c d a b) (laneMeta c 2 [vop a 1] (vop d 2)) (vop d 2) [vop a 1]
        (fun _ q l k => unpackedField 16 b (wordIn q (vop a 1) l 0) k)
    ∧ LaneResult (.vmov c w d a) (laneMeta c 2 [vop a (wdWidth w)] (vop d (wdWidth w))) (vop d (wdWidth w))
        [vop a (wdWidth w)] (fun _ q l k => wordIn q (vop a (wdWidth w)) l k)
    ∧ LanePut (.vmovs c d a) { laneMeta c 2 [] (vop d 1) with srcs := [.s a.toNat] } noUniform [] (vop d 1)
        (fun x s _ _ _ _ => (x.rs s a.toNat).setWidth 32)

/-- 22 R429, R430: VGET writes the value of A at the position to S of every member, or 0 where there is none; VSETL writes
one lane of D when it is active. Nothing else changes but the word passed. -/
def Obligations.LaneAccessResults : Prop :=
  ∀ (c : BitVec 2) (d a b : BitVec 6),
    ScalarPut (.vget c d a b)
      { sc := c.toNat, dist := 2, vin := [vop a 1], srcs := [.s b.toNat], dsts := [.s d.toNat] } noUniform
      (fun x s => (laneValue x s (vop a 1) (givenPosition x s b)).2 = []) d
      (fun x s _ _ => match (x.places s)[givenPosition x s b / 64]? with
        | none => 0#64
        | some k => if x.members.contains k then (match x.warp? s k with
            | some q => (wordIn q (vop a 1) (givenPosition x s b % 64) 0).setWidth 64
            | none => 0#64) else 0#64)
    ∧ Performs (.vsetl c d a b)
        { sc := c.toNat, dist := 2, srcs := [.s a.toNat, .s b.toNat], vout := [vop d 1] } noExtra noUniform
        (fun x s => ∀ q l, x.activeAt s (givenPosition x s b) = some (q, l) →
          laneFault q l [vop d 1] = none ∨ inMask q.helper l = true)
        fun x s t => onMembers x s t fun k q q' =>
          { unissued q q' with vregs := q.vregs } = q ∧ q'.vregs.length = q.vregs.length
          ∧ ∀ n l, n < q.vregs.length → l < 64 → q'.v n l =
              if (x.places s)[givenPosition x s b / 64]? = some k ∧ l = givenPosition x s b % 64
                  ∧ inMask (x.em q) l = true ∧ (resolve q (vop d 1) l).toOption = some n
              then (x.rs s a.toNat).setWidth 32 else q.v n l

/-- 05 R99, R100; 22 R437, R438, Table 22.7: the index-register instructions; nothing else changes but the word passed. -/
def Obligations.IndexRegisterResults : Prop :=
  ∀ (c : BitVec 2) (d a : BitVec 6),
    let v (q : Warp) (l : Nat) : Word := wordIn q (vop a 1) l 0
    let set (q : Warp) (l : Nat) : Word := v q l &&& 0x00FFFFFF#32
    let fits (x : Ix) (s : State) (r : Word) : Bool := (x.block? s).any fun k =>
      decide (r.toNat % 256 + r.toNat / 256 % 256 ≤ k.kernel.d + k.kernel.i)
    let index (r : Word) (i : BitVec 8) : Word := (r &&& 0x0000FFFF#32) ||| (i.setWidth 32 <<< 16)
    IndexResult (.xset c d a) { sc := c.toNat, dist := 2, vin := [vop a 1], dsts := [.x d.toNat] } [vop a 1] d
      (fun x s => ∀ p ∈ x.warps s, ∀ l ∈ p.2.lanesOn (x.em p.2), fits x s (set p.2 l) = true)
      (fun x s q l => fits x s (set q l)) set
    ∧ IndexResult (.xidx c d a) { sc := c.toNat, dist := 2, vin := [vop a 1], dsts := [.x d.toNat] } [vop a 1] d always
      (fun _ _ _ _ => true) (fun q l => index (q.x d.toNat l) ((v q l).setWidth 8))
    ∧ IndexResult (.xadd c d a)
      { sc := c.toNat, dist := 2, vin := [vop a 1], srcs := [.x d.toNat], dsts := [.x d.toNat] } [vop a 1] d always
      (fun _ _ _ _ => true)
      (fun q l => index (q.x d.toNat l) ((q.x d.toNat l).extractLsb' 16 8 + (v q l).setWidth 8))
    ∧ LaneResult (.xget c d a) { laneMeta c 2 [] (vop d 1) with srcs := [.x a.toNat] } (vop d 1) []
      (fun _ q l _ => q.x a.toNat l &&& 0x00FFFFFF#32)

/-- 05 R106, R111, R112, Table 5.4; 07 R139 to R141; 20 R377 to R379, Table 20.2: MFS delivers the special that A names
(`scalarSpecial` is the scalar part of Table 5.4): in the vector form to each active lane, of its own warp; in the scalar form
the lead's, to every member. MTS stores the lead's scalar in the special of every member; nothing else changes but the word
passed. -/
def Obligations.SpecialRegisterResults : Prop :=
  (∀ (c : BitVec 2) (d a : BitVec 6),
    LanePut (.mfsVector c d a) (laneMeta c 2 [] (vop d 1))
      (fun _ _ => if a.toNat = 23 ∨ 38 ≤ a.toNat then some 0x048 else none) [] (vop d 1)
      (fun x s k q l _ => if a.toNat < 32 then (match x.block? s with
          | some b => (scalarSpecial x s b k q a.toNat).setWidth 32
          | none => 0#32)
        else match a.toNat with
          | 32 => BitVec.ofNat 32 l
          | 33 => q.item.lane l
          | 34 => q.itemhi.lane l
          | 35 => BitVec.ofNat 32 (l % 4)
          | 36 => q.itemage.lane l
          | _ => q.rseed.lane l)
    ∧ ScalarPut (.mfsScalar c d a) (scalarMeta c 2 [] d false)
      (fun _ _ => if a.toNat = 23 ∨ 32 ≤ a.toNat then some 0x048 else none)
      (fun x s => (x.warp? s x.lead).isSome = true) d
      (fun x s _ _ => match x.block? s, x.warp? s x.lead with
        | some b, some q => scalarSpecial x s b x.lead q a.toNat
        | _, _ => 0#64))
  ∧ ∀ (c : BitVec 2) (d a : BitVec 6),
    let m : Meta := { sc := c.toNat, srcs := [.s a.toNat] }
    let deny (x : Ix) (s : State) : Option Nat := if mayWriteSpecial d.toNat x s then none else some 0x048
    (d.toNat = 0 → Performs (.mts c d a) m noExtra deny always fun x s t =>
      beyondMembers x s t ∧ ∀ k ∈ x.members, ∀ q, s.warp? x.core x.slot k = some q →
        ∃ q', t.warp? x.core x.slot k = some q' ∧ unissued q q' = q
          ∧ passedWord x q { q' with splits := modAt q'.splits x.split fun p => { p with em := x.em q } }
          ∧ ∀ p, q.splits[x.split]? = some p → x.em q' = x.rs s a.toNat &&& (q.live ||| q.helper) &&& p.lanes)
    ∧ (d.toNat ≠ 0 → Performs (.mts c d a) m noExtra deny always fun x s t =>
      onMembers x s t fun k q q' => match d.toNat with
        | 16 => { unissued q q' with fpm := q.fpm } = q ∧ q'.fpm = (x.rs s a.toNat).setWidth 8
        | 17 => { unissued q q' with fpflags := q.fpflags } = q
            ∧ q'.fpflags = ((x.rs s a.toNat).setWidth 7).setWidth 8
        | 20 => { unissued q q' with stamp := q.stamp } = q ∧ q'.stamp = x.rs s a.toNat
        | 37 => { unissued q q' with rseed := q.rseed } = q ∧ ∀ l, l < 64 → q'.rseed.lane l =
            if inMask (x.em q) l then
              let r : Word := (x.rs s a.toNat).setWidth 32 + BitVec.ofNat 32 (x.position s k l)
              if r = 0#32 then 1#32 else r
            else q.rseed.lane l
        | _ => { unissued q q' with tctx := q.tctx } = q ∧ q'.tctx = q.tctx.set (d.toNat - 24) (x.rs s a.toNat))

/-- 05 R108, R109; 22 R418 to R421: TRD delivers the slice to the active lanes; TWR, TACC and TZERO write the elements of the
active lanes that are no helper lanes: the highest-numbered member's value, the members' values added in ascending order, or
+0. (TACC: no trap enabled.) Every other element and everything else but the word passed is unchanged. -/
def Obligations.TileResults : Prop :=
  ∀ (c : BitVec 2) (rc : BitVec 1) (t : BitVec 3) (v r : BitVec 6) (i : BitVec 4),
    LanePut (.trd c rc t v r i) { sc := c.toNat, dist := 3, srcs := [.s r.toNat], vout := [vop v 2] } (sliceFault t r i) []
      (vop v 2) (fun x s _ _ l k => (x.slice s rc t r i).get s (64 * k + l))
    ∧ SliceResult (.twr c rc t v r i) { sc := c.toNat, dist := 3, vin := [vop v 2], srcs := [.s r.toNat] } t r i rc
      [vop v 2] always
      (fun x s j => match (contributors x s (j % 64)).getLast? with
        | some p => wordIn p.2 (vop v 2) (j % 64) (j / 64)
        | none => (x.slice s rc t r i).get s j) (fun _ q q' => unissued q q' = q)
    ∧ SliceResult (.tacc c rc t v r i) { sc := c.toNat, dist := 3, vin := [vop v 2], srcs := [.s r.toNat] } t r i rc
      [vop v 2] (fun x s => enables x s = 0#8)
      (fun x s j => (contributors x s (j % 64)).foldl
        (fun e p => (accElem (x.fpm s) e (wordIn p.2 (vop v 2) (j % 64) (j / 64))).1) ((x.slice s rc t r i).get s j))
      (fun _ q q' => { unissued q q' with fpflags := q.fpflags } = q ∧ q'.fpflags &&& q.fpflags = q.fpflags)
    ∧ SliceResult (.tzero c rc t r i) { sc := c.toNat, dist := 3, srcs := [.s r.toNat] } t r i rc [] always
      (fun x s j => if (contributors x s (j % 64)).isEmpty then (x.slice s rc t r i).get s j else 0#32)
      (fun _ q q' => unissued q q' = q)

/-- 05 R110; 18 R337; 20 R392; 21 R408, R409: the permutations deliver to each active lane the words of A at a source
position, 0 where no active lane stands; sources are captured before any write; nothing else changes but the word passed. -/
def Obligations.PermutationResults : Prop :=
  ∀ (c w : BitVec 2) (d a b : BitVec 6),
    let n := wdWidth w
    let m (more : List VOp) (srcs : List Reg) : Meta :=
      { sc := c.toNat, vin := vop a n :: more, srcs := srcs, vout := [vop d n] }
    LanePut (.shfl c w d a b) (m [vop b 1] []) noUniform [vop a n, vop b 1] (vop d n)
      (fun x s _ q l k => wordAtPosition x s (vop a n) ((wordIn q (vop b 1) l 0).toNat % if x.sc ≤ 1 then 64 else 2048) k)
    ∧ LanePut (.shflx c w d a b) (m [] [.s b.toNat]) noUniform [vop a n] (vop d n)
      (fun x s j _ l k => wordAtPosition x s (vop a n) (x.position s j l ^^^ givenPosition x s b) k)
    ∧ LanePut (.bcast c w d a b) (m [] [.s b.toNat]) noUniform [vop a n] (vop d n)
      (fun x s _ _ _ k => wordAtPosition x s (vop a n) (givenPosition x s b) k)
    ∧ LanePut (.qxch c w d a b) (m [] []) noUniform [vop a n] (vop d n)
      (fun x s j _ l k =>
        let p := x.position s j l
        wordAtPosition x s (vop a n)
          (if b = 3#6 then p / 4 * 4 else p / 4 * 4 + (p % 4 ^^^ (b.toNat + 1))) k)

/-- 17 Table 17.5; 20 R394; 21 R403; 22 R432: REDUCE gives every active lane the tree over all positions, SCAN the prefix up to
its own, VOTE a scalar from the active lanes that are no helper lanes; nothing else changes but the word passed. -/
def Obligations.CollectiveResults : Prop :=
  ∀ (c w : BitVec 2) (d a b : BitVec 6),
    let n := wdWidth w
    let m : Meta := { sc := c.toNat, vin := [vop a n], vout := [vop d n] }
    let adds (x : Ix) (s : State) (p : Nat) : Nat := contribution x s (vop a n) b.toNat p
    LanePut (.reduce c w d a b) m noUniform [vop a n] (vop d n)
      (fun x s _ _ _ k =>
        let z := memberLevels (x.places s).length
        word32 (combTree b.toNat ((List.range (64 * 2 ^ z)).map (adds x s)) (6 + z)) k)
    ∧ LanePut (.scan c w d a b) m noUniform [vop a n] (vop d n)
      (fun x s j _ l k =>
        let takes (p : Nat) : Bool := (x.activeAt s p).any fun q => !inMask q.1.helper q.2
        if x.position s j l < 64 * (x.places s).length then
          word32 (((List.range (x.position s j l + 1)).filter takes).foldl (fun y p => reduceComb b.toNat y (adds x s p))
            (reduceIdentity b.toNat)) k
        else 0#32)
    ∧ ScalarPut (.vote c d a b) { sc := c.toNat, vin := [vop a 1], dsts := [.s d.toNat] } noUniform
      (operandsFine [vop a 1]) d
      (fun x s _ q =>
        let votes := (x.warps s).flatMap fun p => (p.2.lanesOn (x.em p.2)).map fun l => readOp p.2 (vop a 1) l
        match b.toNat with
        | 0 => lanesMask ((q.lanesOn (x.em q)).filter fun l => readOp q (vop a 1) l != 0)
        | 1 => if votes.all (· != 0) then 1#64 else 0#64
        | 2 => if votes.any (· != 0) then 1#64 else 0#64
        | _ => if votes.all (· == votes.headD 0) then 1#64 else 0#64)

/-- 18 R339, R340; 20 R396; 17 R314: the branches, CALL and RET. The issuing split of every member goes to the target, or past
the word; CALL writes the address of the next word in every member. Nothing else changes, unless a branch record is written. -/
def Obligations.BranchResults : Prop :=
  ∀ (c : BitVec 2) (r : BitVec 6) (o : BitVec 14),
    let target (x : Ix) : BitVec 64 := (x.pc + BitVec.ofInt 64 (4 * immExt x.hints o.toNat 14)) &&& 0x00FFFFFFFFFFFFFF#64
    Performs (.bra c o) (branchMeta c []) noExtra noUniform always (fun x a t =>
      goesTo x a t (target x) fun w w' => unissued w w' = w)
    ∧ Performs (.brz c r o) (branchMeta c [r]) noExtra noUniform always (fun x a t =>
      if x.rs a r.toNat = 0#64 then goesTo x a t (target x) fun w w' => unissued w w' = w else fallsThrough x a t)
    ∧ Performs (.brnz c r o) (branchMeta c [r]) noExtra noUniform always (fun x a t =>
      if x.rs a r.toNat = 0#64 then fallsThrough x a t else goesTo x a t (target x) fun w w' => unissued w w' = w)
    ∧ Performs (.call c r o) { branchMeta c [] with dsts := [.s r.toNat] } noExtra noUniform always (fun x a t =>
      goesTo x a t (target x) fun w w' =>
        { unissued w w' with sregs := w.sregs } = w ∧ scalarWritten r.toNat (x.pc + 4#64) w w')
    ∧ Performs (.ret c r) { sc := c.toNat, dist := 2, srcs := [.s r.toNat] } noExtra noUniform always (fun x a t =>
      goesTo x a t (x.rs a r.toNat &&& 0x00FFFFFFFFFFFFFC#64) fun w w' => unissued w w' = w)

/-- 06 R119; 18 R341; 15 R289: BRX. Without taken lanes the split falls through, with all lanes taken it branches; otherwise
the taken lanes go to the lowest free entry, at the target, one level deeper, and the rest fall through one level deeper. -/
def Obligations.DivergingBranchResults : Prop :=
  ∀ (r : BitVec 6) (o : BitVec 14),
    Performs (.brx r o) { branchMeta 1#2 [r] with handler := false } noExtra (fun x s => brxFull x s r) always fun x a t =>
      let tgt := (x.pc + BitVec.ofInt 64 (4 * immExt x.hints o.toNat 14)) &&& 0x00FFFFFFFFFFFFFF#64
      ∀ w p, x.warp? a x.lead = some w → w.splits[x.split]? = some p →
        let tk := x.rs a r.toNat &&& p.em
        if tk = 0#64 then fallsThrough x a t
        else if tk = p.em then goesTo x a t tgt fun w w' => unissued w w' = w
        else (untraced x a → beyondMembers x a t)
          ∧ ∃ w' n p' q, x.warp? t x.lead = some w' ∧ unissued w w' = w ∧ n ≠ x.split
            ∧ (∃ e, w.splits[n]? = some e ∧ e.valid = false)
            ∧ (∀ k, k < n → ∀ e, w.splits[k]? = some e → e.valid = true)
            ∧ (∀ k, k ≠ n → k ≠ x.split → w'.splits[k]? = w.splits[k]?)
            ∧ w'.splits[x.split]? = some p' ∧ p'.pc = x.pc + 4#64 ∧ p'.em = p.em &&& ~~~tk ∧ p'.lanes = p.lanes &&& ~~~tk
            ∧ p'.depth = p.depth + 1 ∧ p'.sig = p.sig ∧ p'.valid = p.valid
            ∧ w'.splits[n]? = some q ∧ q.pc = tgt ∧ q.em = tk ∧ q.lanes = tk ∧ q.depth = p.depth + 1
            ∧ q.sig = p.sig.rotateLeft 1 ^^^ tgt ∧ q.valid = true ∧ q.landed = true ∧ q.jwait = false

/-- 06 R121: JOIN has no effect in a warp of one valid split. Otherwise the split waits before the word with its group's timer,
and every group that is then complete merges (`joinArrive`, `joinSettle`). Of two splits of one depth whose second arrives at the
JOIN where the first waits, its timer not run out, the merged split holds the lanes of both, one level higher, past the word. And
the JOIN that completes its group completes: where every other valid split that is as deep as the issuing one waits at the same
JOIN, its timer not run out, and no split is deeper, the group merges, past the word (`groupMerged`), and nothing else changes;
the issue itself is noted. -/
def Obligations.JoinResults : Prop :=
  ∀ (r : BitVec 6),
    let m : Meta := { sc := 1, dist := 2, srcs := [.s r.toNat], handler := false }
    Performs (.join r) m noExtra noUniform
      (fun x a => ∃ w, x.warp? a x.lead = some w ∧ w.valid.length ≤ 1) (fun x a t => fallsThrough x a t)
    ∧ Waits (.join r) m noExtra noUniform (fun x a => ∃ w, x.warp? a x.lead = some w ∧ 1 < w.valid.length) .joinWait
      (fun x s => (issuedInPlace x s).modWarp x.core x.slot x.lead fun w =>
        joinSettle (joinArrive w x.split ((w.s r.toNat).setWidth 32) s.cycle.toNat) s.cycle.toNat)
    ∧ (∀ (w : Warp) (p q : Split) (limit : BitVec 32) (cycle : Nat),
      w.splits = [p, q] → p.valid = true → q.valid = true → p.jwait = true → q.jwait = false → p.pc = q.pc →
      p.depth = q.depth → 0 < p.depth → p.jdue < 2 →
      ∃ u, (joinSettle (joinArrive w 1 limit cycle) cycle).splits = [u, Split.empty] ∧ u.valid = true ∧ u.jwait = false
        ∧ u.lanes = p.lanes ||| q.lanes ∧ u.em = p.em ||| q.em ∧ u.pc = p.pc + 4#64 ∧ u.depth = p.depth - 1
        ∧ u.sig = p.sig ^^^ q.sig)
    ∧ ∀ (s : State) (x : Ix) (a : State) (w : Warp) (p : Split),
      issuesAs (.join r) { sc := 1, dist := 2, srcs := [.s r.toNat], handler := false } noExtra noUniform s = some (x, a) →
      x.warp? a x.lead = some w → w.splits[x.split]? = some p → 1 < w.valid.length →
      (∀ q ∈ w.splits, q.valid = true → q.jwait = true → q.jdue < 2) →
      (∀ j q, j ≠ x.split → w.splits[j]? = some q → q.valid = true → p.depth ≤ q.depth → q.inGroup x.pc p.depth = true) →
      ∃ t w' w1, exec (.join r) s = .next t ∧ (hintOf x.hints 5 = none → beyondMembers x a t)
        ∧ t.warp? x.core x.slot x.lead = some w' ∧ unissued w w1 = w
        ∧ w1.splits = setAt w.splits x.split { p with jwait := true } ∧ groupMerged w1 w' x.pc p.depth

/-- 20 R381; 22 R441; 05 R102, R103; 02 R37: NOP changes nothing but the word passed; YIELD makes its warps the first swap
candidates; REGION sets the groups to stage, and the slice keeps those of them that it holds; GROW adds the lead's count to the
end of the grid's range. An instruction (IADD at lane or warp scope) whose direct sources the slice does not hold waits 8 cycles for them,
one with an indexed operand 4 (Table 5.3), and shows operand buffer miss meanwhile. -/
def Obligations.PlainControlResults : Prop :=
  ∀ (c : BitVec 2) (r : BitVec 6) (g : BitVec 14),
    Performs (.nop c) { sc := c.toNat, dist := 2 } noExtra noUniform always (fun x a t => fallsThrough x a t)
    ∧ Performs (.yield c) { sc := c.toNat, dist := 2 } noExtra noUniform always (fun x a t =>
      onMembers x a t fun _ w w' => unissued w w' = w ∧ w'.swapFirst = true ∧ w'.yielded = true)
    ∧ Performs (.region g) { sc := 1, dist := 2, handler := false } noExtra noUniform always (fun x a t =>
      onMembers x a t fun _ w w' => { unissued w w' with region := w.region, staged := w.staged } = w ∧ w'.region = g
        ∧ w'.staged = w.staged &&& g)
    ∧ Performs (.grow c r) { sc := c.toNat, dist := 2, srcs := [.s r.toNat], handler := false } noExtra
      (fun x s => growFault x s r) always (fun x a t =>
        fallsThrough x a { t with grids := a.grids }
        ∧ ∀ b, x.block? a = some b → ∀ k, t.grids.get? k = (a.grids.get? k).map fun q =>
          if k = b.grid then { q with stop := q.stop + (x.rs a r.toNat).toNat } else q)
    ∧ ∀ (v : BitVec 2) (d a e : BitVec 6) (s : State) (b : Block) (w : Warp) (q : Split),
      let n := wdWidth v
      let m := laneMeta c 2 [vop a n, vop e n] (vop d n)
      let late := (List.range n).any fun i => (decide (a.toNat < 56) && !bit w.staged ((a.toNat + i) / 4))
        || (decide (e.toNat < 56) && !bit w.staged ((e.toNat + i) / 4))
      let indexed := decide (56 ≤ a.toNat) || decide (56 ≤ e.toNat) || decide (56 ≤ d.toNat)
      portReady s b w q → c.toNat ≤ 1 → q.redo = none → firstCheck (.iadd32 c v d a e) m true s b s.port.warp w q = none →
      boundsCheck b m = none → contractCheck w q m = none → accessHeld w q m = false → (late || indexed) = true →
        (q.operands = none → ∃ t, exec (.iadd32 c v d a e) s = .next t ∧ { t with blocks := s.blocks } = s
          ∧ t.split? s.port.core s.port.slot s.port.warp s.port.split
            = some { q with stall := .operandMiss, operands := some (q.pc, s.cycle.toNat + if late then 8 else 4) })
        ∧ ∀ z, q.operands = some (q.pc, z) → s.cycle.toNat < z → ∃ t, exec (.iadd32 c v d a e) s = .next t
          ∧ { t with blocks := s.blocks } = s
          ∧ t.split? s.port.core s.port.slot s.port.warp s.port.split = some { q with stall := .operandMiss }

/-- 21 R405, R406; 02 R22: SETDEF redefines the sets of its block, and what waits for members that have left goes on. Set n holds
the named warps of the block that have not retired; they leave every other set; registers, splits' positions and items stay. -/
def Obligations.SetDefinitionResults : Prop :=
  ∀ (r : BitVec 6) (n : BitVec 3),
    Makes (.setdef r n) { sc := 3, dist := 2, srcs := [.s r.toNat], handler := false } noExtra noUniform always
      (fun x s => settleAll (s.modBlock x.core x.slot fun b => defineSet b n.toNat (x.rs s r.toNat)) x.core x.slot)
    ∧ ∀ (b : Block) (k : Nat) (v : DWord), k < b.sets.length →
      (defineSet b n.toNat v).sets.getD k [] =
        (let named (w : Nat) : Bool := v.getLsbD w && (b.warps[w]?).any fun q => !q.retired
         if k = n.toNat then (List.range b.warps.length).filter named
         else (b.sets.getD k []).filter fun w => !(decide (w < b.warps.length) && named w))

/-- 18 R351 to R353; 02 R27, R29, R44: EXIT retires its members once nothing of them is pending; EXITL ends the items of the named
lanes that are live and active (`retireMembers`, `exitLanes`). Both wait for accesses that the freeing of a slot follows. -/
def Obligations.ExitResults : Prop :=
  ∀ (c : BitVec 2) (r : BitVec 6),
    let held (x : Ix) (s : State) : Bool := itemsWait s x.core x.slot ((x.warps s).map fun p => (p.1, p.2.live))
    let heldLanes (x : Ix) (s : State) (w : Warp) : Bool :=
      itemsWait s x.core x.slot [(x.lead, w.s r.toNat &&& w.live &&& x.em w)]
    Makes (.exit c) { sc := c.toNat, dist := 2 } noExtra noUniform (fun x s => x.pending s = false ∧ held x s = false)
      (fun x s => retireMembers x x.members s)
    ∧ Waits (.exit c) { sc := c.toNat, dist := 2 } noExtra noUniform (fun x s => x.pending s = false ∧ held x s = true) .memory
      exitWaits
    ∧ Waits (.exit c) { sc := c.toNat, dist := 2 } noExtra noUniform (fun x s => x.pending s = true) .lookahead exitWaits
    ∧ Makes (.exitl r) { sc := 0, dist := 2, srcs := [.s r.toNat], handler := false } noExtra noUniform
      (fun x s => ∃ w, x.warp? s x.lead = some w ∧ heldLanes x s w = false)
      (fun x s => match x.warp? s x.lead with
        | some w => exitLanes x (w.s r.toNat &&& w.live &&& x.em w) s
        | none => s)
    ∧ Waits (.exitl r) { sc := 0, dist := 2, srcs := [.s r.toNat], handler := false } noExtra noUniform
      (fun x s => ∃ w, x.warp? s x.lead = some w ∧ heldLanes x s w = true) .memory (fun _ s => s)
    ∧ ∀ (w : Warp) (gone : Mask), (w.vacate gone).live = w.live &&& ~~~gone ∧ (w.vacate gone).vregs = w.vregs
      ∧ (w.vacate gone).sregs = w.sregs
      ∧ ∀ l, l < 64 → (w.vacate gone).helper.getLsbD l = (w.helper.getLsbD l
          && !(w.live &&& ~~~gone).getLsbD l && (List.range 4).any fun j => (w.live &&& ~~~gone).getLsbD (l / 4 * 4 + j))

/-- 02 R24, R30 to R34, R44; 03 R50: a REFILL at the refill point, of the kernel's form, whose warp or block has reconverged and
is not to wait, withholds the slots whose headers fail their check, merges the splits, draws items, writes the mask of those
received to S, and retires what is left without a live lane. A warp whose other splits have not arrived waits. And a REFILL that
draws items of a grid's own range completes: no instance of the block is open, the core assigns items, and the range has items
left. REFILL gives the warp's vacant lanes, in ascending order, the next items as far as they go; REFILL.warp and REFILL.block,
of members without a live lane, give one item to every lane. S holds the lanes that received an item, those lanes are live, one
assignment older, and the range goes on after what was taken. -/
def Obligations.RefillResults : Prop :=
  ∀ (r : BitVec 6),
    let m (sc : Nat) : Meta := { sc := sc, dist := 2, dsts := [.s r.toNat], handler := false }
    let screened (x : Ix) (s : State) : State := screenSlots (x.gridKey s) takeFuel s
    let now (x : Ix) (s : State) : Prop :=
      refillBlocks x (screened x s) = false ∧ (x.warps s).all (fun p => !p.2.pendingResults) = true
    let alone (x : Ix) (s : State) : Prop := ∃ w, x.warp? s x.lead = some w ∧ reconverging x w = false
    let held (x : Ix) (s : State) : Prop := ∃ w, x.warp? s x.lead = some w ∧ reconverging x w = true
    let f (x : Ix) (s : State) : State := refillMembers x r.toNat (reconverge x (screened x s))
    Makes (.refill r) (m 0) (atRefill 0) noUniform (fun x s => alone x s ∧ now x s) f
    ∧ Makes (.refillWarp r) (m 1) (atRefill 1) noUniform (fun x s => alone x s ∧ now x s) f
    ∧ Makes (.refillBlock r) (m 3) (atRefill 2) noUniform now f
    ∧ Waits (.refill r) (m 0) (atRefill 0) noUniform held .rendezvous waitRefill
    ∧ Waits (.refillWarp r) (m 1) (atRefill 1) noUniform held .rendezvous waitRefill
    ∧ (
      let draws (i : Instr) (sc form : Nat) (H : Ix → State → Block → Warp → Prop) (count : Block → Warp → Grid → Nat)
          (got : Block → Warp → Grid → Mask) (val : Block → Warp → Grid → Nat → Nat) : Prop :=
        ∀ (s : State) (x : Ix) (a : State) (b : Block) (g : Grid) (w : Warp),
          issuesAs i (m sc) (atRefill form) noUniform s = some (x, a) → x.block? a = some b → x.warp? a x.lead = some w →
          a.grids.get? b.grid = some g → g.qpipe = none → g.returned = [] → g.next < g.stop →
          b.blockInst = none → (a.core x.core).assignsNothing = false → H x a b w →
          (∀ k, ((a.block? x.core x.slot).map fun b => b.inst (.set k)) = some none) →
          ∃ t, exec i s = .next (traceMark x t)
            ∧ t.grids.get? b.grid = some { g with next := g.next + count b w g }
            ∧ ∀ k ∈ x.members, ∀ q, x.warp? a k = some q → ∃ q', t.warp? x.core x.slot k = some q'
              ∧ q'.live = q.live ||| got b w g ∧ q'.retired = q.retired
              ∧ scalarWritten r.toNat (got b w g) q q' ∧ q'.vregs = q.vregs
              ∧ (∀ p, q.splits[x.split]? = some p → p.valid = true → ∃ p', q'.splits[0]? = some p' ∧ p'.valid = true
                  ∧ p'.pc = x.pc + 4#64 ∧ ∀ l, l < 64 → (q.live ||| got b w g).getLsbD l = true → p'.em.getLsbD l = true)
              ∧ ∀ l, l < 64 →
                ((got b w g).getLsbD l = true → (q'.item.lane l).toNat = val b w g l % 2 ^ 32
                  ∧ (q'.itemhi.lane l).toNat = val b w g l / 2 ^ 32 % 2 ^ 32 ∧ q'.itemage.lane l = q.itemage.lane l + 1#32)
                ∧ (q.live.getLsbD l = true → q'.item.lane l = q.item.lane l ∧ q'.itemhi.lane l = q.itemhi.lane l
                  ∧ q'.itemage.lane l = q.itemage.lane l)
      let free (b : Block) (w : Warp) : List Nat :=
        (List.range 64).filter fun l => decide (l < b.kernel.lanesN) && !w.live.getLsbD l
      let all (b : Block) : Mask := lanesMask ((List.range 64).filter (· < b.kernel.lanesN))
      let empty (x : Ix) (a : State) (b : Block) : Prop :=
        0 < b.kernel.lanesN ∧ ∀ p ∈ (x.warps a), p.2.live = 0#64
      draws (.refill r) 0 0 (fun x _ b w => reconverging x w = false ∧ (free b w).length ≠ 0)
        (fun b w g => min (free b w).length (g.stop - g.next))
        (fun b w g => lanesMask ((free b w).take (g.stop - g.next)))
        (fun b w g l => g.next + ((free b w).filter (· < l)).length)
      ∧ draws (.refillWarp r) 1 1 (fun x a b w => reconverging x w = false ∧ empty x a b) (fun _ _ _ => 1) (fun b _ _ => all b)
        (fun _ _ g _ => g.next)
      ∧ draws (.refillBlock r) 3 2
        (fun x a b w => empty x a b ∧ w.live = 0#64 ∧ ∀ q ∈ b.warps, q.retired = false → q.live = 0#64)
        (fun _ _ _ => 1) (fun b _ _ => all b) (fun _ _ g _ => g.next))

/-- 18 R330 to R333: BAR arrives at the block's barrier and waits there; BARA arrives and its warp goes on (`goOn` of the
instance); BARW waits while its warp has
arrived at an instance that is open, and passes otherwise. A completed barrier closes, counts one phase of its level, and lets
exactly the waiting splits of the warps that arrived pass its word. -/
def Obligations.BarrierResults : Prop :=
  ∀ (v : BitVec 1),
    let held (x : Ix) (b : Block) : Bool := b.blockInst.any fun i => i.bar.isSome && i.arrived.contains x.lead
    let place (x : Ix) : Port := { core := x.core, slot := x.slot, warp := x.lead, split := x.split }
    let at_ (x : Ix) (s : State) : Option (Block × Split) :=
      (s.block? x.core x.slot).bind fun b => (s.split? x.core x.slot x.lead x.split).map fun q => (b, q)
    Waits (.bar v) { sc := 1, dist := 2 } noExtra noUniform
      (fun x s => ∃ b, x.block? s = some b ∧ held x b = false) .rendezvous
      (fun x s => match at_ x s with
        | some (b, q) => reach (issuedInPlace x s) (place x) b q .block (some (v == 1#1))
        | none => s)
    ∧ Waits (.bara v) { sc := 1, dist := 2 } noExtra noUniform
      (fun x s => ∃ b, x.block? s = some b ∧ held x b = false) .rendezvous
      (fun x s => match at_ x s with
        | some (b, q) => reach (issuedInPlace x s) (place x) b q .block (some (v == 1#1)) true
        | none => s)
    ∧ Performs (.barw v) { sc := 1, dist := 2 } noExtra noUniform
      (fun x a => ∃ b, x.block? a = some b ∧ held x b = false) (fun x a t => fallsThrough x a t)
    ∧ Waits (.barw v) { sc := 1, dist := 2 } noExtra noUniform
      (fun x s => ∃ b, x.block? s = some b ∧ held x b = true) .rendezvous (fun _ s => s)
    ∧ ∀ (b : Block) (i : Inst) (gang : Bool) (cycle : Nat),
      let u := barComplete b i gang cycle
      u.blockInst = none ∧ u.gcountB = (if gang then b.gcountB else b.gcountB + 1)
      ∧ u.gcountG = (if gang then b.gcountG + 1 else b.gcountG) ∧ u.warps.length = b.warps.length
      ∧ { u with blockInst := b.blockInst, gcountB := b.gcountB, gcountG := b.gcountG, warps := b.warps } = b
      ∧ ∀ (k : Nat) (w : Warp), b.warps[k]? = some w → ∃ w', u.warps[k]? = some w' ∧ { w' with splits := w.splits } = w
        ∧ ∀ (j : Nat) (q : Split), w.splits[j]? = some q → ∃ q', w'.splits[j]? = some q' ∧
          if i.arrived.contains k && q.waitsAt i.pc then q'.pc = i.pc + 4#64 ∧ q'.rwait = false ∧ q'.em = q.em
          else q' = q

/-- 18 R338; 22 R428; 15 R283: BPT stops its block when a debugger holds it, and traps 0x1E1 otherwise; TRAP n traps 0x1F0 + n
with the active lanes that are no helper lanes. Both resume at the next word. -/
def Obligations.TrapInstructionResults : Prop :=
  ∀ (c : BitVec 2) (n : BitVec 4),
    Makes .bpt { sc := 1, dist := 2 } noExtra noUniform (fun x s => bit (s.ctx (x.asid s)).dbgctl 10 = true)
      (fun x s => stopBlock s x.core x.slot 0x1E1)
    ∧ TrapsPast .bpt { sc := 1, dist := 2 } noUniform (fun x s => bit (s.ctx (x.asid s)).dbgctl 10 = false)
      (fun _ _ => { cause := 0x1E1 })
    ∧ ∃ q : Ix → State → TrapReq, TrapsPast (.trap c n) { sc := c.toNat, dist := 2 } noUniform always q
      ∧ ∀ x a, x.members.Nodup → (q x a).cause = 0x1F0 + n.toNat ∧ (q x a).resnext = true
        ∧ ∀ p ∈ x.warps a, (q x a).lanesOf p.1 = x.em p.2 &&& ~~~p.2.helper

/-- 18 R327 to R329; 19 R375, R376; 21 R415 to R417; 09 R179: the memory instructions. Each completes as `MemoryResult` says; the
access size, the registers and the space are those of Tables 19.10, 21.5 and 17.6. A `.cu` ATOM needs LA 0. -/
def Obligations.MemoryInstructionResults : Prop :=
  ∀ (c : BitVec 2) (l u : BitVec 4) (w p : BitVec 2) (d a : BitVec 6) (r : BitVec 4),
    let n := wdWidth w
    let va := vop a 1
    let narrow : Nat := if w.toNat < 2 then 1 else 2
    let size : Nat := if u = 2#4 then 2 else if u = 14#4 ∨ u = 15#4 then 8 else 4
    let pair : Nat := if 13 ≤ u.toNat then 2 else 1
    MemoryResult (.ld c l w p d a r) { acc := .load, n := 4 * n, w := n, sp := p.toNat, signed := false, aop := 0 }
      (memMeta c l.toNat .load false p.toNat (vop d n) va r true false) l.toNat (vop d n) va r noExtra
    ∧ MemoryResult (.lds c l w p d a r)
      { acc := .load, n := narrow, w := 1, sp := p.toNat, signed := decide (w = 1#2 ∨ w = 3#2), aop := 0 }
      (memMeta c l.toNat .load false p.toNat (vop d 1) va r true false) l.toNat (vop d 1) va r noExtra
    ∧ MemoryResult (.st c w p d a r) { acc := .store, n := 4 * n, w := n, sp := p.toNat, signed := false, aop := 0 }
      (memMeta c 0 .store false p.toNat (vop d n) va r false true) 0 (vop d n) va r noExtra
    ∧ MemoryResult (.sts c w p d a r) { acc := .store, n := w.toNat + 1, w := 1, sp := p.toNat, signed := false, aop := 0 }
      (memMeta c 0 .store false p.toNat (vop d 1) va r false true) 0 (vop d 1) va r noExtra
    ∧ MemoryResult (.atom c l u d a r) { acc := .atomic, n := size, w := pair, sp := 0, signed := false, aop := u.toNat }
      (memMeta c l.toNat .atomic (decide (u.toNat ≤ 11)) 0 (vop d pair) va r true true) l.toNat (vop d pair) va r
      (fun _ q => !(howOf q.hints).cu || l == 0#4)
    ∧ MemoryResult (.atoml c l u d a r) { acc := .atomic, n := size, w := pair, sp := 2, signed := false, aop := u.toNat }
      (memMeta c l.toNat .atomic false 0 (vop d pair) va r true true) l.toNat (vop d pair) va r noExtra

/-- 19 R375, R376; 21 R415, R416; 08 R158: loads and stores of the block's own scratch, without a MEMORD hint. A load writes the
little-endian bytes at its offset, sign-extended for the .i8 and .i16 types; a store writes the low bytes of D. A byte that no
lane stores to stays; a byte that several store to holds the byte of one of them. Nothing else changes but the word passed (and
the lease times `seen` and `scrTs`, the model's own, log 54). -/
def Obligations.ScratchAccessResults : Prop :=
  ∀ (c : BitVec 2) (l : BitVec 4) (w : BitVec 2) (d a : BitVec 6) (r : BitVec 4),
    let n := wdWidth w
    let va := vop a 1
    let lanesFit (z : Nat) (x : Ix) (s : State) : Prop := ∃ b, x.block? s = some b ∧
      ∀ p ∈ x.warps s, ∀ k ∈ p.2.lanesOn (x.em p.2), scratchFits x s b z (laneOffset x s va r p.2 k) = true
    let loads (i : Instr) (vd : VOp) (z : Nat) (f : Nat → Nat → Word) : Prop :=
      Performs i (memMeta c l.toNat .load false 1 vd va r true false) noExtra noUniform
        (fun x s => operandsFine [vd, va] x s ∧ plainMemory x s ∧ lanesFit z x s)
        fun x s t => onMembers x s t fun _ q q' => { unissued q q' with vregs := q.vregs } = q
          ∧ lanesWritten x vd (fun k j => match x.block? s with
            | some b => if scratchFits x s b z (laneOffset x s va r q k)
                then f (Mem.num (s.core x.core).scratch (b.scrBase + laneOffset x s va r q k) z) j else 0#32
            | none => 0#32) q q'
    let stores (i : Instr) (vd : VOp) (z : Nat) : Prop :=
      Performs i (memMeta c 0 .store false 1 vd va r false true) noExtra noUniform
        (fun x s => operandsFine [vd, va] x s ∧ plainMemory x s ∧ lanesFit z x s ∧ Mem.wf (s.core x.core).scratch = true)
        fun x s t => onMembers x s
            { t.modCore x.core (fun k => { k with scratch := (s.core x.core).scratch, scrTs := (s.core x.core).scrTs }) with
              draws := s.draws }
            (fun _ q q' => unissued q q' = q)
          ∧ ∀ b y, x.block? s = some b →
            let at_ (p : Nat × Warp) (k : Nat) : Nat := b.scrBase + laneOffset x s va r p.2 k
            let hits := (x.warps s).flatMap fun p => ((p.2.lanesOn (x.em p.2)).filter fun k =>
              decide (at_ p k ≤ y ∧ y < at_ p k + z)).map fun k => (at_ p k, readOp p.2 vd k)
            let byte := Mem.read (t.core x.core).scratch y
            (hits = [] → byte = Mem.read (s.core x.core).scratch y)
              ∧ (hits ≠ [] → ∃ h ∈ hits, byte = BitVec.ofNat 8 (h.2 / 2 ^ (8 * (y - h.1))))
    loads (.ld c l w 1#2 d a r) (vop d n) (4 * n) (fun v j => word32 v j)
    ∧ loads (.lds c l w 1#2 d a r) (vop d 1) (if w.toNat < 2 then 1 else 2) (fun v _ =>
      if w = 1#2 then (BitVec.ofNat 8 v).signExtend 32 else if w = 3#2 then (BitVec.ofNat 16 v).signExtend 32 else BitVec.ofNat 32 v)
    ∧ stores (.st c w 1#2 d a r) (vop d n) (4 * n)
    ∧ (w.toNat < 2 → stores (.sts c w 1#2 d a r) (vop d 1) (w.toNat + 1))

/-- 18 R325 to R328, Table 18.2: ATOML in the cluster-scratch layout, without a MEMORD hint, whose lanes name different places.
Each lane gets the old value, a cas its compare value above it, a helper lane 0; the place gets the new value; every other byte
of every scratch, and everything else but the word passed, is unchanged (but for the lease times, log 54). -/
def Obligations.ClusterAtomicResults : Prop :=
  (∀ (c : BitVec 2) (l u : BitVec 4) (d a : BitVec 6) (r : BitVec 4),
    let z : Nat := if u = 2#4 then 2 else if u = 14#4 ∨ u = 15#4 then 8 else 4
    let va := vop a 1
    let vd := vop d (if 13 ≤ u.toNat then 2 else 1)
    let at_ (x : Ix) (s : State) (q : Warp) (k : Nat) : Option (Nat × Nat) :=
      (x.block? s).bind fun b => clusterAt x s b z (laneOffset x s va r q k)
    let updates (x : Ix) (s : State) : List (Option (Nat × Nat) × Nat) :=
      (x.warps s).flatMap fun p => (p.2.lanesOn (x.em p.2)).map fun k => (at_ x s p.2 k, readOp p.2 vd k)
    Performs (.atoml c l u d a r) (memMeta c l.toNat .atomic false 0 vd va r true true) noExtra noUniform
      (fun x s => operandsFine [vd, va] x s ∧ plainMemory x s ∧ (∀ k, Mem.wf (s.core k).scratch = true)
        ∧ (∀ p ∈ updates x s, p.1.isSome = true) ∧ ((updates x s).map (·.1)).Nodup)
      fun x s t => ∃ v, { t with cores := v.cores } = v
        ∧ (∀ k, { t.core k with scratch := (v.core k).scratch, scrTs := (v.core k).scrTs } = v.core k)
        ∧ (onMembers x s v fun _ q q' => { unissued q q' with vregs := q.vregs } = q
          ∧ lanesWritten x vd (fun k j => match inMask q.helper k, at_ x s q k with
            | false, some g => word32 (Mem.num (s.core g.1).scratch g.2 z
                + if u = 13#4 then readOp q vd k / 2 ^ 32 % 2 ^ 32 * 2 ^ 32 else 0) j
            | _, _ => 0#32) q q')
        ∧ (∀ k y, (∀ p ∈ updates x s, ∀ g, p.1 = some (k, g) → ¬ (g ≤ y ∧ y < g + z)) →
            Mem.read (t.core k).scratch y = Mem.read (s.core k).scratch y)
        ∧ ∀ p ∈ updates x s, ∀ k g y, p.1 = some (k, g) → g ≤ y → y < g + z →
            let old := Mem.num (s.core k).scratch g z
            Mem.read (t.core k).scratch y = BitVec.ofNat 8 ((atomicNew u.toNat old p.2).getD old / 2 ^ (8 * (y - g))))
  ∧ ∀ (o y : Word) (p q : DWord) (x : Nat),
      atomicNew 0 o.toNat y.toNat = some (o + y).toNat
      ∧ atomicNew 3 o.toNat y.toNat = some (if o.slt y then o else y).toNat
      ∧ atomicNew 4 o.toNat y.toNat = some (if o.ult y then o else y).toNat
      ∧ atomicNew 6 o.toNat y.toNat = some (if o.slt y then y else o).toNat
      ∧ atomicNew 7 o.toNat y.toNat = some (if o.ult y then y else o).toNat
      ∧ atomicNew 9 o.toNat y.toNat = some (o &&& y).toNat
      ∧ atomicNew 10 o.toNat y.toNat = some (o ||| y).toNat
      ∧ atomicNew 11 o.toNat y.toNat = some (o ^^^ y).toNat
      ∧ atomicNew 12 o.toNat y.toNat = some y.toNat
      ∧ atomicNew 13 o.toNat x = (if o.toNat = x / 2 ^ 32 % 2 ^ 32 then some (x % 2 ^ 32) else none)
      ∧ atomicNew 14 p.toNat q.toNat = some (p + q).toNat
      ∧ atomicNew 15 p.toNat q.toNat = some q.toNat

/-- 18 R342 to R345; 19 R362, R363; 20 R386, R387; 08 R163, R167: FENCE waits for the split's remote accesses that it orders,
then takes its cache actions (`fenceEffect`); a release at die scope or wider leaves no dirty word in the core. PREF touches no
register. CFLUSH leaves no dirty L2 line of its range. DISC discards the pages of its range (`discardPage`). -/
def Obligations.FenceAndCacheResults : Prop :=
  ∀ (c : BitVec 2) (a b : BitVec 6),
    let fence : Meta := { sc := c.toNat, dist := 2, mem := some (.fence, false), access := true }
    let range : Meta := { sc := c.toNat, dist := 2, srcs := [.s a.toNat, .s b.toNat], access := true }
    let lo (x : Ix) (s : State) : Nat := (x.rs s a.toNat).toNat
    let hi (x : Ix) (s : State) : Nat := (x.rs s a.toNat).toNat + (x.rs s b.toNat).toNat
    Makes (.fence c) fence noExtra noUniform (fun x s => fenceWaits (fenceHow x.hints) x s = false)
      (fun x s => fenceEffect (fenceHow x.hints) x s)
    ∧ Waits (.fence c) fence noExtra noUniform (fun x s => fenceWaits (fenceHow x.hints) x s = true) .memory (fun _ s => s)
    ∧ Makes (.pref c a) { sc := c.toNat, dist := 2, srcs := [.s a.toNat] } noExtra noUniform always
      (fun x s => prefetch s x.core (x.asid s) (lo x s))
    ∧ Makes (.cflush c a b) range noExtra (rangeFault a b) (fun x s => x.rs s b.toNat = 0#64) (fun _ s => s)
    ∧ Makes (.cflush c a b) range noExtra (rangeFault a b) (fun x s => x.rs s b.toNat ≠ 0#64)
      (fun x s => flushRanges s x.core (x.asid s) (physRanges s (x.asid s) (lo x s) (hi x s)))
    ∧ Makes (.disc c a b) range noExtra (rangeFault a b) always
      (fun x s => ((leavesIn s (x.asid s) (lo x s) (hi x s)).filter
        (Leaf.discardable (lo x s) (hi x s))).foldl (fun s e => discardPage s x.core (x.asid s) e) s)
    ∧ (∀ (s : State) (k asid scope g : Nat) (l : L1Line), 2 ≤ scope →
        ((releaseCore s k asid scope).core k).l1d.get? g = some l → l.dirty = 0#32)
    ∧ (∀ (s : State) (k asid va : Nat), (prefetch s k asid va).blocks = s.blocks)
    ∧ ∀ (s : State) (k asid g : Nat) (rs : List (Nat × Nat)) (h : HomeLine), rs.any (lineIn g) = true →
        (flushRanges s k asid rs).l2.get? g = some h → h.dirty = false

/-- 03 R60, R64, R66, Table 3.9; 14 R277; 20 R388 to R391: the pipe instructions. QOPEN binds a stream register of every member;
QRSV takes the next granted number and gives its address, or waits while none is granted; QCMT releases, then commits the number
with its header; QPOP takes the next filled number, 0 at the end of the stream, or waits, and traps 0x145 where the header fails
its check, with the slot retained (03 R50); QREL frees; QSTAT and QSTAMP read; QCLOSE releases and closes. At pod scope QCMT, QREL
and QCLOSE wait for the members' remote writes. -/
def Obligations.PipeInstructionResults : Prop :=
  ∀ (c : BitVec 2) (l : BitVec 4) (q : BitVec 3) (d a : BitVec 6),
    let closedAs (x : Ix) (s : State) : Option Nat := boundFault x s q (some false) fun _ p => if p.closed then some 0x143 else none
    let popped (x : Ix) (s : State) (key : Nat) : Popped × State := popNext s x.core x.slot key
    let popMeta : Meta := pipeMeta c (some l) [] [d] false
    let popFault (x : Ix) (s : State) : Option Nat := boundFault x s q (some true) fun _ _ => none
    let heldFault (x : Ix) (s : State) : Option Nat := boundFault x s q (some true) fun k p =>
      if (heldNum x s k p (x.rs s a.toNat)).isNone then some 0x142 else none
    let stampFault (x : Ix) (s : State) : Option Nat := boundFault x s q none fun key p =>
      if (p.findSlot (x.rs s a.toNat) (stampable x s key)).isNone then some 0x142 else none
    Makes (.qopen c q a) (pipeMeta c none [a] [] false) noExtra
      (fun x s => match openFault x s (x.rs s a.toNat) with | .error e => some e | .ok _ => none)
      (fun x s => ∃ b, openFault x s (x.rs s a.toNat) = .ok b)
      (fun x s => match openFault x s (x.rs s a.toNat) with
        | .ok b => dropUnbound (x.each s fun _ w => { w with qregs := w.qregs.set q.toNat (some b) }) x.core
        | .error _ => s)
    ∧ Makes (.qrsv c l q d) (pipeMeta c (some l) [] [d] false) noExtra closedAs
      (fun x s => ∃ k p, pipeAt x s q = some (k, p) ∧ (((drawGrants s x.core k).core x.core).grant k).nums ≠ [])
      (fun x s => match pipeAt x s q with
        | some (k, p) =>
          let t := drawGrants s x.core k
          let g := (t.core x.core).grant k
          let n := g.nums.headD 0
          let t := t.modCore x.core fun z =>
            { z with grants := z.grants.put k { z.grant k with nums := g.nums.tail, last := t.kalends.toNat } }
          let t := t.modPipe k fun p => p.setSt n (.reserved x.core x.slot x.lead)
          let t := t.modWarp x.core x.slot x.lead fun w => { w with reserved := w.reserved ++ [(k, n)] }
          x.ws (raisePts t x.core (p.freeTs.getD (p.slotOf n) 0#20)) d.toNat (p.addrOf n)
        | none => s)
    ∧ Waits (.qrsv c l q d) (pipeMeta c (some l) [] [d] false) noExtra closedAs
      (fun x s => ∃ k p, pipeAt x s q = some (k, p) ∧ (((drawGrants s x.core k).core x.core).grant k).nums = []) .fullPipe
      (fun x s => match pipeAt x s q with | some (k, _) => askGrant s k x.core | none => s)
    ∧ Makes (.qcmt c q d a) (pipeMeta c none [a, d] [] true) noExtra (fun x s => commitFault x s q d a)
      (fun x s => (x.block? s).isSome = true ∧ ∃ k p n, pipeAt x s q = some (k, p) ∧ podWrites x s p = false
        ∧ reservedNum x p (x.rs s a.toNat) = some n)
      (fun x s => match pipeAt x s q, x.block? s, x.warp? s x.lead with
        | some (k, p), some b, some w =>
          let n := (reservedNum x p (x.rs s a.toNat)).getD 0
          let len := if x.rs s d.toNat = 0#64 then p.ssize else (x.rs s d.toNat).toNat
          let stamp : DWord := match hintOf x.hints 4 with | some h => x.rs s (h % 64) | none => w.stamp
          let t := releaseCore s x.core b.asid p.memScope
          let t := sendCommit t k n (mkHeader t stamp n len false (hintOf x.hints 4).isSome
            { core := x.core, block := b.number.toNat, warp := x.lead }) (t.core x.core).pts
          markItems (dropReserved t x.core x.slot k n) x.core x.slot
        | _, _, _ => s)
    ∧ Waits (.qcmt c q d a) (pipeMeta c none [a, d] [] true) noExtra (fun x s => commitFault x s q d a)
      (fun x s => (x.block? s).isSome = true ∧ ∃ k p n, pipeAt x s q = some (k, p) ∧ podWrites x s p = true
        ∧ reservedNum x p (x.rs s a.toNat) = some n ∧ (x.warp? s x.lead).isSome = true) .memory (fun _ s => s)
    ∧ Makes (.qpop c l q d) popMeta noExtra popFault
      (fun x s => ∃ k p n st, pipeAt x s q = some (k, p) ∧ (popped x s k).1 = .slot n st)
      (fun x s => match pipeAt x s q with
        | some (k, p) => (match popped x s k with
          | (.slot n st, t) => x.each t fun _ w => { w.setS d.toNat (p.addrOf n) with stamp := st }
          | _ => s)
        | none => s)
    ∧ Makes (.qpop c l q d) popMeta noExtra popFault
      (fun x s => ∃ k p, pipeAt x s q = some (k, p) ∧ p.nextItem? = none ∧ p.eos = true)
      (fun x s => match pipeAt x s q with
        | some (_, p) => x.ws (raisePts s x.core p.endTs) d.toNat 0#64
        | none => s)
    ∧ Waits (.qpop c l q d) popMeta noExtra popFault
      (fun x s => ∃ k p, pipeAt x s q = some (k, p) ∧ p.nextItem? = none ∧ p.eos = false) .emptyPipe (fun _ s => s)
    ∧ (∀ s x a k p n t, issuesAs (.qpop c l q d) popMeta noExtra popFault s = some (x, a) →
        pipeAt x (begun popMeta x a).2 q = some (k, p) → popped x (begun popMeta x a).2 k = (.corrupt n, t) →
        exec (.qpop c l q d) s = .next (takeTrap (restoreSplits x (savedSplits x a) id (traceMark x t)) x.at_ { cause := 0x145 }))
    ∧ Makes (.qrel c q a) (pipeMeta c none [a] [] false) noExtra heldFault
      (fun x s => (x.block? s).isSome = true ∧ ∃ k p n, pipeAt x s q = some (k, p) ∧ podWrites x s p = false
        ∧ heldNum x s k p (x.rs s a.toNat) = some n)
      (fun x s => match pipeAt x s q with
        | some (k, p) =>
          let n := (heldNum x s k p (x.rs s a.toNat)).getD 0
          freeNumber (s.modBlock x.core x.slot fun b => { b with held := b.held.filter fun h => h != (k, n) }) x.core k n
        | none => s)
    ∧ Waits (.qrel c q a) (pipeMeta c none [a] [] false) noExtra heldFault
      (fun x s => ∃ k p n, pipeAt x s q = some (k, p) ∧ podWrites x s p = true ∧ heldNum x s k p (x.rs s a.toNat) = some n)
      .memory (fun _ s => s)
    ∧ ScalarPut (.qstat c l q d) (pipeMeta c (some l) [] [d] false) (fun x s => boundFault x s q none fun _ _ => none)
      (fun x s => (pipeAt x s q).isSome = true) d
      (fun x s _ _ => match pipeAt x s q with | some (_, p) => p.status | none => 0#64)
    ∧ ScalarPut (.qstamp c l q d a) (pipeMeta c (some l) [a] [d] false) stampFault (fun x s => ∃ k p n,
        pipeAt x s q = some (k, p) ∧ p.findSlot (x.rs s a.toNat) (stampable x s k) = some n) d
      (fun x s _ _ => match pipeAt x s q with
        | some (k, p) =>
          let e := p.slots.getD ((p.findSlot (x.rs s a.toNat) (stampable x s k)).getD 0) (Slot.blank .void)
          (match e.st with | .reserved _ _ _ => 0#64 | _ => headerStamp e.hdr)
        | none => 0#64)
    ∧ Makes (.qclose c q) (pipeMeta c none [] [] false) noExtra (fun x s => boundFault x s q (some false) fun _ _ => none)
      (fun x s => ∃ k p, pipeAt x s q = some (k, p) ∧ podWrites x s p = false)
      (fun x s => match pipeAt x s q with
        | some (k, p) =>
          let t := releaseCore s x.core (x.asid s) p.memScope
          closePipe (t.modPipe k fun z => { z with endTs := tsMax z.endTs (t.core x.core).pts }) k
        | none => s)
    ∧ Waits (.qclose c q) (pipeMeta c none [] [] false) noExtra (fun x s => boundFault x s q (some false) fun _ _ => none)
      (fun x s => ∃ k p, pipeAt x s q = some (k, p) ∧ podWrites x s p = true) .memory (fun _ s => s)
    ∧ ∀ (s : State) (k : Nat) (p : Pipe), s.pipes.get? k = some p → ((closePipe s k).pipes.get? k).any Pipe.closed = true

/-- 12 R226, R227; 11 R210 to R215; 13 R253; 18 R347 to R349; 19 R365, R366: the engine instructions take an operation entry, a
place in their queue and a handle. CPY's record is read and checked first. HALTC acts at once. The entry that an operation takes
holds it, and the handle register of every member names it. -/
def Obligations.EngineInstructionResults : Prop :=
  (∀ (c : BitVec 2) (h : BitVec 4) (a b : BitVec 6),
    let n := a.toNat
    let named (r : BitVec 6) (x : Ix) (s : State) : DWord × DWord := (x.rs s r.toNat, 0#64)
    let record (bad align : Nat) (x : Ix) (s : State) : Option Nat := recordFault bad align (x.rs s a.toNat)
    let none_ (_ : Ix) (_ : State) : Option Nat := none
    let same (_ : Ix) (_ t : State) : State := t
    let matrixRoom (x : Ix) (s : State) : Bool := decide ((s.core x.core).matQ.length < 4) && !grantedBefore s x
    let matrixQueue (_ : Ix) (_ : State) (e : Nat) (k : Core) : Core := { k with matQ := k.matQ ++ [e] }
    let carded (card : Ix → State → List DWord) (x : Ix) (s t : State) : State :=
      let t := flushCore t x.core (x.asid t) false
      match (t.core x.core).matQ.getLast? with
      | some e => t.modOp x.core e fun o => { o with record := card x s, ets := (t.core x.core).pts }
      | none => t
    let area (kind : OpKind) (i : Instr) (bad : Ix → State → Option Nat) : Prop :=
      LeaveResult i (sysMeta [a, b]) bad none_ (fun _ _ => kind) (fun x s => (x.rs s a.toNat, x.rs s b.toNat)) 1 h
        (fun x s => decide ((s.core x.core).copyQ.length < 16)) .engineFull
        (fun _ s e k =>
          { k with copyQ := k.copyQ ++ [e], ops := modKey k.ops e fun o => { o with accepted := true, turn := s.nextTag } })
        (fun _ s t => { t with nextTag := s.nextTag + 1 })
    Makes (.cpy c h a) (engineMeta c [n] true) noExtra (record 0x106 64)
      (fun x s => ∃ e t, copyEntry x a s = some (e, t) ∧ (copyIssue x h.toNat e t).1 = none)
      (fun x s => match copyEntry x a s with | some (e, t) => (copyIssue x h.toNat e t).2 | none => s)
    ∧ (∀ r, Waits (.cpy c h a) (engineMeta c [n] true) noExtra (record 0x106 64)
      (fun x s => ∃ e t, copyEntry x a s = some (e, t) ∧ (copyIssue x h.toNat e t).1 = some r) r
      (fun x s => match copyEntry x a s with | some (e, t) => (copyIssue x h.toNat e t).2 | none => s))
    ∧ Waits (.cpy c h a) (engineMeta c [n] true) noExtra (record 0x106 64) (fun x s => copyEntry x a s = none) .engineFull
      (fun _ s => s)
    ∧ LeaveResult (.gath c h a) (engineMeta c [n] true) (record 0x106 64) none_
      (fun x s => .gather (gatherEngine (s.core x.core))) (named a) 1 h
      (fun x s => decide (((s.core x.core).gathQ.getD (gatherEngine (s.core x.core)) []).length < 8)) .engineFull
      (fun x s e k => { k with gathQ := modAt k.gathQ (gatherEngine (s.core x.core)) fun q => q ++ [e] }) same
    ∧ LeaveResult (.xfer c h a) (engineMeta c [n] true) (record 0x106 128) none_ (fun _ _ => .xfer) (named a) 1 h
      (fun _ _ => true) .engineFull (fun _ _ e k => { k with xferQ := k.xferQ ++ [e] }) same
    ∧ LeaveResult (.mmj c h a) (engineMeta c [n] true) (record 0x102 128) none_ (fun _ _ => .matrix) (named a) 3 h matrixRoom
      .matrixFull matrixQueue (carded fun _ _ => [])
    ∧ LeaveResult (.mmk c h a b) (engineMeta c [n, n + 1, n + 2, n + 3, b.toNat] false) (mmkFault n b.toNat)
      (fun x s => if bits (x.rs s (n + 2)) 0 16 = 0 then some 0 else none) (fun _ _ => .matrix) (fun _ _ => (0#64, 0#64)) 3 h
      matrixRoom .matrixFull matrixQueue
      (carded fun x s => mmkCard (x.rs s n) (x.rs s (n + 1)) (x.rs s (n + 2)) (x.rs s (n + 3)) (x.rs s b.toNat))
    ∧ Makes (.mmk c h a b) (engineMeta c [n, n + 1, n + 2, n + 3, b.toNat] false) noExtra (mmkFault n b.toNat)
      (fun x s => bits (x.rs s (n + 2)) 0 16 = 0 ∧ (freeEntryNo s x.core).isSome = true)
      (fun x s => match freeEntryNo s x.core with
        | some e => opDone (giveHandle (putOp s x.core e { newOp s x .matrix 0#64 0#64 with accepted := true }) x h.toNat
            (.op e (s.core x.core).serial)) x.core e 0
        | none => s)
    ∧ Makes (.haltc h a) (sysMeta [a]) noExtra (fun x s => haltFault x.core (x.rs s a.toNat))
      (fun x s => (freeEntryNo s x.core).isSome = true)
      (fun x s => match freeEntryNo s x.core with
        | some e =>
          let t := issued (putOp s x.core e { newOp s x .halt (x.rs s a.toNat) 0#64 with accepted := true }) x h.toNat e
          freeOps (if bit (x.rs s a.toNat) 10 then resumeCore t (bits (x.rs s a.toNat) 0 10) (x.core, e)
            else haltCore t (bits (x.rs s a.toNat) 0 10) (x.core, e)) x.core
        | none => s)
    ∧ area .csave (.csave h a b) (fun x s => csaveFault (x.rs s a.toNat) (x.rs s b.toNat))
    ∧ area .crest (.crest h a b) (fun x s => crestFault (x.rs s a.toNat) (x.rs s b.toNat)))
  ∧ ∀ (x : Ix) (s : State) (kind : OpKind) (v w : DWord) (units h e : Nat) (queue : Core → Core),
    (∀ k, (queue k).ops = k.ops) → (s.core x.core).ops.get? e = none →
      let t := startOp x s kind v w units h e queue
      t.op? x.core e = some { newOp s x kind v w with leave := units }
      ∧ (h ≠ 0 → ∀ k ∈ x.members, ∀ q, t.warp? x.core x.slot k = some q → h < q.hregs.length →
          q.hregs.getD h .empty = .op e (s.core x.core).serial)

/-- 12 R234 to R239; 18 R336; 19 R368; 21 R413; 22 R435, R436: the handle and batch instructions. An empty handle reads as
complete with status 0, a stale one as complete with status 0x10B; HTEST that sees an operation complete, or a matrix operation's
operands consumed, is an acquire (09 R189, R190). BATCH closes the open operations of every member under the
member's next number. WAITB waits until what it names is complete, or consumed. -/
def Obligations.HandleInstructionResults : Prop :=
  ∀ (c : BitVec 2) (l h : BitVec 4) (a b : BitVec 6),
    let none_ (x : Ix) (s : State) : Prop := x.handle s h = .empty ∨ x.handle s h = .stale
    let early (x : Ix) (s : State) : Option Nat := match x.warp? s x.lead with
      | some w => if notClosed ((x.rs s a.toNat).setWidth 16) w.batch then some 0x10C else none
      | none => none
    let named (x : Ix) (s : State) : List OpEntry := batchOps x s ((x.rs s a.toNat).setWidth 16)
    let ready (x : Ix) (s : State) : Bool := match x.handle s h with
      | .op _ o => if b = 0#6 then o.complete else o.consumed
      | _ => true
    Makes (.htest c l h a b) (handleMeta c (some l) [] [a]) noExtra noUniform always
      (fun x s => match x.handle s h with
        | .empty => x.ws s a.toNat (if b = 0#6 then 3#64 else 0#64)
        | .stale => x.ws s a.toNat (if b = 0#6 then 0x42F#64 else 0#64)
        | .op _ o =>
          let t := x.ws s a.toNat (if b = 0#6 then stateWord s x.core o x.lead else if b = 1#6 then o.pmask else o.stamp)
          if b = 0#6 ∧ (o.complete = true ∨ (o.consumed = true ∧ o.kind = .matrix)) then raisePts t x.core o.ets else t)
    ∧ Makes (.hcancel c h) (handleMeta c none [] []) noExtra noUniform none_ (fun _ s => s)
    ∧ Makes (.hcancel c h) (handleMeta c none [] []) noExtra noUniform (fun x s => ¬ none_ x s)
      (fun x s => match x.handle s h with | .op e o => cancelOp s x.core e o | _ => s)
    ∧ ScalarPut (.hmovs c l h a) (handleMeta c (some l) [] [a]) noUniform (fun x s => x.handle s h ≠ .stale) a
      (fun x s _ _ => match x.handle s h with | .op e o => tokenOf x.slot e o.serial | _ => 0#64)
    ∧ Makes (.hmovs c l h a) (handleMeta c (some l) [] [a]) noExtra noUniform (fun x s => x.handle s h = .stale)
      (fun x s => x.ws s.draw.2 a.toNat (BitVec.ofNat 64 s.draw.1))
    ∧ Makes (.smovh c h a) (handleMeta c none [a] []) noExtra
      (fun x s => if badToken x.slot (x.rs s a.toNat) then some 0x10A else none) always
      (fun x s => freeOps (giveHandle s x h.toNat (ofToken s x.core x.slot (x.rs s a.toNat))) x.core)
    ∧ Makes (.batch c l a) (handleMeta c (some l) [] [a]) noExtra noUniform always
      (fun x s =>
        let t := x.members.foldl (fun s m => closeBatch s x.core x.slot m) s
        x.ws t a.toNat (match x.warp? t x.lead with | some w => w.batch.setWidth 64 | none => 0#64))
    ∧ Makes (.waitbBatch c a) (handleMeta c none [a] []) noExtra early (fun x s => (named x s).all (·.complete) = true)
      (fun x s => (x.warps s).foldl (fun t p => raisePts t x.core p.2.ets)
        ((named x s).foldl (fun t o => raisePts t x.core o.ets) s))
    ∧ Waits (.waitbBatch c a) (handleMeta c none [a] []) noExtra early (fun x s => (named x s).all (·.complete) = false) .batch
      (fun _ s => s)
    ∧ Makes (.waitbHandle c h b) (handleMeta c none [] []) noExtra noUniform (fun x s => ready x s = true)
      (fun x s => match x.handle s h with
        | .op _ o => if b = 0#6 ∨ o.kind = .matrix then raisePts s x.core o.ets else s
        | _ => s)
    ∧ Waits (.waitbHandle c h b) (handleMeta c none [] []) noExtra noUniform (fun x s => ready x s = false) .handle (fun _ s => s)
    ∧ (∀ (s : State) (k slot m : Nat) (w : Warp), s.warp? k slot m = some w →
        ∃ w', (closeBatch s k slot m).warp? k slot m = some w' ∧ { w' with batch := w.batch } = w ∧ w'.batch = w.batch + 1
          ∧ ∀ e o, (s.core k).ops.get? e = some o → ∃ o', ((closeBatch s k slot m).core k).ops.get? e = some o' ∧
            if o.slot = slot ∧ m ∈ o.openIn then o'.batches.get? m = some (w.batch + 1) ∧ m ∉ o'.openIn else o' = o)
    ∧ ∀ (slot e : Nat) (serial : BitVec 32), slot < 128 → e < 256 →
        bits (tokenOf slot e serial) 0 8 = e ∧ bits (tokenOf slot e serial) 8 32 = serial.toNat
          ∧ bits (tokenOf slot e serial) 40 7 = slot ∧ badToken slot (tokenOf slot e serial) = false

/-- 13 R241 to R251; 20 R382, R383; 22 R422 to R425: TCADD and TCSET update a counter after their release, TCRD reads one, TCARM
arms a range of HBM or disarms one, NPOST puts a vigil into its slot or cancels one, NSEND sends a descriptor; what is wrong with
a range or a record is found with the operand faults (17 Table 17.8 row 4). An update without a release changes its counter
alone, and the armed vigils that it meets start to fire. -/
def Obligations.NetworkInstructionResults : Prop :=
  (∀ (c : BitVec 2) (l : BitVec 4) (a b : BitVec 6),
    let ctl (r : BitVec 6) (x : Ix) (s : State) : Option Nat := ctlFault s (x.asid s) (x.rs s r.toNat)
    let podHeld (x : Ix) (s : State) : Bool := x.podHeld s (bit (x.rs s a.toNat) 12) (bits (x.rs s a.toNat) 13 3)
    let update (i : Instr) (f : DWord → DWord → DWord) : Prop :=
      Makes i (netMeta c none [a, b] [] false) noExtra (ctl a) (fun x s => podHeld x s = false)
        (fun x s => ctrUpdate s x.core (x.asid s) (x.rs s a.toNat) fun v => f v (x.rs s b.toNat))
      ∧ Waits i (netMeta c none [a, b] [] false) noExtra (ctl a) (fun x s => podHeld x s = true) .memory (fun _ s => s)
    let arm : Ix → State → Option Nat := armCheck a b
    let slot (x : Ix) (s : State) : Nat := bits (x.rs s b.toNat) 0 14
    let post (x : Ix) (s : State) : Option Nat :=
      (postFault s (x.asid s) (x.rs s a.toNat) (x.rs s b.toNat)).or (if bit (x.rs s b.toNat) 15 then none
        else recordCheck x s (x.rs s a.toNat) 8 fun t ws => postCheck t (x.asid t) (slot x s) ws)
    let sends (x : Ix) (s : State) : Option Nat :=
      (netAddrFault 32 (x.rs s a.toNat)).or
        (recordCheck x s (x.rs s a.toNat) 4 fun t ws => if descMalformed t.rank ws then some 0x14F else none)
    update (.tcadd c a b) (fun v w => v + w)
    ∧ update (.tcset c a b) (fun _ w => w)
    ∧ Makes (.tcrd c l a b) (netMeta c (some l) [b] [a] false) noExtra (ctl b) always
      (fun x s =>
        let v := x.rs s b.toNat
        let t := x.ws s a.toNat (s.counters.getD (bits v 0 12) 0#64)
        if bit v 12 = true ∧ 2 ≤ bits v 13 3 then raisePts t x.core (counterTs s x.core (bits v 0 12)) else t)
    ∧ Makes (.tcarm c a b) (netMeta c none [a, b] [] false) noExtra arm (fun x s => bit (x.rs s b.toNat) 13 = true)
      (fun x s => disarm s (x.asid s) (x.rs s a.toNat).toNat)
    ∧ (∀ pa cached, Makes (.tcarm c a b) (netMeta c none [a, b] [] false) noExtra arm
      (fun x s => bit (x.rs s b.toNat) 13 = false ∧ inTriple (s.ctx (x.asid s)) (x.rs s a.toNat).toNat = true
        ∧ (translate s x.core (x.asid s) (x.rs s a.toNat).toNat .load).1 = .ok { at_ := .hbm pa, cached := cached }
        ∧ s.arms.length < 256)
      (fun x s =>
        let e : Arm :=
          { asid := x.asid s, ctr := bits (x.rs s b.toNat) 0 12, mode := bit (x.rs s b.toNat) 12
            va := (x.rs s a.toNat).toNat, pa := pa, len := bits (x.rs s b.toNat) 16 17, lg := 0 }
        { s with arms := s.arms ++ [e] }))
    ∧ Makes (.npost c a b) (netMeta c none [a, b] [] false) noExtra post (fun x s => bit (x.rs s b.toNat) 15 = true)
      (fun x s => cancelVigil s (slot x s))
    ∧ Makes (.npost c a b) (netMeta c none [a, b] [] false) noExtra post
      (fun x s => bit (x.rs s b.toNat) 15 = false ∧ ∃ ws t, recordAt x s (x.rs s a.toNat) 8 = some (ws, t)
        ∧ postCheck t (x.asid t) (slot x s) ws = none)
      (fun x s => match recordAt x s (x.rs s a.toNat) 8 with
        | some (ws, t) => postVigil t (slot x s) (x.asid t) ws (bit (x.rs s b.toNat) 14)
        | none => s)
    ∧ Makes (.nsend c a) (netMeta c none [a] [] true) noExtra sends
      (fun x s => ∃ ws t, recordAt x s (x.rs s a.toNat) 4 = some (ws, t) ∧ descMalformed t.rank ws = false
        ∧ x.podHeld t (recField ws 0 24 1 == 1) (recField ws 0 25 3) = false)
      (fun x s => match recordAt x s (x.rs s a.toNat) 4 with
        | some (ws, t) =>
          let t := if recField ws 0 24 1 = 1 then releaseCore t x.core (x.asid t) (recField ws 0 25 3) else t
          nsendSend t (x.asid t) ws (match hintOf x.hints 4 with
            | some p => x.rs s (p % 64)
            | none => match x.warp? s x.lead with | some w => w.stamp | none => 0#64) none (t.core x.core).pts
        | none => s)
    ∧ Waits (.nsend c a) (netMeta c none [a] [] true) noExtra sends
      (fun x s => ∃ ws t, recordAt x s (x.rs s a.toNat) 4 = some (ws, t) ∧ descMalformed t.rank ws = false
        ∧ x.podHeld t (recField ws 0 24 1 == 1) (recField ws 0 25 3) = true) .memory (fun _ s => s))
  ∧ ∀ (s : State) (k asid : Nat) (v : DWord) (f : DWord → DWord), bit v 12 = false → (s.vigils.map (·.1)).Nodup →
    let n := bits v 0 12
    let t := ctrUpdate s k asid v f
    { t with counters := s.counters, vigils := s.vigils, firing := s.firing } = s
    ∧ (∀ j, t.counters.getD j 0#64 = if j = n then f (s.counters.getD n 0#64) else s.counters.getD j 0#64)
    ∧ ∀ j g, s.vigils.get? j = some g → t.vigils.get? j = some (if g.st = .armed ∧ g.ctr = n
        ∧ (f (s.counters.getD n 0#64) - wordAt g.words 1).toNat < 2 ^ 63
          then { g with st := .firing, fireTs := g.acquired (s.ctrTs.getD n 0#20) } else g)

/-- 14 R264, R269; 19 R367; 20 R397; 22 R427: TLBI drops every TLB entry that it covers, after a release; HARV clears the gathered
dirty flags of the entries that it covers and drops none; TLBI then waits for the accesses of another device that may have
translated through a dropped entry (10 R200); RFT leaves the handler once the handler's results are written: the
frozen split table comes back, the trapping split resumes at the record's pc, or the next word, and the checkers start empty. -/
def Obligations.SystemInstructionResults : Prop :=
  (∀ (a b : BitVec 6),
    let bad (x : Ix) (s : State) : Option Nat := tlbiFault (x.rs s a.toNat) (x.rs s b.toNat)
    let effect (x : Ix) (s : State) : State := tlbiEffect (x.rs s a.toNat) (x.rs s b.toNat) x s
    let open_ (x : Ix) (s : State) : List Nat := tlbiOpen (x.rs s a.toNat) (x.rs s b.toNat) s
    let awaits (x : Ix) (s : State) : Option (List Nat) := (s.split? x.core x.slot x.lead x.split).bind (·.await)
    let note (l : Option (List Nat)) (x : Ix) (s : State) : State :=
      s.modSplit x.core x.slot x.lead x.split fun q => { q with await := l }
    Makes (.tlbi a b) (sysMeta [a, b]) noExtra bad (fun x s => awaits x s = none ∧ open_ x s = []) effect
    ∧ Waits (.tlbi a b) (sysMeta [a, b]) noExtra bad (fun x s => awaits x s = none ∧ open_ x s ≠ []) .memory
      (fun x s => note (some (open_ x s)) x (effect x s))
    ∧ Waits (.tlbi a b) (sysMeta [a, b]) noExtra bad
      (fun x s => ∃ l, awaits x s = some l ∧ l.any s.remPend.has = true) .memory (fun _ s => s)
    ∧ Makes (.tlbi a b) (sysMeta [a, b]) noExtra bad
      (fun x s => ∃ l, awaits x s = some l ∧ l.any s.remPend.has = false) (note none)
    ∧ Makes (.harv a) (sysMeta [a]) noExtra (fun x s => if bits (x.rs s a.toNat) 11 53 ≠ 0 then some 0x106 else none) always
      (fun x s => harvest s fun e => bit (x.rs s a.toNat) 10 || e.asid == bits (x.rs s a.toNat) 0 10))
  ∧ Makes .rft { sc := 1, dist := 2 } noExtra
    (fun x s => match x.warp? s x.lead with | some w => if w.frozen.isNone then some 0x1E3 else none | none => none)
    (fun x s => ∃ w, x.warp? s x.lead = some w ∧ handlerDone w = true) (fun x s => returnTrap s x.core x.slot x.lead)
  ∧ Waits .rft { sc := 1, dist := 2 } noExtra
    (fun x s => match x.warp? s x.lead with | some w => if w.frozen.isNone then some 0x1E3 else none | none => none)
    (fun x s => ∃ w, x.warp? s x.lead = some w ∧ handlerDone w = false) .lookahead (fun _ s => s)
  ∧ (∀ (v w : DWord) (x : Ix) (s : State), ¬(bits v 10 2 = 0 ∧ bits v 16 32 = 0) →
      ∀ e ∈ allEntries (tlbiEffect v w x s), tlbiCovers v w e = false)
  ∧ (∀ (s : State) (p : TlbEntry → Bool), (allEntries (harvest s p)).length = (allEntries s).length
      ∧ ∀ e ∈ allEntries (harvest s p), p e = true → e.dirtied = false)
  ∧ ∀ (s : State) (c slot m : Nat) (b : Block) (w : Warp) (table : List Split) (k : Nat),
    s.block? c slot = some b → s.warp? c slot m = some w → w.frozen = some (table, k) → w.trapMembers = [] →
      let back := s.modWarp c slot m fun w => { w with frozen := none, splits := table }
      let pc := w.tctx.getD 3 0#64 &&& 0xFFFFFFFFFFFFFC#64
      let goal := resumeAt back b.asid (if bit (w.tctx.getD 0 0#64) 31 then pc + 4#64 else pc)
      { returnTrap s c slot m with blocks := s.blocks } = s
      ∧ ∃ w', (returnTrap s c slot m).warp? c slot m = some w' ∧ w'.frozen = none ∧ w'.suspended = false ∧ w'.rftWait = false
        ∧ { w' with frozen := w.frozen, splits := w.splits, suspended := w.suspended, rftWait := w.rftWait,
                    rftSince := w.rftSince, rftLimit := w.rftLimit } = w
        ∧ ∀ (j : Nat) (p : Split), table[j]? = some p → ∃ p', w'.splits[j]? = some p' ∧ p'.hist = []
          ∧ (∀ e ∈ p'.wins, e.left = 0 ∧ e.pend ≠ .done)
          ∧ p'.pc = (if j = k then goal else p.pc) ∧ p'.hints = (if j = k then [] else p.hints)
          ∧ { p' with hist := p.hist, wins := p.wins, pc := p.pc, hints := p.hints, landed := p.landed, rem := p.rem,
                      seen := p.seen } = p

/-- 17 R311, Table 17.7; 19 R369, R370: a hint word is bound to the next word: the split passes it with the hint appended, whose
kind and payload are the word's. A third one in a row traps 0x001. No register changes. -/
def Obligations.HintResults : Prop :=
  let binds (i : Instr) (kind payload : Nat) : Prop := ∀ s b w q, portReady s b w q →
    (q.hints.length < 2 → (q.landed && hintAt s b.asid (q.pc - 4#64)) = false →
      ∃ word t w' q', exec i s = .next t ∧ isHint word = true ∧ hintKind word = kind ∧ hintPayload word = payload
        ∧ { t with blocks := s.blocks, cores := s.cores } = s
        ∧ t.warp? s.port.core s.port.slot s.port.warp = some w' ∧ unissued w w' = w
        ∧ (∀ k, k ≠ s.port.split → w'.splits[k]? = w.splits[k]?)
        ∧ w'.splits[s.port.split]? = some q' ∧ q'.pc = q.pc + 4#64 ∧ q'.hints = q.hints ++ [word] ∧ q'.landed = false
        ∧ { q' with pc := q.pc, hints := q.hints, landed := q.landed, hist := q.hist, wins := q.wins, stall := q.stall,
                    lastIssue := q.lastIssue, operands := q.operands } = q)
    ∧ (2 ≤ q.hints.length → exec i s = .next (takeTrap s (portTrap s q) { cause := 0x001 }))
  ∀ (p : BitVec 22) (n u f : BitVec 1) (m e o : BitVec 2) (k : BitVec 3) (g t v : BitVec 1) (r : BitVec 6) (c : BitVec 10),
    binds (.hintImm p) 0 p.toNat
    ∧ binds (.hintSched n m) 1 (n ++ m).toNat
    ∧ binds (.hintMemord e u k o) 2 (e ++ u ++ k ++ o).toNat
    ∧ binds (.hintArith g f u t v m) 3 (g ++ f ++ u ++ t ++ v ++ m).toNat
    ∧ binds (.hintStamp r) 4 r.toNat
    ∧ binds (.hintTrace p) 5 p.toNat
    ∧ binds (.hintRemote c) 6 c.toNat

/-- 13 R257: XSHUF captures A and waits for its partner; a second one of the warp waits. A pair of XSHUFs that name each other
with one width completes; the data that arrives is the partner's, rotated, 0 from its inactive lanes, in the lanes that were
active at issue. -/
def Obligations.CrossWarpShuffleResults : Prop :=
  (∀ (l : BitVec 4) (w : BitVec 2) (d a r : BitVec 6),
    let n := wdWidth w
    let m : Meta := { sc := 1, la := some l.toNat, vin := [vop a n], vout := [vop d n], srcs := [.s r.toNat] }
    Performs (.xshuf l w d a r) m noExtra (xshufFault r)
      (fun x s => operandsFine [vop a n, vop d n] x s ∧ ∃ q, x.warp? s x.lead = some q ∧ q.xshuf = none)
      (fun x s t => onMembers x s t fun _ q q' => { unissued q q' with xshuf := q.xshuf } = q
        ∧ ∃ z, q'.xshuf = some z ∧ z.split = x.split ∧ z.pos = bits (x.rs s r.toNat) 0 6 ∧ z.pwarp = bits (x.rs s r.toNat) 6 5
          ∧ z.rot = bits (x.rs s r.toNat) 16 6 ∧ z.width = n ∧ z.dst = d.toNat ∧ z.act = x.em q ∧ z.got = none ∧ z.pc = x.pc
          ∧ ∀ k j, k < n → j < 64 → (z.data.getD k (Vec.splat 0)).lane j = wordIn q (vop a n) j k)
    ∧ Waits (.xshuf l w d a r) m noExtra (xshufFault r)
      (fun x s => operandsFine [vop a n, vop d n] x s ∧ ∃ q z, x.warp? s x.lead = some q ∧ q.xshuf = some z) .rendezvous
      (fun _ s => s))
  ∧ (∀ (s : State) (c k m c' k' m' : Nat) (b b' : Block) (w w' : Warp) (x x' : XWait),
    s.block? c k = some b → s.warp? c k m = some w → w.xshuf = some x → x.got = none →
    xshufPartner s b x = some (c', k', m') → s.block? c' k' = some b' → s.warp? c' k' m' = some w' → w'.xshuf = some x' →
    x'.got = none → xshufMatch b m x b' m' x' = true → (c, k, m) ≠ (c', k', m') →
      ∃ t, exec (.xshufPair c k m) s = .next t ∧ { t with blocks := s.blocks } = s
        ∧ t.warp? c k m = some { w with xshuf := some { x with got := some (x'.data, x'.act) } }
        ∧ t.warp? c' k' m' = some { w' with xshuf := some { x' with got := some (x.data, x.act) } })
  ∧ ∀ (s : State) (c k m : Nat) (w : Warp) (x : XWait) (data : List Vec) (act : Mask),
    s.warp? c k m = some w → w.xshuf = some x → x.got = some (data, act) →
      ∃ t w', exec (.xshufDataArrival c k m) s = .next t ∧ { t with blocks := s.blocks } = s ∧ t.warp? c k m = some w'
        ∧ w'.xshuf = none
        ∧ { w' with vregs := w.vregs, splits := w.splits, frozen := w.frozen, xshuf := w.xshuf } = w
        ∧ (∀ (j : Nat) (p : Split), w.splits[j]? = some p → ∃ p' : Split, w'.splits[j]? = some p' ∧ { p' with wins := p.wins } = p
            ∧ ∀ e ∈ p'.wins, e.pend ≠ .xshuf)
        ∧ ∀ n l, n < w.vregs.length → l < 64 →
          let base := if x.place.isEmpty then x.dst else x.place.getD l 0
          let from_ := (l + x.rot) % 64
          w'.v n l = if inMask x.act l = true ∧ base ≤ n ∧ n < base + x.width then
              (if inMask act from_ then (data.getD (n - base) (Vec.splat 0)).lane from_ else 0#32)
            else w.v n l

/-- 14 R265 to R267: a trap of one warp, outside a co-issue, goes to its kernel's handler when the kernel has one, the class bit
of its cause is set, and the warp is in none. The split table is frozen, specials 24 to 31 receive the record, and the handler
runs as one split, with the trapping split's lanes, at entry + 4 × tvec; its checkers are empty. Nothing else changes. -/
def Obligations.TrapEntersTheHandler : Prop :=
  ∀ (s : State) (a : TrapAt) (t : TrapReq) (b : Block) (w : Warp) (p : Split),
    s.joint = .off → a.members = [] → s.block? a.core a.slot = some b → b.warps[a.warp]? = some w → w.splits[a.split]? = some p →
    t.cause < 512 → b.asid < 1024 → bits b.kernel.trap 0 24 ≠ 0 → w.frozen = none →
    handles b.kernel.trap t.cause t.delivered →
      { takeTrap s a t with blocks := s.blocks } = s
      ∧ ∃ w' table h, (takeTrap s a t).warp? a.core a.slot a.warp = some w'
        ∧ { w' with frozen := w.frozen, tctx := w.tctx, splits := w.splits, trapMembers := w.trapMembers } = w
        ∧ w'.frozen = some (table, a.split) ∧ w'.tctx.length = 8 ∧ recordOf a t b.asid w'.tctx
        ∧ (resumesPast t = true → ∃ q, table[a.split]? = some q ∧ q.pc = a.pc + 4#64 ∧ q.hints = [])
        ∧ w'.splits = h :: List.replicate 7 Split.empty ∧ h.valid = true ∧ h.lanes = p.lanes
        ∧ h.em = (if t.lanesOf a.warp = 0#64 then p.em else t.lanesOf a.warp)
        ∧ h.pc = b.kernel.addr + 0x40#64 + BitVec.ofNat 64 (4 * bits b.kernel.trap 0 24) ∧ h.hist = [] ∧ h.wins = []

/-- 14 R265, R266, R270: every other trap of a warp outside a co-issue goes to firmware: the warp is suspended, with its
registers as they are, and its record waits in the context's queue for an answer; with room in the queue it takes the head's
number, and head advances. -/
def Obligations.TrapGoesToFirmware : Prop :=
  ∀ (s : State) (a : TrapAt) (t : TrapReq) (b : Block) (w : Warp),
    s.joint = .off → a.members = [] → s.block? a.core a.slot = some b → b.warps[a.warp]? = some w → t.cause < 512 →
    b.asid < 1024 → (bits b.kernel.trap 0 24 = 0 ∨ w.frozen.isSome = true ∨ ¬ handles b.kernel.trap t.cause t.delivered) →
      ∃ w' r, (takeTrap s a t).warp? a.core a.slot a.warp = some w' ∧ w'.suspended = true
        ∧ { w' with splits := w.splits, suspended := w.suspended, trapMembers := w.trapMembers } = w
        ∧ r ∈ ((takeTrap s a t).ctx b.asid).records ∧ r.who = .trap a.core a.slot a.warp a.split ∧ recordOf a t b.asid r.words
        ∧ (((s.ctx b.asid).fqFull = false ∧ ∀ z ∈ (s.ctx b.asid).records, z.written = true) → r.written = true
          ∧ r.rseq = (s.ctx b.asid).fqHead ∧ ((takeTrap s a t).ctx b.asid).fqHead = (s.ctx b.asid).fqHead + 1#32)

/-- 04 R76 to R78, R81, R85, R86, R88, R453, Tables 4.2 and 4.8; 02 R452; 03 R49, R71, R74: what the front end and the command
processor do with packets: fetch, start, act by kind, complete. An event whose condition does not hold changes nothing; these
are the conditions. -/
def Obligations.PacketEvents : Prop :=
  (∀ (s : State) (n : Nat) (d : Ring), nextRing s = some (n, d) →
    let len := pLen (wordsOf 4 (ringRead s d d.rptr.toNat 32))
    let ws := wordsOf (len / 8) (ringRead s d d.rptr.toNat len)
    d.prio < s.lastRing.length → 0 < len → len ≤ 8192 → (∀ i, i < len / 32 →
        poisoned s (d.at_ (d.rptr.toNat + 32 * i)) 32 = false) → packetBad s n d ws = none →
      ∃ t p, exec .packetFetch s = .next t
        ∧ { t with rings := s.rings, pkts := s.pkts, nextPkt := s.nextPkt, lastRing := s.lastRing, ctxs := s.ctxs } = s
        ∧ t.rings.get? n = some { d with rptr := d.rptr + BitVec.ofNat 32 len } ∧ t.lastRing = s.lastRing.set d.prio n
            ∧ t.nextPkt = s.nextPkt + 1
        ∧ t.pkts.get? s.nextPkt = some p ∧ p.ring = n ∧ p.asid = d.asid ∧ p.kind = pKind ws ∧ p.pseq = wordAt ws 1
        ∧ p.launch = (s.ctx d.asid).nextLaunch ∧ p.st = .fetched ∧ p.handles = pHandles ws
        ∧ (t.ctx d.asid).nextLaunch = (s.ctx d.asid).nextLaunch + 1#32)
  ∧ (∀ (s : State) (k : Nat) (p : Packet), s.pkts.get? k = some p → p.st = .fetched →
    (p.barrier = true → ∀ j q, (j, q) ∈ s.pkts → j < k → q.kind ≠ 0 → q.ring ≠ p.ring) →
    (∀ e ∈ p.handles, entryFree (s.ctx p.asid) e = true) → (p.handles.map entryIndex).Nodup →
      ∃ t, exec (.packetStart k) s = .next t
        ∧ t.pkts.get? k = some { p with st := .started, since := s.kalends.toNat, ts := startTs s p }
        ∧ { t with pkts := s.pkts, ctxs := s.ctxs } = s
        ∧ ∀ e ∈ p.handles, ∀ h, (s.ctx p.asid).handles.get? (entryIndex e) = some h →
          (t.ctx p.asid).handles.get? (entryIndex e) = some (if entryMode e = 1 then { h with readers := h.readers + 1 }
            else { h with writer := p.launch, wvalid := true, wdone := false, readers := 0 }))
  ∧ (∀ (s u : State) (k : Nat) (p : Packet) (ws : List DWord) (kern : Kernel), acting k 1 p ws s →
    readKernel s k p (pf ws 0 0 56) = (.ok kern, u) →
      ∃ g, exec (.launchGrid k) s
          = .next (settleGrids { actPkt u k with grids := u.grids.put u.nextGrid g, nextGrid := u.nextGrid + 1 })
        ∧ g.kernel = kern ∧ g.asid = p.asid ∧ g.alm = none ∧ g.launch = p.launch ∧ g.params = BitVec.ofNat 64 (pf ws 8 0 56)
        ∧ g.next = pf ws 0x10 0 64 ∧ g.stop = pf ws 0x10 0 64 + pf ws 0x18 0 64 ∧ g.prio = pf ws 0x20 16 3 ∧ g.complete = false
        ∧ g.share.length ≤ pf ws 0x20 0 10
        ∧ ∀ c ∈ g.share, c < 768 ∧ bit (BitVec.ofNat 6 (pf ws 0x20 10 6)) (c / 128) = true ∧ (u.core c).halted = false)
  ∧ (∀ (s u : State) (k o : Nat) (p : Packet) (ws : List DWord), acting k 1 p ws s →
    readKernel s k p (pf ws 0 0 56) = (.broken o, u) → exec (.launchGrid k) s = .next (refuseLaunch u k 0x1E4 o))
  ∧ (∀ (s u v x : State) (k : Nat) (p : Packet) (ws : List DWord) (bs rest : List Byte) (ks : List (Option Kernel)),
    acting k 2 p ws s → pf ws 0 0 56 % 64 = 0 → cpBytes s k p (pf ws 0 0 56) 128 = (.ok bs, u) →
    let hs := wordsOf 16 bs
    let n := pf hs 0 16 6 + pf hs 0 24 8
    let record := hs ++ wordsOf (8 * n) rest
    firstBad (almChecks hs) = none → cpBytes u k p (pf ws 0 0 56 + 128) (64 * n) = (.ok rest, v) →
    readKernels v k p ((List.range (pf hs 0 16 6)).map (almEntry record)) [] = (.ok ks, x) →
      exec (.launchAlmanac k) s = .next (launchAlm x k p record ks))
  ∧ (∀ (s : State) (k : Nat) (p : Packet) (ws : List DWord) (n : Nat) (u : State), acting k 3 p ws s →
    let bs := (p.body.drop 16).take (pf ws 8 0 13)
    let rs := entryRanges s p fun e => entryMode e != 1
    cpWrite k p true (bs.length + 1) (pf ws 0 0 56 + p.moved) (bs.drop p.moved) 0 ((l2Lines s rs).foldl cleanLine s) = (n, none,
        u) →
      let v := u.modPkt k fun p => { p with moved := p.moved + n }
      exec (.writeMemory k) s = .next (endPkt ((l2Lines v rs).foldl invalidateLine v) k 0))
  ∧ (∀ (s u : State) (k : Nat) (p : Packet) (ws : List DWord), acting k 4 p ws s →
    readReplies k p (pf ws 0 0 56) (pf ws 8 0 25) 2049 p.moved (writeBack s (entryRanges s p fun e => entryMode e != 2)) = (none,
        u) →
      exec (.readMemory k) s = .next (endPkt u k 0))
  ∧ (∀ (s : State) (k : Nat) (p : Packet) (ws : List DWord), acting k 5 p ws s → pf ws 0 0 2 ≤ 1 →
    let behind (q : Packet) : Bool := if pf ws 0 0 2 = 0 then q.ring == p.ring else q.asid == p.asid
    (earlier s k behind = false →
      ∃ t, exec (.fencePacket k) s = .next t ∧ endsWith k 0 s t ∧ { t with pkts := s.pkts } = s)
      ∧ (earlier s k behind = true → exec (.fencePacket k) s = .next s))
  ∧ (∀ (s u : State) (k : Nat) (p : Packet) (ws : List DWord) (bs : List Byte), acting k 5 p ws s → 2 ≤ pf ws 0 0 2 →
    pf ws 8 0 64 % 8 = 0 → cpBytes s k p (pf ws 8 0 64) 8 = (.ok bs, u) → pf ws 16 0 64 ≤ ofBytes bs →
      exec (.fencePacket k) s = .next (endPkt u k 0))
  ∧ (∀ (s : State) (k : Nat) (p : Packet) (ws : List DWord), s.pkts.get? k = some p → p.kind = 5 → p.st = .started →
    ws = wordsOf (p.body.length / 8) p.body → pf ws 0 0 2 = 2 → pf ws 24 0 32 ≠ 0 →
    1000 * pf ws 24 0 32 ≤ (s.kalends - BitVec.ofNat 64 p.since).toNat →
      exec (.fenceTimeout k) s = .next (fenceStop s k p 0x1E8))
  ∧ (∀ (s : State) (k : Nat) (p : Packet) (ws : List DWord), acting k 6 p ws s → pf ws 0 0 1 = 1 →
    ownsCounter s p.asid (pf ws 0 16 12) = true →
      exec (.signal k) s = .next (endPkt (ctrRelease s (pf ws 0 16 12) (wordAt ws 2) (maxPts s)) k 0))
  ∧ (∀ (s u : State) (k n : Nat) (p : Packet) (ws : List DWord), acting k 6 p ws s → pf ws 0 0 1 = 0 → pf ws 8 0 64 % 8 = 0 →
    cpWrite k p false 9 (pf ws 8 0 64) (toBytes 8 (wordAt ws 2).toNat) 0 s = (n, none, u) →
      exec (.signal k) s = .next (endPkt u k 0))
  ∧ (∀ (s : State) (k : Nat) (p : Packet) (ws : List DWord) (a : Almanac), acting k 7 p ws s →
    alm? s p.asid (pf ws 0 0 4) = some a →
      let u := a.stages.foldl (fun s g => match s.grids.get? g with
        | some x => if x.complete || x.qpipe.isSome then s else dropRange s g
        | none => s) s
      exec (.drain k) s = .next (settleGrids (actPkt
        (modAlm u p.asid (pf ws 0 0 4) fun a => { a with draining := true, drainers := a.drainers ++ [k] }) k)))
  ∧ (∀ (s : State) (k d r : Nat) (p : Packet) (ws : List DWord) (a : Almanac), acting k 8 p ws s →
    alm? s p.asid (pf ws 0 0 4) = some a → a.stages[pf ws 0 4 5]? = some d → a.stages[pf ws 0 9 5]? = some r →
    let named := (List.range (pf ws 0 14 10)).map fun i => pf ws (8 + 2 * i / 8 * 8) (16 * (i % 4)) 16
    let z := named.foldl (fun (x : List Nat × State) c =>
      if resizable x.2 d r c then (x.1 ++ [c], markHandoff x.2 c d r a.handoffTo) else x) ([], s)
    z.1 ≠ [] → exec (.resize k) s = .next ((actPkt z.2 k).modPkt k fun p => { p with cores := z.1 }))
  ∧ (∀ (s : State) (k : Nat) (p : Packet) (ws : List DWord), controls k 10 p ws s → pf ws 8 0 1 = 0 →
    exec (.cancel k) s = .next (match alm? s (pf ws 0x18 0 10) (pf ws 8 8 4) with
      | none => endPkt s k 0x1EE
      | some a => endPkt (cancelAlm s (pf ws 0x18 0 10) (pf ws 8 8 4) a) k 0))
  ∧ ∀ (s u : State) (k status : Nat) (p : Packet), s.pkts.get? k = some p → p.st = .ended status → p.waiting = false →
    engRemote s cpCore k = false →
    let w := writeBack s (entryRanges s p fun e => bit e 18)
    let bs := recordBytes w p.pseq status p.downgrade p.ring p.launch p.offset
    (if p.crec = 0#64 then u = w else cpRecord w k p p.crec.toNat bs = (true, u)) →
      ∃ t, exec (.packetComplete k) s = .next t ∧ t.pkts.get? k = none ∧ t.mem = u.mem ∧ t.blocks = u.blocks

/-- 04 R79, R84, R87, Tables 4.5 and 4.6; 13 R258: the context-control subcommands. Each packet ends with status 0, and nothing
changes but what its subcommand names. -/
def Obligations.RingAndContextEvents : Prop :=
  (∀ (s : State) (k : Nat) (p : Packet) (ws : List DWord), controls k 1 p ws s →
    ∃ t d, exec (.createRing k) s = .next t ∧ endsWith k 0 s t ∧ { t with pkts := s.pkts, rings := s.rings } = s
      ∧ t.rings.get? (pf ws 8 0 10) = some d ∧ (∀ n, n ≠ pf ws 8 0 10 → t.rings.get? n = s.rings.get? n)
      ∧ d.base = BitVec.ofNat 64 (pf ws 0x10 0 52) ∧ d.lsize = pf ws 0x10 52 4 ∧ d.prio = pf ws 0x10 56 3 ∧ d.running = true
      ∧ d.wptr = 0#32 ∧ d.rptr = 0#32 ∧ d.nseq = 0#64 ∧ d.asid = pf ws 0x30 0 10)
  ∧ (∀ (s : State) (k : Nat) (p : Packet) (ws : List DWord), controls k 2 p ws s →
    ∃ t, exec (.destroyRing k) s = .next t ∧ endsWith k 0 s t ∧ { t with pkts := s.pkts, rings := s.rings } = s
      ∧ t.rings.get? (pf ws 8 0 10) = none ∧ ∀ n, n ≠ pf ws 8 0 10 → t.rings.get? n = s.rings.get? n)
  ∧ (∀ (s : State) (k : Nat) (p : Packet) (ws : List DWord), controls k 3 p ws s →
    ∃ t, exec (.restartRing k) s = .next t ∧ endsWith k 0 s t ∧ { t with pkts := s.pkts, rings := s.rings } = s
      ∧ ∀ n, t.rings.get? n = (s.rings.get? n).map fun d =>
        if n = pf ws 8 0 10 then { d with rptr := BitVec.ofNat 32 (pf ws 0x10 0 32), running := true } else d)
  ∧ (∀ (s u : State) (k n : Nat) (p : Packet) (ws : List DWord) (d : Ring), controls k 4 p ws s →
    s.rings.get? (pf ws 8 0 10) = some d → cpWrite k p false 49 (pf ws 0x10 0 56) d.image 0 s = (n, none, u) →
      exec (.queryRing k) s = .next (endPkt u k 0) ∧ d.image.length = 48
        ∧ ofBytes (d.image.take 8) % 2 ^ 52 = d.base.toNat % 2 ^ 52)
  ∧ (∀ (s : State) (k : Nat) (p : Packet) (ws : List DWord), controls k 5 p ws s →
    ∃ t h, exec (.registerHandle k) s = .next t ∧ endsWith k 0 s t ∧ { t with pkts := s.pkts, ctxs := s.ctxs } = s
      ∧ (t.ctx p.asid).handles.get? (pf ws 8 0 16) = some h ∧ h.base = BitVec.ofNat 64 (pf ws 0x10 0 56)
      ∧ h.length = pf ws 0x18 0 48 ∧ h.wvalid = false ∧ h.readers = 0
      ∧ ∀ n, n ≠ pf ws 8 0 16 → (t.ctx p.asid).handles.get? n = (s.ctx p.asid).handles.get? n)
  ∧ (∀ (s : State) (k : Nat) (p : Packet) (ws : List DWord), controls k 6 p ws s →
    ∃ t, exec (.unregisterHandle k) s = .next t ∧ endsWith k 0 s t ∧ { t with pkts := s.pkts, ctxs := s.ctxs } = s
      ∧ (t.ctx p.asid).handles.get? (pf ws 8 0 16) = none
      ∧ ∀ n, n ≠ pf ws 8 0 16 → (t.ctx p.asid).handles.get? n = (s.ctx p.asid).handles.get? n)
  ∧ (∀ (s : State) (k : Nat) (p : Packet) (ws : List DWord), controls k 7 p ws s →
    exec (.suspendContext k) s = .next (suspendStart s k (pf ws 8 0 10)))
  ∧ (∀ (s : State) (k : Nat) (p : Packet) (ws : List DWord), s.pkts.get? k = some p → p.kind = 9 → p.st = .acting →
    ws = wordsOf (p.body.length / 8) p.body → pf ws 0 0 8 = 7 →
      exec (.suspendContext k) s = .next (suspendGoOn s k (pf ws 8 0 10)))
  ∧ (∀ (s : State) (k : Nat) (p : Packet) (ws : List DWord), controls k 8 p ws s → suspensionDone s (pf ws 8 0 10) = true →
    ∃ t, exec (.resumeContext k) s = .next t ∧ endsWith k 0 s t ∧ (t.ctx (pf ws 8 0 10)).suspended = false
      ∧ t.blocks = s.blocks ∧ t.mem = s.mem
      ∧ ∀ c h, t.holidays.get? c = some h → ¬ (h.asid = pf ws 8 0 10 ∧ h.initiator = s.rank))
  ∧ ∀ (s : State) (k : Nat) (p : Packet) (ws : List DWord), controls k 9 p ws s →
    ∃ t, exec (.setRendezvousTimeout k) s = .next t ∧ endsWith k 0 s t ∧ { t with pkts := s.pkts, ctxs := s.ctxs } = s
      ∧ (t.ctx (pf ws 0x10 0 10)).timeout = (if pf ws 8 0 32 = 0 then 2 ^ 24 else pf ws 8 0 32)
      ∧ (t.ctx (pf ws 0x10 0 10)).lease = (if pf ws 8 32 8 = 0 then 10 else pf ws 8 32 8)
      ∧ ∀ a, a ≠ pf ws 0x10 0 10 → t.ctx a = s.ctx a

/-- 02 R26, R40 to R46; 03 R50; 03 R75, Table 3.10; 04 R89 to R92: the distributor places a block on the core of the grid's share
with the most free warp slots, where it takes its items, after what waits for a restore; warps start, blocks retire, stages report,
warps wake, merge and swap. -/
def Obligations.PlacementEvents : Prop :=
  (∀ (s : State) (gk : Nat) (g : Grid),
    let u := screenSlots gk takeFuel s
    u.grids.get? gk = some g → placeable u g = true → g.kernel.gsize = 1 →
    (∃ c ∈ g.share, (room? u c g.kernel g.prologues.length none).isSome = true) →
    (∀ p ∈ u.grids, p.1 ≠ gk → p.2.before g = true → nextPlacement u p.1 p.2 = none) →
      ∃ t c slot b, exec (.blockPlacement gk) s = .next (gangItems t gk (BitVec.ofNat 32 g.gangs))
        ∧ c ∈ g.share ∧ c < 768 ∧ slot < 96 ∧ u.block? c slot = none
        ∧ (∀ d ∈ g.share, (room? u d g.kernel g.prologues.length none).isSome = true → freeWarps u d ≤ freeWarps u c)
        ∧ t.block? c slot = some b ∧ b.grid = gk ∧ b.asid = g.asid ∧ b.kernel = g.kernel ∧ b.number = BitVec.ofNat 32 g.placed
        ∧ b.warps.length = g.kernel.warps ∧ (∀ w ∈ b.warps, w.started = false ∧ w.live = 0#64)
        ∧ (∀ j, j ≠ State.blockKey c slot → t.blocks.get? j = u.blocks.get? j)
        ∧ t.grids.get? gk = some { g with placed := g.placed + 1, resident := g.resident + 1, gangs := g.gangs + 1
                                          downgrade := g.downgrade || (g.kernel.far && !g.span) }
        ∧ t.mem = u.mem ∧ t.pipes = u.pipes)
  ∧ (∀ (s t : State) (gk : Nat) (g : Grid),
    let u := screenSlots gk takeFuel s
    u.grids.get? gk = some g → g.restore = [] → 1 < g.kernel.gsize →
    placement (beforeFirst u g) gk g = some t → outranked u gk g (newCores u t) = false →
      exec (.gangPlacement gk) s = .next (gangItems t gk (BitVec.ofNat 32 g.gangs))
        ∧ (∀ pos, pos < g.kernel.gsize → ∃ k b, u.blocks.get? k = none ∧ t.blocks.get? k = some b ∧ b.grid = gk
            ∧ b.gang = BitVec.ofNat 32 g.gangs ∧ b.gpos = pos ∧ b.gsize = g.kernel.gsize ∧ k / 96 ∈ g.share)
        ∧ ((g.kernel.far && g.span) = false → ∃ d, ∀ k b, u.blocks.get? k = none → t.blocks.get? k = some b →
            coreDie (k / 96) = d))
  ∧ (∀ (s t : State) (gk : Nat) (g : Grid),
    let u := screenSlots gk takeFuel s
    u.grids.get? gk = some g → g.restore ≠ [] → nextPlacement u gk g = some t → outranked u gk g (newCores u t) = false →
      exec (.blockPlacement gk) s = .next t ∧ exec (.gangPlacement gk) s = .next t)
  ∧ (∀ (s : State) (c slot : Nat) (b : Block), s.block? c slot = some b → b.ready = false →
    ((∃ e ∈ b.prologue, ∃ o, s.op? c e = some o ∧ o.complete = false) → exec (.prologueCopyComplete c slot) s = .next s)
    ∧ ((∀ e ∈ b.prologue, ∀ o, s.op? c e = some o → o.complete = true ∧ o.status = 0) →
        ∃ t b', exec (.prologueCopyComplete c slot) s = .next t ∧ t.block? c slot = some b' ∧ b'.ready = true ∧ b'.prologue = []
          ∧ { b' with ready := b.ready, prologue := b.prologue, warps := b.warps } = b ∧ t.mem = s.mem ∧ t.pipes = s.pipes))
  ∧ (∀ (s : State) (c slot m : Nat) (b : Block) (w : Warp), s.block? c slot = some b → s.warp? c slot m = some w →
    b.ready = true → b.stopped = false → b.frozen = false → w.started = false →
      ∃ u w', exec (.warpStart c slot m) s = .next (if w.live = 0#64 then retireWarp u c slot m else fillHot u c w.quarter 8)
        ∧ { u with blocks := s.blocks } = s ∧ u.warp? c slot m = some w' ∧ w'.started = true ∧ w'.refills = 0
        ∧ w'.itemage = Vec.splat 0 ∧ w'.splits = Split.start (w.live ||| w.helper) b.kernel.entry
        ∧ { w' with started := w.started, refills := w.refills, itemage := w.itemage, waitSince := w.waitSince,
                    splits := w.splits } = w)
  ∧ (∀ (s : State) (c slot : Nat) (b : Block), s.block? c slot = some b → (∀ w ∈ b.warps, w.retired = true) →
    (∀ p ∈ (s.core c).ops, p.2.slot = slot → p.2.complete = true) →
      ∃ u, exec (.blockRetire c slot) s = .next (settleHalt (settleGrids u) c) ∧ u.block? c slot = none)
  ∧ (∀ (s u : State) (k i gk : Nat) (a : Almanac) (g : Grid) (p : Packet), alm? s (k / 16) (k % 16) = some a →
    ((almGrids s a).find? fun x => !x.2.2.recorded) = some (i, gk, g) → s.pkts.get? a.pkt = some p → g.complete = true →
    p.waiting = false → (i + 1 = a.stages.length → mirrorBusy s (k / 16) (k % 16) = false) →
    cpRecord s a.pkt p (a.crec.toNat + 64 * i) (stageRecord s a g) = (true, u) →
      let v := (u.modGrid gk fun g => { g with recorded := true }).modPkt a.pkt fun p => { p with fault := none }
      exec (.stageRecordWrite k) s = .next (if i + 1 = a.stages.length then finishAlm v (k / 16) (k % 16) a else v)
        ∧ (stageRecord s a g).length = 64 ∧ ofBytes ((stageRecord s a g).take 8) = a.tag.toNat
        ∧ ofBytes (((stageRecord s a g).drop 8).take 8) = g.doneAt % 2 ^ 64
        ∧ ofBytes (((stageRecord s a g).drop 16).take 8) = g.dropped % 2 ^ 64
        ∧ ofBytes (((stageRecord s a g).drop 32).take 8) = g.status % 2 ^ 9)
  ∧ (∀ (s : State) (c slot m : Nat) (b : Block) (w : Warp), s.block? c slot = some b → s.warp? c slot m = some w →
    ((s.core c).assignsNothing = true ∨ b.saving = true
      ∨ (∀ g, s.grids.get? b.grid = some g → queuePending s g = true ∨ queueExhausted s g = true) →
      ∃ t, exec (.refillWake c slot m) s = .next t ∧ { t with blocks := s.blocks } = s
        ∧ t.warp? c slot m = some { w with refillBlocked := false })
    ∧ ((s.core c).assignsNothing = false → b.saving = false →
      (∃ g, s.grids.get? b.grid = some g ∧ queuePending s g = false ∧ queueExhausted s g = false) →
        exec (.refillWake c slot m) s = .next s))
  ∧ (∀ (s : State) (c slot m : Nat) (b : Block) (w : Warp), s.block? c slot = some b → s.warp? c slot m = some w →
    w.refillSince.isSome = true → w.reached b.refillPc = true →
      ∃ t w' p, exec (.refillReconverge c slot m) s = .next t ∧ { t with blocks := s.blocks } = s
        ∧ t.warp? c slot m = some w' ∧ { w' with splits := w.splits, refillSince := w.refillSince } = w ∧ w'.refillSince = none
        ∧ w'.splits = p :: List.replicate 7 Split.empty ∧ p.lanes = 0xFFFFFFFFFFFFFFFF#64 ∧ p.depth = 0
        ∧ p.pc = b.refillPc ∧ p.rwait = false
        ∧ ∀ l, p.em.getLsbD l = true ↔ ∃ q ∈ w.splits, q.valid = true ∧ q.em.getLsbD l = true)
  ∧ (∀ (s : State) (c q slot m slot' m' : Nat) (v v' w w' : Warp),
    ((s.core c).lastSwap.getD q 0 = 0 ∨ (s.core c).lastSwap.getD q 0 + 8 ≤ s.cycle.toNat) →
    swapOut s c q = some (slot, m, v) → coldNext s c q = some (slot', m', v') → (slot, m) ≠ (slot', m') →
    s.warp? c slot m = some w → s.warp? c slot' m' = some w' →
      ∃ t, exec (.warpSwap c q) s = .next t ∧ { t with blocks := s.blocks, cores := s.cores } = s
        ∧ t.warp? c slot m = some { w.rewound with hot := false, restaging := false, swapFirst := false }
        ∧ t.warp? c slot' m' = some { w' with hot := true, restaging := w'.region != 0#14, staged := 0, idle := 0
                                              waitSince := s.cycle.toNat })
  ∧ ∀ (s : State) (c slot m : Nat) (b : Block) (w : Warp), s.block? c slot = some b → s.warp? c slot m = some w →
    ∃ t, exec (.restageDone c slot m) s = .next t ∧ { t with blocks := s.blocks } = s
      ∧ t.warp? c slot m = some { w with restaging := w.restaging && w.copying b.kernel.d != 0#14 }

/-- 02 R31, R39; 04 R94; 06 R121, R123, R125; 13 R257; 14 R269; 18 R331 to R334: rendezvous, barriers and JOINs complete or time
out; a gang barrier over several cores sends their writes home and brings them to one lease time; the leave controllers grant in
the order of effective priority, within budget and ramp, and waiting raises it. -/
def Obligations.RendezvousEvents : Prop :=
  (∀ (s : State) (c slot n : Nat) (b : Block) (i : Inst), s.block? c slot = some b → b.inst (instOf n) = some i →
    i.overdue = false →
    let r := arriveAll b (instOf n) i s.cycle.toNat
    let due := instDone r.1 r.2 (r.1.membersOf (instOf n))
    (due = false → exec (.rendezvousComplete c slot n) s = .next (s.setBlock c slot (r.1.setInstAt (instOf n) (some r.2))))
    ∧ (due = true → r.2.bar = none → ∃ t b', exec (.rendezvousComplete c slot n) s = .next t ∧ { t with blocks := s.blocks } = s
        ∧ t.block? c slot = some b' ∧ b'.inst (instOf n) = none
        ∧ ∀ (m : Nat) (w : Warp) (q : Split), r.1.warps[m]? = some w → w.splits[0]? = some q →
          ∃ w' q', b'.warps[m]? = some w' ∧ w'.splits[0]? = some q' ∧ (m ∉ r.2.arrived → q' = q)
            ∧ (m ∈ r.2.arrived → q'.redo = some { pc := i.pc, members := r.2.arrived, lead := leadOf r.2.arrived, todo := [],
                                                  deferred := [] }
                ∧ { q' with redo := q.redo } = q))
    ∧ (due = true → r.2.bar = some false → ∃ t b', exec (.rendezvousComplete c slot n) s = .next t
        ∧ { t with blocks := s.blocks } = s
        ∧ t.block? c slot = some b' ∧ barPassed r.1 b' r.2 ∧ b'.gcountB = b.gcountB + 1 ∧ b'.gcountG = b.gcountG)
    ∧ (due = true → r.2.bar = some true → exec (.rendezvousComplete c slot n) s
        = .next (gangPhase (s.setBlock c slot (r.1.setInstAt (instOf n) (some { r.2 with blockArrived := true }))) b.grid b.gang)))
  ∧ (∀ (s : State) (c slot n : Nat) (b : Block) (i : Inst), n < 9 →
    let u := settle s c slot (instOf n)
    let due := instDue u c b (instOf n) i
    u.block? c slot = some b → b.inst (instOf n) = some i →
      exec (.rendezvousTimeout c slot n) s = .next (if due then instTrap u c slot (instOf n) 0x180 (heldWaiters u b i) else u)
      ∧ (b.stopped = false → i.limit < i.elapsed → due = true)
      ∧ (b.stopped = true ∨ i.elapsed < i.limit → due = false))
  ∧ (∀ (s : State) (c slot m since : Nat) (b : Block) (w : Warp), m < 32 → s.block? c slot = some b → s.warp? c slot m = some w →
    w.refillSince = some since → w.reached b.refillPc = false → (∃ q ∈ w.splits, q.waitsAt b.refillPc = true) →
    w.refillLimit ≤ s.cycle.toNat - since →
      ∃ u w' k, exec (.rendezvousTimeout c slot (32 + m)) s
          = .next (takeTrap u { core := c, slot := slot, warp := m, split := k, pc := b.refillPc,
                                sc := if b.kernel.items = 2 then 3 else 1 } { cause := 0x180 })
        ∧ { u with blocks := s.blocks } = s ∧ u.warp? c slot m = some w' ∧ w'.refillSince = none ∧ w'.item = w.item
            ∧ w'.live = w.live
        ∧ (∃ q, w.splits[k]? = some q ∧ q.waitsAt b.refillPc = true) ∧ ∀ q ∈ w'.splits, q.waitsAt b.refillPc = false)
  ∧ (∀ (s : State) (c slot m : Nat) (b : Block) (w : Warp) (x : XWait), m < 32 → s.block? c slot = some b →
    s.warp? c slot m = some w → w.xshuf = some x →
      (x.got = none → x.limit ≤ s.cycle.toNat - x.since →
        exec (.rendezvousTimeout c slot (64 + m)) s = .next (xshufTrap s c slot m x 0x180))
      ∧ ((x.got.isSome = true ∨ s.cycle.toNat - x.since < x.limit) →
        exec (.rendezvousTimeout c slot (64 + m)) s = .next s))
  ∧ (∀ (s : State) (c slot m : Nat) (b : Block) (w : Warp) (p : Split), s.block? c slot = some b → s.warp? c slot m = some w →
    w.rftWait = true → w.trapMembers = [m] → w.splits[0]? = some p → w.rftLimit ≤ s.cycle.toNat - w.rftSince →
      ∃ u, exec (.rendezvousTimeout c slot (96 + m)) s
          = .next (takeTrap u { core := c, slot := slot, warp := m, split := 0, pc := p.pc, sc := 1 } { cause := 0x180 })
        ∧ { u with blocks := s.blocks } = s ∧ u.warp? c slot m = some { w with rftWait := false, trapMembers := [] })
  ∧ (∀ (s : State) (c slot m d : Nat) (pc : BitVec 64) (w : Warp), s.warp? c slot m = some w →
    (∃ q ∈ w.splits, q.inGroup pc d = true) →
    (∀ q ∈ w.splits, q.valid = true → q.depth ≤ d ∧ (q.depth = d → q.jwait = true ∧ q.pc = pc)) →
      ∃ t w', exec (.joinComplete c slot m) s = .next t ∧ { t with blocks := s.blocks } = s ∧ t.warp? c slot m = some w'
        ∧ groupMerged w w' pc d)
  ∧ (∀ (s : State) (c slot m k : Nat) (w : Warp) (p : Split), s.warp? c slot m = some w → w.splits[k]? = some p →
    p.valid = true → p.jwait = true → (2 ≤ p.jdue ∨ (p.jdue = 1 ∧ mayArrive s c w = false)) →
    (∃ q ∈ w.splits, q.valid = true ∧ q.jwait = false ∧ ∀ r ∈ w.splits, r.valid = true → r.depth ≤ q.depth) →
      ∃ t w', exec (.joinTimeout c slot m k) s = .next t ∧ { t with blocks := s.blocks } = s ∧ t.warp? c slot m = some w'
        ∧ groupMerged w w' p.pc p.depth)
  ∧ (∀ (s : State) (gk gang : Nat),
    let here (b : Block) : Prop := b.grid = gk ∧ b.gang = BitVec.ofNat 32 gang
    (∃ p ∈ s.blocks, here p.2 ∧ p.2.atGang = true) → (∀ p ∈ s.blocks, here p.2 → p.2.awaited = true → p.2.atGang = true) →
    savedAwaited s gk (BitVec.ofNat 32 gang) = false →
      ∃ t, exec (.gangPhaseComplete gk gang) s = .next t
        ∧ (∃ p ∈ s.blocks, here p.2
          ∧ { t with blocks := s.blocks } = gangOrder s p.2.asid (gangCores s gk (BitVec.ofNat 32 gang)))
        ∧ ∀ k b, s.blocks.get? k = some b → ∃ b', t.blocks.get? k = some b'
          ∧ (here b → b.atGang = true → b'.gcountG = b.gcountG + 1 ∧ b'.gcountB = b.gcountB
              ∧ ∃ i, b.blockInst = some i ∧ barPassed b b' i)
          ∧ (¬(here b ∧ b.atGang = true) → b' = b))
  ∧ (∀ (s : State) (asid : Nat) (cs : List Nat), (cs.length ≤ 1 → gangOrder s asid cs = s)
    ∧ ∀ c ∈ cs, ∀ c' ∈ cs, 1 < cs.length →
      let t := gangOrder s asid cs
      (t.core c).pts = (t.core c').pts ∧ (∀ a x, (t.core c).l1d.get? a = some x → x.dirty = 0#32)
      ∧ ∀ p ∈ (t.core c).mshr, ∀ q m d, p.2 ≠ .write q m d)
  ∧ (∀ (s : State) (d : Nat), d < 6 →
    let x := s.die d
    let now := s.kalends.toNat
    ∃ t, exec (.leaveGrant d) s = .next t ∧ { t with dies := s.dies, cores := s.cores } = s
      ∧ (∀ j, j ≠ d → t.die j = s.die j) ∧ (t.die d).budget = x.budget ∧ (t.die d).ramp = x.ramp
      ∧ ((t.die d).inuse = x.inuse ∨ (t.die d).inuse ≤ x.budget
          ∨ ∃ q ∈ x.reqs, x.budget < q.cost ∧ (t.die d).inuse = q.cost)
      ∧ (rampUsed (t.die d) now = rampUsed x now ∨ rampUsed (t.die d) now ≤ x.ramp)
      ∧ ∀ q r, leaveOrder x.reqs = q :: r → (mayGrant x now q = false → (t.die d).inuse = x.inuse)
          ∧ (mayGrant x now q = true → q.pc.toNat < regainPc →
              ((t.die d).reqs.any fun u => u.mine q.core q.slot q.warp q.pc && u.granted) = true))
  ∧ ∀ (s : State) (d : Nat), d < 6 → ∃ t, exec (.leaveAgeing d) s = .next t ∧ { t with dies := s.dies } = s
    ∧ (∀ j, j ≠ d → t.die j = s.die j) ∧ { (t.die d) with reqs := (s.die d).reqs } = s.die d
    ∧ ∀ (i : Nat) (q : LeaveReq), (s.die d).reqs[i]? = some q → ∃ (q' : LeaveReq), (t.die d).reqs[i]? = some q'
        ∧ { q' with aged := q.aged } = q
        ∧ (q.granted = true → q' = q)
        ∧ (q.granted = false → q'.eff = min 7 (q.prio + (s.kalends.toNat - q.since) / 4000))

/-- 03 R50, R52 to R57, R64 to R70: the homes of pipes: blocks of numbers are granted, arrive and go back void; merged frees are
counted; a commit fills its number; the end-of-stream header closes; retained slots are rewritten or discarded; slots spill and
come back; a pod-scope pipe is matched, mirrored, freed, lost or rejected. -/
def Obligations.PipeHomeEvents : Prop :=
  let gone (p : Pipe) (n : Nat) : Prop := p.st? n = some .void ∨ p.st? n = some .freed ∨ p.st? n = none
  (∀ (s : State) (c key : Nat) (p : Pipe), s.pipes.get? key = some p → p.closed = false →
    ((s.core c).grant key).asked = false → ((s.core c).grant key).coming = [] → boundProducer s c key = true →
    ((s.core c).grant key).nums.length ≤ p.grantSize / 2 → (s.core c).assignsNothing = false →
      ∃ t p', exec (.grantRequest c key) s = .next t ∧ { t with pipes := s.pipes, cores := s.cores } = s
        ∧ (∀ j, j ≠ key → t.pipes.get? j = s.pipes.get? j) ∧ (∀ d, d ≠ c → t.core d = s.core d)
        ∧ t.pipes.get? key = some p' ∧ p'.base = p.base ∧ p'.nextGrant = p.nextGrant + min p.free p.grantSize
        ∧ ((t.core c).grant key).nums = ((s.core c).grant key).nums
        ∧ ((t.core c).grant key).coming = (List.range (min p.free p.grantSize)).map (p.nextGrant + ·)
        ∧ (∀ i, i < min p.free p.grantSize → p'.st? (p.nextGrant + i) = some (.granted c))
        ∧ (p.free = 0 → ((t.core c).grant key).asked = true ∧ c ∈ p'.wanted))
  ∧ (∀ (s : State) (c key : Nat), ((s.core c).grant key).coming ≠ [] →
    ∃ t, exec (.grantBlockArrival c key) s = .next t ∧ { t with cores := s.cores } = s ∧ (∀ d, d ≠ c → t.core d = s.core d)
      ∧ { t.core c with grants := (s.core c).grants } = s.core c
      ∧ ((t.core c).grant key).nums = ((s.core c).grant key).nums ++ ((s.core c).grant key).coming
      ∧ ((t.core c).grant key).coming = [] ∧ ((t.core c).grant key).last = s.kalends.toNat)
  ∧ (∀ (s : State) (c key : Nat) (p : Pipe), s.pipes.get? key = some p →
    (s.passed ((s.core c).grant key).last < 2000 → exec (.grantReturnTimeout c key) s = .next s)
    ∧ (2000 ≤ s.passed ((s.core c).grant key).last → ∃ t p', exec (.grantReturnTimeout c key) s = .next t
        ∧ ((t.core c).grant key).nums = [] ∧ t.pipes.get? key = some p' ∧ t.mem = s.mem
        ∧ ∀ n ∈ ((s.core c).grant key).nums, n < p.nextGrant → gone p' n))
  ∧ (∀ (s : State) (c key : Nat) (p : Pipe) (f : FreeAcc), s.pipes.get? key = some p → (s.core c).frees.get? key = some f →
    ∃ t, exec (.freeReportFlush c key) s = .next t ∧ { t with pipes := s.pipes, cores := s.cores } = s
      ∧ (t.core c).frees.get? key = none ∧ t.pipes.get? key = some { p with freeing := p.freeing ++ f.seqs })
  ∧ (∀ (s : State) (key : Nat) (p : Pipe), s.pipes.get? key = some p → p.freeing ≠ [] →
    ∃ q, exec (.freeReport key) s = .next (tellFrees (putPipe s key q) key p.base) ∧ q.freeing = [] ∧ p.base ≤ q.base
      ∧ q.frees = p.frees + BitVec.ofNat 48 p.freeing.length ∧ q.nextGrant = p.nextGrant
      ∧ ∀ n ∈ p.freeing, q.st? n = some .freed ∨ q.st? n = none)
  ∧ (∀ (s : State) (key n : Nat) (r : List Nat) (p : Pipe), s.pipes.get? key = some p → p.inflight = n :: r → n < p.nextGrant →
    ∃ u p', exec (.commitAtHome key) s = .next (mirrorAll u key) ∧ (p.scope ≠ 2 → mirrorAll u key = u) ∧ u.mem = s.mem
      ∧ u.pipes.get? key = some p' ∧ p'.st? n = some .filled ∧ p'.commits = p.commits + 1 ∧ n ∉ p'.inflight)
  ∧ (∀ (s : State) (key : Nat) (p : Pipe), s.pipes.get? key = some p → p.closed = true → p.eosSeq = none →
    p.settledBelow = true → 0 < p.free →
      ∃ u p' x, exec (.eosHeader key) s = .next (settleGrids (mirrorAll u key)) ∧ u.pipes.get? key = some p'
        ∧ p'.eosSeq = some p.nextGrant ∧ p'.nextGrant = p.nextGrant + 1 ∧ p'.slots.get? p.nextGrant = some x ∧ x.st = .filled
        ∧ bit x.hdr 160 = true ∧ bits x.hdr 64 48 = p.nextGrant % 2 ^ 48 ∧ bits x.hdr 128 21 = 0
        ∧ (p'.eos = false → headerStamp x.hdr = p.finalStamp)
        ∧ (p.eos = false → p'.eos = true → headerStamp x.hdr = p'.lastStamp))
  ∧ (∀ (p : Pipe) (n : Nat), p.base ≤ n + 2 ^ 47 → n < p.base + 2 ^ 47 → p.lift (n % 2 ^ 48) = n)
  ∧ (∀ (s : State) (key m n : Nat) (h : List Byte) (p : Pipe), s.pipes.get? key = some p → p.lift m = n →
    p.st? n = some .retained → n < p.nextGrant → p.eosSeq ≠ some n →
      (∃ t p' x, exec (.retainedSlotRewrite key m h) s = .next t ∧ t.pipes.get? key = some p' ∧ p'.slots.get? n = some x
        ∧ x.st = .filled ∧ x.hdr = BitVec.ofNat 512 (ofBytes h) ∧ p'.commitQ.getLast? = some n ∧ t.mem = s.mem)
      ∧ ∃ u p', exec (.retainedSlotDiscard key m) s
          = .next (hostEvent (settleGrids u) (some (pipeAsid key)) 0x145 (n % 2 ^ 48) (0x1F * 2 ^ 22))
        ∧ u.pipes.get? key = some p' ∧ gone p' n ∧ n ∉ p'.commitQ)
  ∧ (∀ (s u : State) (key m n : Nat) (p : Pipe) (x : Slot) (rs : List (Nat × Nat)), s.pipes.get? key = some p →
    p.lift m = n → p.slots.get? n = some x → n ∉ p.spillWait →
      (x.st = .filled → x.spilled = false → n ∉ p.residentNums → p.eosSeq ≠ some n →
        p.rangesOf s (pipeAsid key) n p.ssize .engWrite = (.ok rs, u) →
        ∃ t, exec (.spillWrite key m) s = .next (mirrorAll (wakeRefills t key) key)
            ∧ { t with pipes := u.pipes } = (rangeLines rs).foldl cleanLine u
          ∧ t.pipes.get? key = (u.pipes.get? key).map fun p =>
            { p.modSlot n (fun x => { x with hdr := markSpilled x.hdr, spilled := true }) with spills := p.spills + 1 })
      ∧ (x.spilled = true → (∃ a b, x.st = .held a b ∨ x.st = .item a b) →
        p.rangesOf s (pipeAsid key) n p.ssize .engRead = (.ok rs, u) →
        ∃ t, exec (.spillFetch key m) s = .next t
          ∧ t.pipes.get? key = (u.pipes.get? key).map fun p => p.modSlot n fun x => { x with spilled := false }))
  ∧ (∀ (s : State) (key : Nat) (data : List Byte) (p : Pipe), s.pipes.get? key = some p → p.scope = 2 → p.matched = true →
    exec (.mirrorTransfer key [] data) s = .next (closePipe s key))
  ∧ (∀ (s u : State) (key : Nat) (header data : List Byte) (p : Pipe) (rs : List (Nat × Nat)), s.pipes.get? key = some p →
    p.scope = 2 → p.matched = true → p.nearSide = false → header ≠ [] →
    let hdr := BitVec.ofNat 512 (ofBytes header)
    let n := p.lift (bits hdr 64 48)
    p.st? n = none → p.base ≤ n → bit hdr 161 = false → bit hdr 160 = false →
    p.rangesOf (s.modPipe key fun p => { p with peerLost := false }) (pipeAsid key) n data.length .engWrite = (.ok rs, u) →
      ∃ q x, exec (.mirrorTransfer key header data) s = .next (putPipe (putRanges u rs data p.ets).2 key q)
        ∧ q.slots.get? n = some x ∧ x.st = .filled ∧ x.hdr = hdr ∧ x.cts = (putRanges u rs data p.ets).1 ∧ q.ets = x.cts
            ∧ q.commits = p.commits + 1 ∧ q.commitQ = p.commitQ ++ [n]
        ∧ n < q.nextGrant ∧ q.peerLost = false)
  ∧ (∀ (s : State) (key count : Nat) (p : Pipe), s.pipes.get? key = some p → p.scope = 2 → p.nearSide = true →
    ∃ q, exec (.mirrorFree key count) s = .next (putPipe s key q) ∧ q.peerLost = false ∧ p.base ≤ q.base
      ∧ (p.base + count ≤ p.nextGrant → p.base + count ≤ q.base) ∧ q.nextGrant = p.nextGrant)
  ∧ (∀ (s : State) (key : Nat) (p : Pipe) (a : Almanac), s.pipes.get? key = some p →
    alm? s (pipeAsid key) (pipeAlm key) = some a →
      (p.scope = 2 → p.matched = false → 100000000 ≤ s.passed p.born →
        ∃ v, exec (.peerMatchTimeout key) s = .next (dropAlm v (pipeAsid key) (pipeAlm key) a)
          ∧ (a.pkt ∉ a.drainers → ∀ k, (a.stages.foldl killGrid s).pkts.get? a.pkt = some k → v.pkts.get? a.pkt
              = some { k with st := .ended 0x1E4, offset := 128 + 64 * (a.stages.length + pipeIdx key) + 0x28 }))
      ∧ (p.scope ≠ 2 ∨ p.matched = true ∨ s.passed p.born < 100000000 → exec (.peerMatchTimeout key) s = .next s))
  ∧ (∀ (s : State) (key : Nat) (ds : List Byte) (p : Pipe), s.pipes.get? key = some p → p.scope = 2 →
    (p.agrees s key (wordsOf 8 ds) = true → ∃ u, exec (.pipePeerMatch key ds) s = .next (mirrorAll u key)
      ∧ { u with pipes := s.pipes } = s ∧ u.pipes.get? key = some { p with matched := true, peerLost := false })
    ∧ (p.agrees s key (wordsOf 8 ds) = false → exec (.pipePeerMatch key ds) s = .next s))
  ∧ ∀ (s : State) (key : Nat) (p : Pipe), s.pipes.get? key = some p → p.scope = 2 → p.peerLost = false →
    ∃ u, exec (.pipePeerLost key) s = .next (hostEvent u (some (pipeAsid key)) 0x146 (pipeIdx key) (0x1F * 2 ^ 22))
      ∧ { u with pipes := s.pipes } = s ∧ u.pipes.get? key = some { p with peerLost := true }

/-- 01 R18; 08 R155, R160 to R165, R171, Table 8.8; 09 R184, R192; 12 R231: fills, masked writes and atomics at home keep the lease
rules; pts expires; a rebase lowers every timestamp and leaves no clean L1D word; ordered multicasts; accesses between devices. -/
def Obligations.MemorySystemEvents : Prop :=
  (∀ (s : State) (c a i asid : Nat), missOf s c a Miss.isFill = some (i, .fill asid) →
    let u := drainWrites (dropMiss s c i) c (some a) false
    ∃ t h, exec (.homeRead c a) s = .next t ∧ t.l2.get? a = some h ∧ h.cu = false
      ∧ (tsPlus h.wts (leaseOf u asid)).toNat ≤ h.rts.toNat ∧ (tsPlus (u.core c).pts (leaseOf u asid)).toNat ≤ h.rts.toNat
      ∧ (t.core c).mshr = (u.core c).mshr ++ [(a, .back h.data h.wts h.rts asid)] ∧ (t.core c).pts = (u.core c).pts)
  ∧ (∀ (s : State) (c a i asid : Nat) (d : Line) (w r : BitVec 20), missOf s c a Miss.isBack = some (i, .back d w r asid) →
    ∃ t x, exec (.fillResponse c a) s = .next t ∧ (t.core c).l1d.get? a = some x ∧ x.valid = BitVec.allOnes 32 ∧ x.lrts = r
      ∧ w.toNat ≤ (t.core c).pts.toNat
      ∧ ∀ k, k < 32 → x.dirty.getLsbD k = false → lineNum x.data (4 * k) 4 = lineNum d (4 * k) 4)
  ∧ (∀ (s : State) (c a : Nat) (m : BitVec 32) (x : L1Line), (s.core c).l1d.get? a = some x → x.dirty &&& m ≠ 0#32 →
    missFull s c = false →
      ∃ t, exec (.dirtyWriteHome c a m) s = .next t ∧ { t with cores := s.cores } = s ∧ (∀ d, d ≠ c → t.core d = s.core d)
        ∧ (t.core c).l1d.get? a = some { x with dirty := x.dirty &&& ~~~m }
        ∧ (t.core c).mshr = (s.core c).mshr ++ [(a, .write (lineAsid s c) (x.dirty &&& m) x.data)])
  ∧ (∀ (s : State) (c a i asid : Nat) (m : BitVec 32) (d : Line), missOf s c a Miss.isWrite = some (i, .write asid m d) →
    ∃ t h, exec (.homeWrite c a) s = .next t ∧ t.l2.get? a = some h ∧ h.dirty = true ∧ h.wts = h.rts ∧ (t.core c).pts = h.wts
      ∧ (s.core c).pts.toNat ≤ h.wts.toNat
      ∧ ∀ k, k < 32 → m.getLsbD k = true → lineNum h.data (4 * k) 4 = lineNum d (4 * k) 4)
  ∧ (∀ (s : State) (c a i asid o op v : Nat) (x : DWord), missOf s c a Miss.isAtomic = some (i, .atomic asid op o x) →
    o + atomicSize op ≤ 128 →
    atomicNew op (atomicHome (dropMiss s c i) c asid a o op x.toNat false).1 x.toNat = some v →
      ∃ t h, exec (.homeAtomic c a) s = .next t ∧ t.l2.get? a = some h ∧ h.dirty = true ∧ h.wts = h.rts
        ∧ (t.core c).pts = h.wts ∧ lineNum h.data o (atomicSize op) = v % 2 ^ (8 * atomicSize op))
  ∧ (∀ (s : State) (c : Nat), c < 768 →
    ((s.core c).ptsAt + 4096 ≤ s.cycle.toNat → ∃ t, exec (.ptsSelfExpiry c) s = .next t ∧ { t with cores := s.cores } = s
      ∧ (∀ d, d ≠ c → t.core d = s.core d)
      ∧ t.core c = { s.core c with pts := (s.core c).pts + 1, ptsAt := (s.core c).ptsAt + 4096 })
    ∧ (s.cycle.toNat < (s.core c).ptsAt + 4096 → exec (.ptsSelfExpiry c) s = .next s))
  ∧ (∀ (s : State), s.rebasing = false → (∃ t ∈ allStamps s, 0xC0000 ≤ t.toNat) →
    ∃ t, exec .rebase s = .next t ∧ t.mem = s.mem ∧ t.rebases = s.rebases + 1 ∧ t.rebasing = true
      ∧ (∀ c, (t.core c).pts.toNat = (s.core c).pts.toNat - 0x80000 ∧ (t.core c).scratch = (s.core c).scratch
          ∧ ∀ p ∈ (t.core c).l1d, p.2.valid &&& ~~~p.2.dirty = 0#32)
      ∧ (∀ a h, s.l2.get? a = some h → ∃ h', t.l2.get? a = some h' ∧ h'.wts.toNat = h.wts.toNat - 0x80000
          ∧ h'.rts.toNat = h.rts.toNat - 0x80000 ∧ { h' with wts := h.wts, rts := h.rts } = h)
      ∧ ∀ x ∈ allStamps t, x.toNat < 0x80000)
  ∧ (∀ (s : State), s.rebasing = true ∨ (∀ t ∈ allStamps s, t.toNat < 0xC0000) → exec .rebase s = .next s)
  ∧ (∀ (s : State) (slice : Nat), (∃ m ∈ s.mcasts, m.slice = some slice ∧ m.fwd = false) →
    ∃ (i : Nat) (m : Mcast) (t : State), s.mcasts[i]? = some m ∧ m.slice = some slice ∧ m.fwd = false
      ∧ exec (.multicastForward slice) s = .next t ∧ t.mcasts = s.mcasts.eraseIdx i ++ [{ m with fwd := true }]
      ∧ { t with mcasts := s.mcasts, draws := s.draws } = s)
  ∧ (∀ (s : State) (c : Nat), (∃ p ∈ s.mcasts.zipIdx, mcastReady s.mcasts p.2 c p.1 = true) →
    ∃ (i : Nat) (m : Mcast) (t : State), s.mcasts[i]? = some m ∧ mcastReady s.mcasts i c m = true
      ∧ exec (.multicastDelivery c) s = .next (dropDone t m.op)
      ∧ (∀ o, engOp? t m.op.1 m.op.2 = some o → o.complete = false → dropDone t m.op = t) ∧ (∀ j, j ≠ i →
          t.mcasts[j]? = s.mcasts[j]?)
      ∧ let v := s.draw.2
        (∀ e, mcastCause v c m = some e → { t with mcasts := s.mcasts } = v
          ∧ t.mcasts[i]? = some { m with dests := m.dests.filter (· != c), refused := m.refused ++ [(c, e)] })
        ∧ (mcastCause v c m = none → { t with mcasts := (mcastWrite v c m).mcasts } = mcastWrite v c m
          ∧ t.mcasts[i]? = some { m with dests := m.dests.filter (· != c) }))
  ∧ (∀ (s : State) (rank tag addr : Nat) (data : List Byte),
    let pa := addr % 2 ^ 40
    (∀ kind, s.boot ≠ .up → exec (.podRemoteAccess rank tag kind addr data) s = .next s)
    ∧ (s.boot = .up → (hbmEnd < pa + data.length →
        exec (.podRemoteAccess rank tag 1 addr data) s = .next (s.send (.remoteDone rank tag 0x082 [])))
    ∧ (pa + data.length ≤ hbmEnd → poisoned s pa data.length = true →
        exec (.podRemoteAccess rank tag 1 addr data) s = .next (s.send (.remoteDone rank tag 0x095 [])))
    ∧ (pa + data.length ≤ hbmEnd → poisoned s pa data.length = false → ∀ w u, writeHome s pa data s.remTs true = (w, u) →
        exec (.podRemoteAccess rank tag 1 addr data) s = .next (({ u with remTs := w }).send (.remoteDone rank tag 0 [])))
    ∧ (pa + (data.getD 0 0#8).toNat ≤ hbmEnd → poisoned s pa (data.getD 0 0#8).toNat = false →
        ∀ bs w u, readHome s pa (data.getD 0 0#8).toNat s.remTs = (bs, w, u) →
          exec (.podRemoteAccess rank tag 0 addr data) s = .next (({ u with remTs := w }).send (.remoteDone rank tag 0 bs))
            ∧ bs.length = (data.getD 0 0#8).toNat)
    ∧ (let n := (data.getD 1 0#8).toNat
      pa + n ≤ hbmEnd → poisoned s pa n = false → ∀ bs w u, readHome s pa n s.remTs = (bs, w, u) →
        let new := atomicNew (data.getD 0 0#8).toNat (ofBytes bs) (ofBytes ((data.drop 2).take 8))
        (new = none →
          exec (.podRemoteAccess rank tag 2 addr data) s = .next (({ u with remTs := w }).send (.remoteDone rank tag 0 bs)))
        ∧ ∀ v w' u', new = some v → writeHome { u with remTs := w } pa (toBytes n v) w true = (w', u') →
          exec (.podRemoteAccess rank tag 2 addr data) s = .next (({ u' with remTs := w' }).send (.remoteDone rank tag 0 bs)))))
  ∧ (∀ (s : State) (l : Nat), exec (.linkRetry l) s = .next s)
  ∧ (∀ (s : State) (tag d : Nat) (r : RemPend) (data : List Byte) (w : Warp), s.remPend.get? tag = some r → r.core ≠ cpCore →
    r.warp ≠ engineWarp → r.dst = [d] → r.size = 4 → r.signed = false → s.warp? r.core r.slot r.warp = some w →
    d < w.vregs.length → r.lane < 64 →
      ∃ t w', exec (.ualinkCompletion tag 0 data) s = .next (settleRemote t r.ins)
        ∧ (s.remIns.get? r.ins = none → settleRemote t r.ins = t)
        ∧ ((∃ p ∈ s.remPend, p.1 ≠ tag ∧ p.2.ins = r.ins ∧ p.2.warp ≠ engineWarp) → settleRemote t r.ins = t)
        ∧ { t with blocks := s.blocks, remPend := s.remPend, cores := s.cores } = s ∧ (r.acq = false → t.cores = s.cores)
        ∧ (r.acq = true → (podTs s).toNat ≤ (t.core r.core).pts.toNat) ∧ t.remPend.get? tag = none
            ∧ t.warp? r.core r.slot r.warp = some w'
        ∧ w'.v d r.lane = BitVec.ofNat 32 (ofBytes (data.take 4)) ∧ w'.sregs = w.sregs
        ∧ ∀ n l, (n ≠ d ∨ l ≠ r.lane) → l < 64 → w'.v n l = w.v n l)
  ∧ (∀ (s : State) (tag status : Nat) (r : RemPend) (data : List Byte), s.remPend.get? tag = some r → r.core ≠ cpCore →
    r.warp = engineWarp → status ≠ 0 →
      let t := opDone { s with remPend := s.remPend.del tag } r.core r.slot status
      exec (.ualinkCompletion tag status data) s = .next (if r.core < ioCore then freeOps t r.core else t))
  ∧ (∀ (s : State) (tag status : Nat) (r : RemPend) (i : RemIns) (data : List Byte) (w : Warp), s.remPend.get? tag = some r →
    r.core ≠ cpCore → r.warp ≠ engineWarp → status ≠ 0 → s.remIns.get? r.ins = some i →
    s.warp? r.core r.slot r.warp = some w →
      ∃ t w', exec (.ualinkCompletion tag status data) s = .next (settleRemote t r.ins)
        ∧ { t with blocks := s.blocks, remPend := s.remPend, remIns := s.remIns } = s ∧ t.remPend.get? tag = none
        ∧ t.remIns.get? r.ins = some { i with faults := i.faults ++ [(r.warp, r.lane, status % 2 ^ 9, r.va)] }
        ∧ t.warp? r.core r.slot r.warp = some w' ∧ w'.vregs = w.vregs ∧ w'.sregs = w.sregs)
  ∧ (∀ (s : State) (tag asid rank : Nat) (data : List Byte), s.remPend.get? tag = none → s.nsendAck.get? tag = none →
    s.nsendTo.get? tag = some (asid, rank) → exec (.ualinkCompletion tag 0x153 data) s
      = .next (hostEvent { s with nsendTo := s.nsendTo.del tag } (some asid) 0x153 rank 0))
  ∧ ∀ (s : State) (tag status v : Nat) (data : List Byte) (x : Vigil), s.remPend.get? tag = none → s.nsendAck.get? tag = some v →
    s.vigils.get? v = some x → s.nsendTo.get? tag = none →
      ∃ t, exec (.ualinkCompletion tag status data) s = .next t ∧ t.nsendAck.get? tag = none
        ∧ { t with nsendAck := s.nsendAck, vigils := s.vigils } = s ∧ t.vigils.get? v = some { x with ended := some status }

/-- 10 R199, R201, R202, R206; 11 R223; 12 R233; 14 R266 to R271, R277; 04 R453; 03 R67: firmware's answers: replay, deliver and
fail of an operand-log entry and of a record that no entry holds; resumption and delivery of engine, matrix, packet and pipe
accesses; the queue's tail; gathered dirty flags. -/
def Obligations.FaultServiceEvents : Prop :=
  (∀ (s : State) (c q j : Nat) (e : LogEntry) (b : Block) (op : MemOp), (s.core c).oplog.get? (logKey q j) = some e →
    s.block? c e.slot = some b → (decodeWord e.word).toOption.bind memOpOf = some op → e.members = [] → e.deferred = [] →
    e.busy = false →
    let out := runLanes c e.slot e.split b op e.hints s e.accs
    let v := writeVals c e.slot op out
    out.hits = [] →
      (out.trans = [] → out.bad = [] → out.ins = none → ∃ t n,
        exec (.oplogReplay c q j) s = .next (settleFaults t (e.at_ c) n [])
        ∧ ((∀ f ∈ (t.core c).oplog, (e.at_ c).logs f.2 = false) → (∀ i ∈ t.remIns, (e.at_ c).same i.2 = false) →
            settleFaults t (e.at_ c) n [] = t)
        ∧ { t with blocks := v.blocks, cores := v.cores, ctxs := v.ctxs } = v ∧ (t.core c).oplog.get? (logKey q j) = none
        ∧ ∀ w, v.warp? c e.slot e.warp = some w → t.warp? c e.slot e.warp = some (w.written (.log q j)))
      ∧ (∀ g, out.trans = [] → out.ins = some g → ∃ t, exec (.oplogReplay c q j) s = .next t
        ∧ (t.core c).oplog.get? (logKey q j) = some { e with deferred := dedup out.bad, busy := true }
        ∧ t.remIns.get? g = some { trapAt := e.at_ c, la := 0, faults := [], entry := some (q, j), runsOn := false }
        ∧ t.mem = v.mem)
      ∧ (∀ f r, out.trans = f :: r → out.ins = none → ∃ u ws,
          exec (.oplogReplay c q j) s = .next (queueRecord u b.asid ws (.log c q j))
        ∧ recField ws 0 0 9 = f.2.2.1 % 2 ^ 9 ∧ wordAt ws 2 = lanesMask (out.trans.map (·.2.1))
        ∧ (u.core c).oplog.get? (logKey q j)
            = some { e with lanes := lanesMask (out.trans.map (·.2.1)), cause := f.2.2.1, deferred := dedup out.bad }))
  ∧ (∀ (s : State) (c q j : Nat) (e : LogEntry) (b : Block) (op : MemOp), (s.core c).oplog.get? (logKey q j) = some e →
    s.block? c e.slot = some b → (decodeWord e.word).toOption.bind memOpOf = some op → e.busy = false →
      exec (.oplogFail c q j) s = .next (failBlock s c e.slot e.cause)
      ∧ (e.members = [] → (∀ f ∈ (s.core c).oplog, f.1 = logKey q j → f.2 = e) → j < 16 → e.deferred = [] → e.lanes ≠ 0#64 →
          e.warp < 32 → memoryCause e.cause = true →
        ∃ u z, exec (.oplogDeliver c q j) s = .next (deliverTrap u (e.at_ c) z e.cause) ∧ z.cause = e.cause ∧ z.resnext = true
          ∧ (u.core c).oplog.get? (logKey q j) = none ∧ u.mem = s.mem
          ∧ ∀ l, l < 64 → ((z.lanesOf e.warp).getLsbD l = true ↔ e.lanes.getLsbD l = true)))
  ∧ (∀ (s : State) (c q j : Nat) (e : LogEntry), (s.core c).oplog.get? (logKey q j) = some e → e.busy = true →
      exec (.oplogReplay c q j) s = .next s ∧ exec (.oplogDeliver c q j) s = .next s ∧ exec (.oplogFail c q j) s = .next s)
  ∧ (∀ (s : State) (c q n asid c' slot m k : Nat) (r : FaultRec), unanswered s (awaitsAnswer c q n) = some (asid, r) →
    r.who = .trap c' slot m k →
    let u := dropRecord s asid r.rseq
    exec (.recordReplay c q n) s = .next (resumeTrap u c' slot m k r.pc (bit (wordAt r.words 0) 31))
      ∧ exec (.recordFail c q n) s = .next (failBlock u c' slot r.cause)
      ∧ ∀ b w, s.block? c' slot = some b → s.warp? c' slot m = some w →
        let z : TrapReq := { cause := r.cause, delivered := memoryCause r.cause, resnext := true }
        (toHandler b w z = false → exec (.recordDeliver c q n) s = .next (failBlock u c' slot r.cause))
        ∧ (toHandler b w z = true → r.words.length = 8 → ∃ t w' h, exec (.recordDeliver c q n) s = .next t
            ∧ { t with blocks := s.blocks, ctxs := s.ctxs } = s ∧ t.warp? c' slot m = some w' ∧ w'.suspended = false
            ∧ w'.frozen.isSome = true ∧ w'.vregs = w.vregs ∧ w'.sregs = w.sregs
            ∧ wordAt w'.tctx 0 = wordAt r.words 0 ||| 0x80000000#64
            ∧ (∀ i, i ≠ 0 → i ≠ 5 → wordAt w'.tctx i = wordAt r.words i)
            ∧ w'.splits = h :: List.replicate 7 Split.empty
            ∧ h.pc = b.kernel.entry + BitVec.ofNat 64 (4 * bits b.kernel.trap 0 24)))
  ∧ (∀ (s : State) (c slot m k : Nat) (pc : BitVec 64) (past : Bool) (b : Block) (w : Warp) (p : Split), s.block? c slot = some b →
    s.warp? c slot m = some w → w.trapMembers = [] → w.splits[k]? = some p →
      ∃ w' p', (resumeTrap s c slot m k pc past).warp? c slot m = some w' ∧ w'.suspended = false ∧ w'.rftWait = false
        ∧ w'.splits[k]? = some p' ∧ p'.pc = resumeAt s b.asid (if past then pc + 4#64 else pc) ∧ p'.hints = [] ∧ p'.hist = []
        ∧ w'.vregs = w.vregs ∧ w'.sregs = w.sregs ∧ w'.live = w.live
        ∧ { resumeTrap s c slot m k pc past with blocks := s.blocks } = s)
  ∧ (∀ (s : State) (c q n asid c' slot m k : Nat) (r : FaultRec) (todo : Mask) (p : Split),
    unanswered s (awaitsAnswer c q n) = some (asid, r) → r.who = .noLog c' slot m k todo → s.split? c' slot m k = some p →
    p.awaits r.pc = true →
      (∃ t, exec (.recordReplay c q n) s = .next t ∧ { t with blocks := s.blocks, ctxs := s.ctxs } = s
        ∧ t.split? c' slot m k = some { p with faultWait := false })
      ∧ exec (.recordFail c q n) s = .next (failBlock (dropRecord s asid r.rseq) c' slot r.cause)
      ∧ ∃ u a z, exec (.recordDeliver c q n) s = .next (deliverTrap u a z r.cause) ∧ a.core = c' ∧ a.slot = slot ∧ a.split = k
        ∧ a.pc = r.pc ∧ u.mem = s.mem)
  ∧ (∀ (s : State) (c n asid e : Nat) (r : FaultRec) (k : BitVec 32), unanswered s (unitRecord c n) = some (asid, r) →
    r.who = .engine c e k → stillWaits s c e k = false →
      exec (.engineFaultDeliver c n) s = .next (dropRecord s asid r.rseq)
        ∧ exec (.engineFaultResume c n) s = .next (dropRecord s asid r.rseq))
  ∧ (∀ (s : State) (c n asid e : Nat) (r : FaultRec) (o : OpEntry), unanswered s (unitRecord c n) = some (asid, r) →
    r.who = .engine c e o.serial → c < ioCore → s.op? c e = some o → o.suspended = true → o.kind ≠ .matrix →
      exec (.engineFaultDeliver c n) s = .next (opDone (dropRecord s asid r.rseq) c e r.cause)
      ∧ ∃ t, exec (.engineFaultResume c n) s = .next t ∧ { t with cores := s.cores, ctxs := s.ctxs } = s
        ∧ t.op? c e = some { o with suspended := false } ∧ ∀ x ∈ (t.ctx asid).records, ¬(x.written = true ∧ x.rseq = r.rseq))
  ∧ (∀ (s : State) (n asid k : Nat) (r : FaultRec) (p : Packet), unanswered s (unitRecord cpCore n) = some (asid, r) →
    r.who = .packet k → s.pkts.get? k = some p → p.kind ≠ 0 →
      (∃ t, exec (.engineFaultResume cpCore n) s = .next t ∧ { t with pkts := s.pkts, ctxs := s.ctxs } = s
        ∧ t.pkts.get? k = some { p with waiting := false })
      ∧ ∃ t, exec (.engineFaultDeliver cpCore n) s = .next t ∧ { t with pkts := s.pkts, ctxs := s.ctxs } = s
        ∧ t.pkts.get? k = some { p with waiting := false, fault := some (r.cause, recField r.words 1 0 56) })
  ∧ (∀ (s : State) (n asid key seq : Nat) (r : FaultRec) (p : Pipe), unanswered s (unitRecord pipeCore n) = some (asid, r) →
    r.who = .pipe key seq → s.pipes.get? key = some p →
      ∃ t, exec (.engineFaultResume pipeCore n) s = .next t ∧ { t with pipes := s.pipes, ctxs := s.ctxs } = s
        ∧ t.pipes.get? key = some { p with spillWait := p.spillWait.filter (· != seq) })
  ∧ (∀ (s : State) (c n asid e : Nat) (x : Ctx) (r : FaultRec) (o : OpEntry), s.ctxs.get? asid = some x → r ∈ x.records →
    matrixRecord s c n r = true → (∀ p ∈ s.ctxs, ∀ q ∈ p.2.records, matrixRecord s c n q = true → p = (asid, x)) →
    (∀ q ∈ x.records, q.written = true → q.rseq.toNat = n → q = r) → r.who = .engine c e o.serial → s.op? c e = some o →
    o.suspended = true → c < ioCore →
      ∃ t, exec (.matrixFaultResume c n) s = .next t ∧ { t with cores := s.cores, ctxs := s.ctxs } = s
        ∧ t.op? c e = some { o with suspended := false } ∧ r ∉ (t.ctx asid).records)
  ∧ (∀ (s : State) (asid : Nat) (tail : BitVec 32), ∃ t, exec (.faultQueueTailWrite asid tail) s = .next t
    ∧ (t.ctx asid).fqTail = tail ∧ ((t.ctx asid).fqFull = true ∨ ∀ r ∈ (t.ctx asid).records, r.written = true)
    ∧ ((∀ r ∈ (s.ctx asid).records, r.written = true) → { t with ctxs := s.ctxs } = s
        ∧ t.ctx asid = { s.ctx asid with fqTail := tail }))
  ∧ ∀ (s : State) (c k : Nat) (e : TlbEntry), (s.core c).dtlb[k]? = some e →
    ((e.dirtied = false ∨ s.passed e.dirtySince < 1000000) → exec (.dirtyFlagTimeout c k) s = .next s)
    ∧ (e.dirtied = true → 1000000 ≤ s.passed e.dirtySince → ∃ t, exec (.dirtyFlagTimeout c k) s = .next t
        ∧ { t with cores := (pteOr s e.pteAddr 0x40).cores } = pteOr s e.pteAddr 0x40
        ∧ (t.core c).dtlb[k]? = some { e with dirtied := false }
        ∧ ∀ d, d ≠ c → t.core d = (pteOr s e.pteAddr 0x40).core d)

/-- 11 R213 to R220; 12 R226 to R233; 13 R243, R248, R252 to R256: engines accept records or end operations with their status; a
K-step adds every K-group to every accumulator element; epilogues, copies and gathers go on to their end; counters, vigils,
transfers in chunks, and descriptors of other devices. -/
def Obligations.EngineEvents : Prop :=
  (∀ (s u : State) (c e : Nat) (op o : OpEntry) (ws : List DWord), c < ioCore → s.op? c e = some op → op.accepted = false →
    op.complete = false → op.suspended = false → acceptFirst s c e op = true → u.op? c e = some o →
    let kept (i : Nat) : State := u.modOp c e fun o => { o with record := withStampWord i op ws, got := [] }
    let accepts (i : Nat) : Prop := ∃ t, exec (.engineAccept c e) s = .next t ∧ { t with cores := u.cores } = u
      ∧ t.op? c e = some { o with record := withStampWord i op ws, got := [], accepted := true }
    (op.kind = .copy → readRecord s c e op 8 = (.ok ws, u) →
      (shapeCause (kept 3) op.asid (withStampWord 3 op ws) (op.warp == 0x1F) = none → accepts 3)
      ∧ ∀ k, shapeCause (kept 3) op.asid (withStampWord 3 op ws) (op.warp == 0x1F) = some k →
        exec (.engineAccept c e) s = .next (opDone (kept 3) c e k))
    ∧ ∀ g, op.kind = .gather g → readRecord s c e op 8 = (.ok ws, u) →
      (gatherCause (kept 6) op.asid (withStampWord 6 op ws) = none → accepts 6)
      ∧ ∀ k, gatherCause (kept 6) op.asid (withStampWord 6 op ws) = some k →
        exec (.engineAccept c e) s = .next (opDone (kept 6) c e k))
  ∧ (∀ (s u : State) (c e : Nat) (op o : OpEntry) (ws : List DWord) (b : Block), nextAccept s c = some e →
    s.op? c e = some op → op.suspended = false →
    readRecord s c e op 16 = (.ok ws, u) → u.op? c e = some o → u.block? c op.slot = some b →
    let card := withStampWord 5 op ws;
      (∀ k, cardCause b card = some k → exec (.matrixAccept c) s
        = .next (opDone (u.modOp c e fun o => { o with record := card, got := [] }) c e k))
      ∧ (cardCause b card = none → (cardOf card).ekind ≠ 3 → ∃ t, exec (.matrixAccept c) s = .next t
          ∧ { t with cores := u.cores } = u
        ∧ t.op? c e = some { o with record := card, got := [], accepted := true, pq := none, cur := (cardOf card).ctile0 }))
  ∧ (∀ (s u : State) (c e : Nat) (op : OpEntry) (m : MxClass) (b : Block) (as bs : List (List FVal)) (rs : List (Scales × Scales)),
    matrixRunner s c = some (e, op) → opBlock s c op = some b →
    let z := cardOf op.record
    let tile := b.tileBase + op.cur
    let need := if z.scaled then 2 * m.groups else 0
    let start := z.zeroc && (List.range z.elev).all (fun j => op.ix j == 0)
    let a := if start then zeroTile s c tile else s
    let spare := (op.nestDone || !z.scaled) && decide (op.sused + op.surplus < z.srec)
    mxClass z.afmt = some m →
      (start = true → ∀ i j, i < 128 → j < 128 → unitElem a c tile i j = 0#32)
      ∧ (spare = true → exec (.kStep c) s = .next (readOver s c e op z))
      ∧ (spare = false → stepWaits s c e op z b = true → exec (.kStep c) s = .next s)
      ∧ (spare = false → stepWaits s c e op z b = false →
        (z.srec < op.sused + need →
          exec (.kStep c) s = .next (if op.sused + op.surplus < z.srec then readOver a c e op z else opDone a c e 0x104))
        ∧ (op.sused + need ≤ z.srec → readStep a c e op z m = (.ok (as, bs, rs), u) →
          exec (.kStep c) s = .next (applyStep u c e op z m b as bs rs)))
      ∧ (Mem.wf (u.core c).tiles = true →
        let v := kstepTile u c tile z.flush (m.k / m.groups) as bs rs
        ∀ i j, i < 128 → j < 128 → unitElem v c tile i j
          = rs.zipIdx.foldl (fun acc r => accumulate z.flush acc
              (((as.getD i []).drop (r.2 * (m.k / m.groups))).take (m.k / m.groups))
              (((bs.getD j []).drop (r.2 * (m.k / m.groups))).take (m.k / m.groups)) (r.1.1.getD i 0x7F) (r.1.2.getD j 0x7F))
            (unitElem u c tile i j)))
  ∧ (∀ (s u v : State) (c e sp a k : Nat) (q : Option (Nat × Nat)) (op : OpEntry) (b : Block), matrixHead s c = some (e, op) →
    op.epend = true → opBlock s c op = some b →
    let z := cardOf op.record
    let tile := b.tileBase + op.epCur
    (op.epOut = true → exec (.epilogue c) s = .next (endEpilogue s c e))
    ∧ (op.epOut = false →
      (epDest s c e op.atEpilogue z = (.ends k, u) → exec (.epilogue c) s = .next (opDone u c e k))
      ∧ (epDest s c e op.atEpilogue z = (.waits, u) → exec (.epilogue c) s = .next u)
      ∧ (epDest s c e op.atEpilogue z = (.to_ sp a q, u) →
        let w := settleTile u c tile
        let acc := outAccesses a (outImage w c tile z (virtOf op.record).seed)
        checkOut w c e op sp acc = (true, v) → exec (.epilogue c) s
          = .next (endEpilogue ((writeOut v c e op sp acc).modOp c e fun o => { o with epOut := true }) c e))))
  ∧ (∀ (s : State) (c e : Nat) (op : OpEntry), s.op? c e = some op →
    (engRemote s c e = true → endEpilogue s c e = s)
    ∧ (engRemote s c e = false → op.pq = none →
      let t := s.modOp c e fun o => { o with epend := false, epOut := false }
      endEpilogue s c e = if op.cancelled then opDone t c e 0x108 else matrixTail t c e))
  ∧ (∀ (s u : State) (c e : Nat) (op : OpEntry), c < ioCore → s.op? c e = some op → copyRuns s c e op = true → op.next ≠ 0 →
    let z := shapeOf op.record
    z.mcast = false →
      (z.count ≤ op.next → engRemote s c e = false → exec (.copyComplete c e) s = .next (opDone s c e 0))
      ∧ (op.next + 1 = z.count → moveElement s c e op z op.next = (true, u) → exec (.copyComplete c e) s
        = .next (copyEnd (engCount (modEng u c e fun o => { o with next := op.next + 1 }) c op.asid 1) c e z)))
  ∧ (∀ (s u : State) (c e : Nat) (op : OpEntry) (r : GroupOut), c < ioCore → s.op? c e = some op → gatherRuns s c e op = true →
    let z := gatherOf op.record
    let a := if op.next = 0 && op.gdone == 0#64 then engAcquire s c e z.acq else s
    gatherGroup c e z op.next a op.gdone = (r, u) →
    let kept := u.modOp c e fun o => { o with gdone := r.done };
      (∀ k, r.ends = some k → exec (.gatherGroup c e) s = .next (opDone (kept.modOp c e fun o => { o with pmask := r.done }) c e k))
      ∧ (r.ends = none → r.waits = false → r.fault = none →
        let w := kept.modOp c e fun o => { o with next := op.next + 1, gdone := 0, got := [] }
        exec (.gatherGroup c e) s = .next (if z.count ≤ 64 * (op.next + 1) then opDone w c e 0 else w))
      ∧ (r.ends = none → r.waits = false → ∀ k kind va, r.fault = some (k, kind, va) → exec (.gatherGroup c e) s
        = .next (engSuspend (kept.modOp c e fun o => { o with pmask := r.done }) c e k kind va)))
  ∧ (∀ (s : State) (c e k : Nat) (op o : OpEntry), c < ioCore → s.op? c e = some op → op.complete = false →
    (opDone s c e k).op? c e = some o → o.complete = true ∧ o.status = k)
  ∧ (∀ (s : State) (i k n : Nat), s.flits[i]? = some (k, n) → ∃ t, exec (.triggerFlit i) s = .next t
    ∧ { t with flits := s.flits, counters := s.counters, vigils := s.vigils, firing := s.firing } = s
    ∧ t.flits = s.flits.eraseIdx i ∧ t.counters.getD k 0#64 = s.counters.getD k 0#64 + BitVec.ofNat 64 n
    ∧ (∀ j, j ≠ k → t.counters.getD j 0#64 = s.counters.getD j 0#64)
    ∧ ∀ v x, s.vigils.get? v = some x → x.st = .armed → x.ctr = k → meets (t.counters.getD k 0#64) (wordAt x.words 1) = true →
        v ∈ t.firing ∧ t.vigils.get? v = some { x with st := .firing, fireTs := x.acquired (s.ctrTs.getD k 0#20) })
  ∧ (∀ (s : State) (v : Nat) (x : Vigil), s.firing = [v] → s.vigils.get? v = some x →
    let u := { s with firing := [], vigils := s.vigils.put v { x with st := .running } };
      ((x.counters.all fun q => ownsCounter s x.asid q) = false → exec .vigilStart s = .next (endVigil u v 0x14A))
      ∧ ((x.counters.all fun q => ownsCounter s x.asid q) = true → (x.field 0 12 4 = 0 →
          exec .vigilStart s = .next (startVigilXfer u v x))
      ∧ (x.field 0 12 4 = 1 → descMalformed s.rank (x.words.drop 4) = true → exec .vigilStart s = .next (endVigil u v 0x14F))
      ∧ (x.field 0 12 4 = 1 → descMalformed s.rank (x.words.drop 4) = false →
        exec .vigilStart s = .next (nsendSend u x.asid (x.words.drop 4) (wordAt x.words 2) (some v) x.fireTs))
      ∧ (x.field 0 12 4 = 2 → ∃ t, exec .vigilStart s = .next t ∧ t.mem = s.mem
        ∧ t.counters.getD (x.field 3 0 12) 0#64 = s.counters.getD (x.field 3 0 12) 0#64 + wordAt x.words 4
        ∧ t.vigils.get? v = some { x with st := .running, ended := some 0 })
      ∧ (3 ≤ x.field 0 12 4 → x.field 3 0 14 ≠ v →
        (∀ y, s.vigils.get? (x.field 3 0 14) = some y → y.st = .parked → ∃ t, exec .vigilStart s = .next t
            ∧ t.counters = s.counters
          ∧ t.vigils.get? v = some { x with st := .running, ended := some 0 }
          ∧ ∃ z, t.vigils.get? (x.field 3 0 14) = some z ∧ (z.st = .armed ∨ z.st = .firing) ∧ z.words = y.words)
        ∧ ((s.vigils.get? (x.field 3 0 14)).all (fun y => y.st != .parked) = true → ∃ t, exec .vigilStart s = .next t
          ∧ t.counters = s.counters ∧ t.vigils.get? v = some { x with st := .running, ended := some 0x14E }))))
  ∧ (∀ (s : State) (v k : Nat) (x : Vigil), s.vigils.get? v = some x →
    (x.outcome = none → exec (.vigilComplete v) s = .next s)
    ∧ (x.outcome = some k → k ≠ 0 → exec (.vigilComplete v) s = .next (vigilRecord { s with vigils := s.vigils.del v } v x k))
    ∧ (x.outcome = some 0 → x.field 0 28 1 = 1 → ownsCounter s x.asid (x.field 0 16 12) = false →
        exec (.vigilComplete v) s = .next (vigilRecord { s with vigils := s.vigils.del v } v x 0x14A))
    ∧ (x.outcome = some 0 → (x.field 0 28 1 = 1 → ownsCounter s x.asid (x.field 0 16 12) = true) → ∃ t,
        exec (.vigilComplete v) s = .next t ∧ t.vigils.get? v = none ∧ t.mem = s.mem
      ∧ t.counters.getD (x.field 0 16 12) 0#64 = s.counters.getD (x.field 0 16 12) 0#64 + BitVec.ofNat 64 (x.field 0 28 1)
      ∧ ∀ j, j ≠ x.field 0 16 12 → t.counters.getD j 0#64 = s.counters.getD j 0#64))
  ∧ (∀ (s u : State) (c e rank n : Nat) (op o : OpEntry) (data : List Byte), engOp? s c e = some op → xferRuns op = true →
    nextChunk s op = some (rank, n) →
    let z := shapeOf op.record
    let q := xferOf op.record
    transmitUsed s + q.chunk ≤ collHalf →
    readImagePart s c e op z (n * q.chunk / z.esz) [] (chunkBytes z q n / z.esz) = (some data, u) → engOp? u c e = some o →
      ∃ t hdr o', exec (.chunkSend c e) s = .next t ∧ t.nextTag = u.nextTag + 1
        ∧ t.outbox = u.outbox ++ [.chunk rank u.nextTag hdr data] ∧ hdr.length = 64
        ∧ t.chunks.get? u.nextTag = some { core := c, entry := e, rank := rank, idx := n, bytes := q.chunk, serial := op.serial }
        ∧ engOp? t c e = some o' ∧ o'.sent = op.sent ++ [(rank, n)] ∧ o'.complete = o.complete)
  ∧ (∀ (s : State) (tag source : Nat) (header data : List Byte), header.length = 64 → source ≠ s.rank →
    (s.chunkSeen.contains (source, tag) = true → exec (.chunkArrival tag source header data) s = .next s)
    ∧ (s.chunkSeen.contains (source, tag) = false → receiveUsed s + data.length ≤ collHalf →
      (s.chunkWait.any fun w => w.1 == source && chunkOpWord w.2.2.1 == chunkOpWord header) = false →
      let a := { s with chunkSeen := s.chunkSeen ++ [(source, tag)] }
      let k := chunkOf source tag header data;
        (∀ u, performChunk k a = (true, u) → exec (.chunkArrival tag source header data) s = .next u)
        ∧ (∀ u, performChunk k a = (false, u) → exec (.chunkArrival tag source header data) s
            = .next { u with chunkWait := u.chunkWait ++ [(source, tag, header, data)] })
        ∧ (k.ctx s = none → exec (.chunkArrival tag source header data) s = .next (a.send (.chunkAck source tag 0x151)))))
  ∧ (∀ (s : State) (tag k : Nat) (o : ChunkOut) (op : OpEntry), s.chunks.get? tag = some o →
    engOp? s o.core o.entry = some op → op.serial = o.serial → op.kind = .xfer → op.complete = false →
    let u := { s with chunks := s.chunks.del tag };
      (k ≠ 0 → exec (.chunkAck tag k) s = .next (settleHolidays (opDone u o.core o.entry k)))
      ∧ (let v := modEng u o.core o.entry fun x => { x with acked := op.acked ++ [(o.rank, o.idx)] }
        exec (.chunkAck tag 0) s = .next (settleHolidays
          (if (allChunks s op).length ≤ op.acked.length + 1 then opDone v o.core o.entry 0 else v))))
  ∧ ∀ (s : State) (source ptag : Nat) (desc : List Byte), source ≠ s.rank → desc.length = 32 →
    (s.nsendWait.any fun w => w.source == source && w.ptag == ptag) = false →
    let ws := wordsOf 4 desc
    let k := recField ws 0 10 12;
      (s.ctrOwner.get? k = none → ∃ u, exec (.nsendArrival source ptag desc) s = .next (u.send (.nsendDone source ptag 0x151))
        ∧ u = hostEvent { s with nextTag := s.nextTag + 1 } none 0x151 k 0)
      ∧ (∀ o, s.ctrOwner.get? k = some o → o.valid = true → o.ptag.toNat = ptag → (s.ctx o.asid).ptag.toNat = ptag →
        recField ws 0 23 1 = 0 → ∃ t, exec (.nsendArrival source ptag desc) s = .next t ∧ t.mem = s.mem
          ∧ t.outbox = s.outbox ++ [.nsendDone source ptag 0]
          ∧ t.counters.getD k 0#64 = s.counters.getD k 0#64 + (if recField ws 0 22 1 = 1 then wordAt ws 1 else 0#64)
          ∧ ∀ j, j ≠ k → t.counters.getD j 0#64 = s.counters.getD j 0#64)

/-- 13 R258 to R261, Table 13.10: the steps of a holiday at a member and at its initiator, its end, its timeout, and the loss of a
peer. A member replies to PAUSE at once with its next chunk number, and to STOP once every chunk below N is acknowledged; after the
last reply the initiator goes on to the next step. -/
def Obligations.HolidayEvents : Prop :=
  (∀ (s : State) (coll source hseq : Nat) (g : CollGroup), collGroup s coll = some g → source ≠ s.rank →
    s.holidays.get? coll = none → source ∈ g.ranks → s.rank ∈ g.ranks →
      ∃ t h, exec (.holidayPause coll source hseq) s = .next t ∧ { t with holidays := s.holidays, outbox := s.outbox } = s
        ∧ t.outbox = s.outbox ++ [.holiday source coll hseq 1 (nextToStart s coll)] ∧ t.holidays.get? coll = some h
        ∧ h.initiator = source ∧ h.hseq = hseq ∧ h.stepNo = 1 ∧ h.waiting = []
        ∧ ∀ c, c ≠ coll → t.holidays.get? c = s.holidays.get? c)
  ∧ (∀ (s : State) (coll source hseq n : Nat) (h : Holiday), memberOf s coll source hseq = some h → h.stepNo = 1 →
    ∃ t h', exec (.holidayStop coll source hseq n) s = .next t ∧ { t with holidays := s.holidays, outbox := s.outbox } = s
      ∧ t.holidays.get? coll = some h' ∧ h'.stepNo = 2 ∧ h'.chunk = some n ∧ h'.initiator = source
      ∧ ((∀ op ∈ collOps s coll, belowDone s op n = true) → h'.waiting = []
          ∧ t.outbox = s.outbox ++ [.holiday source coll hseq 2 none])
      ∧ ((∃ op ∈ collOps s coll, belowDone s op n = false) → h'.waiting = [s.rank] ∧ t.outbox = s.outbox))
  ∧ (∀ (s : State) (coll source hseq : Nat) (h : Holiday), memberOf s coll source hseq = some h →
    (h.stepNo = 2 → ∃ u, exec (.holidayHold coll source hseq) s = .next (settleHoliday (holdGangs u h.asid) coll)
      ∧ { u with holidays := s.holidays } = s
      ∧ u.holidays.get? coll = some { h with stepNo := 3, waiting := [s.rank], since := s.kalends.toNat })
    ∧ (h.stepNo ≠ 2 → exec (.holidayHold coll source hseq) s = .next (settleHoliday (saveReady s) coll))
    ∧ (hseq < 2 ^ 16 → ∃ u, exec (.holidayResume coll source hseq) s = .next u
      ∧ exec (.holidayResume coll source (hseq + 2 ^ 16)) s = .next (hostEvent u (some h.asid) 0x152 0 0)
      ∧ { u with holidays := s.holidays, blocks := s.blocks } = s ∧ u.holidays.get? coll = none
      ∧ ∀ k b, s.blocks.get? k = some b → u.blocks.get? k = some
          (if b.asid = h.asid ∧ 1 < b.gsize ∧ b.saving = true then { b with frozen := false, saving := false } else b)))
  ∧ (∀ (s : State) (coll source : Nat) (chunk : Option Nat) (h : Holiday), s.holidays.get? coll = some h → h.initiator = s.rank →
    source ∈ h.waiting → source ≠ s.rank →
      exec (.holidayReply coll source h.hseq h.stepNo chunk) s = .next (settleHoliday (takeAnswer s coll source chunk) coll)
      ∧ let rest := h.waiting.filter (· != source)
        let best := if h.stepNo = 1 then chunkMax h.chunk chunk else h.chunk
        (rest ≠ [] → { takeAnswer s coll source chunk with holidays := s.holidays } = s
          ∧ (takeAnswer s coll source chunk).holidays.get? coll = some { h with waiting := rest, chunk := best })
        ∧ (rest = [] → h.stepNo = 1 → ∀ g n, collGroup s coll = some g → best = some n →
            (takeAnswer s coll source chunk).outbox
              = s.outbox ++ (g.ranks.filter (· != s.rank)).map (fun r => Msg.holiday r coll h.hseq 2 (some n))
            ∧ (takeAnswer s coll source chunk).holidays.get? coll
              = some { h with stepNo := 2, waiting := g.ranks, chunk := some n, since := s.kalends.toNat })
        ∧ (rest = [] → h.stepNo = 3 → ∀ g, collGroup s coll = some g → (takeAnswer s coll source chunk).holidays.get? coll
            = some { h with stepNo := 4, waiting := [], since := s.kalends.toNat }))
  ∧ (∀ (s : State) (coll k : Nat) (h : Holiday) (p : Packet), s.holidays.get? coll = some h → h.pkt = some k →
    s.pkts.get? k = some p →
      ((4 ≤ h.stepNo ∨ s.passed h.since < 100000000) → exec (.holidayTimeout coll) s = .next s)
      ∧ (h.stepNo ≤ 3 → 100000000 ≤ s.passed h.since → ∃ t, exec (.holidayTimeout coll) s = .next t
        ∧ t.pkts.get? k = some { p with st := .ended 0x152, fault := none, got := [] }
        ∧ ∀ c x, t.holidays.get? c = some x → ¬(x.pkt = some k ∧ x.initiator = s.rank)))
  ∧ ∀ (s : State) (rank : Nat),
    (∀ x ∈ s.ctxs, x.1 ∈ jobAsids s rank ↔ ∃ y ∈ s.ctxs, usesRank s rank y.1 = true
      ∧ (y.1 = x.1 ∨ ∃ z ∈ s.ctxs, z.1 = x.1 ∧ y.2.ptag ≠ 0#16 ∧ y.2.ptag = z.2.ptag))
    ∧ ((∀ x ∈ s.ctxs, usesRank s rank x.1 = false) → exec (.collectivePeerLost rank) s = .next s)
    ∧ ∀ a, jobAsids s rank = [a] → exec (.collectivePeerLost rank) s = .next (hostEvent s (some a) 0x153 rank 0)

/-- 00 R7, R8; 01 R14, R20; 04 R79, R80, Table 4.9; 10 R194; 13 Tables 13.1 and 13.9; 16 R292 to R300: bring-up, the session and
its datagrams, kalends, power states and limits, and the registers that firmware writes. Cryptographic functions, the choice of
ring 0's descriptor and register numbers are the model's (log 5, 18): nothing here depends on their values. -/
def Obligations.PlatformEvents : Prop :=
  (∀ (s : State) (key : List Byte) (images sigs : List (List Byte)), s.boot = .off → s.asleep = false →
    (firstImageOk key images sigs = false → ∃ t, exec (.powerOn key images sigs) s = .next t ∧ t.boot = .halted
      ∧ { t with boot := s.boot, measure := s.measure } = s)
    ∧ (firstImageOk key images sigs = true → images.length = 1 → sigs.length = 1 → ∃ t, exec (.powerOn key images sigs) s = .next t
      ∧ t.boot = .up ∧ t.errcnt = 0#64 ∧ t.measure = List.replicate 8 (List.replicate 64 0#8)
      ∧ { t with boot := s.boot, measure := s.measure, errcnt := s.errcnt } = s))
  ∧ (∀ (s : State) (key : List Byte) (images sigs : List (List Byte)), s.boot ≠ .off ∨ s.asleep = true →
    exec (.powerOn key images sigs) s = .next s)
  ∧ (∀ (s : State) (nonce : List Byte), s.boot = .up → nonce.length = 32 →
    let f := s.measure ++ [nonce, Config.certificate, Config.mlkemKey s.kemKeys]
    ∃ t, exec (.attestationRequest nonce) s = .next t ∧ t.nonce = some nonce
      ∧ t.outbox = s.outbox ++ [.report (f ++ [Config.mldsaSign f.flatten])] ∧ t.session = s.session ∧ t.rings = s.rings)
  ∧ (∀ (s : State) (cipher : List Byte),
    (s.nonce = none → exec (.sessionEncapsulation cipher) s = .next s)
    ∧ (s.nonce.isSome = true → s.boot = .up → ∃ t x, exec (.sessionEncapsulation cipher) s = .next t ∧ t.nextSession = some x
      ∧ x.number = Config.sessionNumber s.sessions.toNat ∧ x.dseqIn = 0 ∧ x.dseqOut = 0 ∧ t.session = s.session ∧ t.nonce = none
      ∧ t.everSession = true ∧ -100 ≤ t.rate ∧ t.rate ≤ 100 ∧ (-100 ≤ s.rate → s.rate ≤ 100 → t.rate = s.rate)
      ∧ (t.rings.get? 0).isSome = true ∧ (∀ n, n ≠ 0 → t.rings.get? n = s.rings.get? n)
      ∧ ∀ d, s.session = none → t.rings.get? 0 = some d → d.running = true ∧ d.wptr = 0#32 ∧ d.rptr = 0#32 ∧ d.nseq = 0#64))
  ∧ (∀ (s : State), exec .sessionIdleTimeout s
      = .next { s with session := freshSession s s.session, nextSession := freshSession s s.nextSession }
    ∧ freshSession s none = none ∧ ∀ x : Session,
      (60000000000 ≤ s.passed x.last → freshSession s (some x) = none)
      ∧ (s.passed x.last < 60000000000 → freshSession s (some x) = some x))
  ∧ (∀ (s : State), (s.retention = false → wakePackage s = s)
    ∧ (s.retention = true → { wakePackage s with dies := s.dies, retention := s.retention } = s ∧ (wakePackage s).retention = false
      ∧ ∀ d, d < 6 → (wakePackage s).die d
          = { s.die d with budget := 448 - (s.die d).cut, wakeAt := s.kalends.toNat + 300000 }))
  ∧ (∀ (s : State) (bs : List Byte) (port : Nat), s.boot = .halted →
    exec (.commandDatagram port bs) s = .next (if port = 0 then s.send .bootStatus else s))
  ∧ (∀ (s : State) (bs body : List Byte) (x : Session), s.boot = .up → s.nextSession = none → s.session = some x →
    let a := wakePackage { s with session := some { x with dseqIn := pf (wordsOf 4 bs) 8 0 64, last := s.kalends.toNat } }
    (checkDatagram x bs = some (1, body) → exec (.commandDatagram 0 bs) s = .next (receivePayload a body))
    ∧ (checkDatagram x bs = some (4, body) → exec (.powerControl 0 bs) s
        = .next { a with tolerance := BitVec.ofNat 32 (ofBytes (body.take 4)) })
    ∧ (checkDatagram x bs = none → exec (.commandDatagram 0 bs) s = .next { s with dropped := s.dropped + 1 }
        ∧ exec (.powerControl 0 bs) s = .next { s with dropped := s.dropped + 1 }))
  ∧ (∀ (s : State) (bs body : List Byte) (x : Session), s.boot = .up → s.nextSession = some x → checkDatagram x bs = some (1,
      body) →
    exec (.commandDatagram 0 bs) s = .next (receivePayload (wakePackage { s with
      session := some { x with dseqIn := pf (wordsOf 4 bs) 8 0 64, last := s.kalends.toNat }, nextSession := none,
          tolerance := 0 })
      body))
  ∧ (∀ (x : Session) (bs : List Byte) (r : Nat × List Byte), checkDatagram x bs = some r →
    x.dseqIn < pf (wordsOf 4 bs) 8 0 64 ∧ pf (wordsOf 4 bs) 0 32 32 = x.number.toNat ∧ bs.length ≤ 9024
      ∧ bs.drop (bs.length - 32) = toBytes 32 (Config.kmac256 x.keyIn (bs.take (bs.length - 32))).toNat)
  ∧ (∀ (s : State) (bs : List Byte) (d : Ring), s.rings.get? (pf (wordsOf 4 bs) 0 32 10) = some d →
    pf (wordsOf 4 bs) 8 0 64 = d.nseq.toNat → (d.wptr - d.rptr).toNat + bs.length ≤ d.size →
      (receivePacket s bs).rings.get? (pf (wordsOf 4 bs) 0 32 10)
        = some { d with wptr := d.wptr + BitVec.ofNat 32 bs.length, nseq := d.nseq + 1 })
  ∧ (∀ (s : State) (r : Int),
    let rate := if s.everSession then max (-100) (min 100 r) else r
    let t : State := { s with rate := rate, locked := true }
    exec (.ptpMessage r) s = .next (if s.boot ≠ .up ∨ (s.inPod = true ∧ s.rank ≠ 0) then s
        else if s.inPod = true then t.send (.timing rate) else t)
      ∧ ∀ source, exec (.ualinkTimingMessage source r) s
        = .next (if s.boot = .up ∧ s.inPod = true ∧ source = 0 ∧ s.rank ≠ 0 then t else s))
  ∧ (∀ (s : State) (d : Nat), s.boot = .up →
    (d < 6 → dieIdle s d = true → 5 ≤ s.tolerance.toNat → ∃ t, exec (.powerStateDecision d) s = .next t
      ∧ { t with dies := s.dies } = s
      ∧ t.die d = (if (s.die d).gated then s.die d else { s.die d with gated := true, budget := 448 - (s.die d).cut })
      ∧ ∀ j, j ≠ d → t.die j = s.die j)
    ∧ (d < 6 → (dieIdle s d = false ∨ s.tolerance.toNat < 5) → ∃ t, exec (.powerStateDecision d) s = .next t
      ∧ { t with dies := s.dies } = s
      ∧ t.die d = (if (s.die d).gated
          then { s.die d with gated := false, budget := 448 - (s.die d).cut, wakeAt := s.kalends.toNat + 5000 } else s.die d)
      ∧ ∀ j, j ≠ d → t.die j = s.die j)
    ∧ (6 ≤ d → (packageIdle s = false ∨ s.tolerance ≠ 0xFFFFFFFF#32) → exec (.powerStateDecision d) s
        = .next (if packageIdle s = true ∧ 300 ≤ s.tolerance.toNat then { s with retention := true } else wakePackage s))
    ∧ (6 ≤ d → packageIdle s = true → s.tolerance = 0xFFFFFFFF#32 → ∃ t, exec (.powerStateDecision d) s = .next t
      ∧ t.boot = .off ∧ t.asleep = true ∧ t.mem = [] ∧ t.cores = [] ∧ t.ctxs = [] ∧ t.outbox.getLast? = some (.board 0)))
  ∧ (∀ (s : State) (watts limit : Nat) (celsius : List Nat), s.boot ≠ .up ∨ s.passed s.powerAt < 100000 →
    exec (.powerSample watts limit celsius) s = .next s)
  ∧ (∀ (s : State) (watts limit : Nat) (celsius : List Nat), s.boot = .up → 100000 ≤ s.passed s.powerAt → ∃ t,
      exec (.powerSample watts limit celsius) s = .next t
    ∧ { t with dies := s.dies, powerAt := s.powerAt } = s ∧ t.powerAt = s.kalends.toNat
    ∧ ∀ d, d < 6 →
      let b := (s.die d).budget
      let n := (s.die d).cut
      let hot := min limit 4800 < watts ∨ 95 < celsius.getD d 0
      { t.die d with budget := b, cut := n } = s.die d
        ∧ (hot → (t.die d).budget = (if b ≤ 64 then b else max 64 (b - 32)) ∧ (t.die d).cut = min 384 (n + 32))
        ∧ (watts < min limit 4800 → celsius.getD d 0 < 95 →
            (t.die d).budget = (if 448 ≤ b then b else min 448 (b + 32)) ∧ (t.die d).cut = n - 32)
        ∧ (¬hot → ¬(watts < min limit 4800 ∧ celsius.getD d 0 < 95) → (t.die d).budget = b ∧ (t.die d).cut = n))
  ∧ (∀ (s : State) (n : Nat), (n < 110 → exec (.thermalTrip n) s = .next s)
    ∧ (110 ≤ n → ∃ t, exec (.thermalTrip n) s = .next t ∧ t.boot = .off ∧ t.asleep = true ∧ t.mem = [] ∧ t.blocks = []
      ∧ t.rings = [] ∧ t.session = none))
  ∧ (∀ (s : State), (s.asleep = true → exec .moduleWake s = .next { s with asleep := false })
    ∧ (s.asleep = false → exec .moduleWake s = .next (wakePackage s)))
  ∧ (∀ (s : State) (d : Nat) (v : DWord), d < 6 → ∃ t, exec (.registerWrite 0 d v) s = .next t ∧ { t with dies := s.dies } = s
    ∧ t.die d = { s.die d with budget := bits v 0 10, ramp := bits v 16 10 } ∧ ∀ j, j ≠ d → t.die j = s.die j)
  ∧ (∀ (s : State) (c k : Nat) (v : DWord), c < 768 → k < 8 →
    (∃ t, exec (.registerWrite 1 (8 * c + k) v) s = .next t ∧ { t with cores := s.cores } = s
      ∧ t.core c = { s.core c with pmcnt := (s.core c).pmcnt.set k (BitVec.ofNat 48 v.toNat) })
    ∧ ∃ t, exec (.registerWrite 2 (8 * c + k) v) s = .next t ∧ { t with cores := s.cores } = s
      ∧ t.core c = { s.core c with pmctl := (s.core c).pmctl.set k (v &&& 0x1FFFFF#64) })
  ∧ (∀ (s : State) (asid : Nat) (v : DWord), asid < 1024 →
    (ctxIdle s asid = true → ∃ t, exec (.registerWrite 3 (8 * asid + 1) v) s = .next t ∧ { t with ctxs := s.ctxs } = s
      ∧ t.ctx asid = { s.ctx asid with root := v &&& 0xFFFFFFFFFE000#64 })
    ∧ (ctxIdle s asid = true → ∃ t, exec (.registerWrite 3 (8 * asid) v) s = .next t ∧ { t with ctxs := s.ctxs } = s
      ∧ t.ctx asid = { s.ctx asid with recAsid := v.setWidth 10 })
    ∧ (ctxIdle s asid = false → exec (.registerWrite 3 (8 * asid + 1) v) s = .next s ∧ exec (.registerWrite 4 asid v) s = .next s)
    ∧ (ctxIdle s asid = true → bit v 0 = true → ∃ t, exec (.registerWrite 4 asid v) s = .next t
      ∧ t.ctx asid = { Ctx.init with firmware := bit v 1, ptag := BitVec.ofNat 16 (bits v 16 16) })
    ∧ (∃ t, exec (.registerWrite 8 asid v) s = .next t ∧ { t with ctxs := s.ctxs } = s
      ∧ t.ctx asid = { s.ctx asid with fqBase := v &&& 0xFFFFFFFFFF000#64, fqLsize := bits v 52 5 })
    ∧ ∃ t, exec (.registerWrite 9 asid v) s = .next t ∧ { t with ctxs := s.ctxs } = s
      ∧ t.ctx asid = { s.ctx asid with dbgctl := v &&& 0x7FF#64 })
  ∧ (∀ (s : State) (k : Nat) (v : DWord),
    let o : Owner := { asid := bits v 0 10, valid := bit v 10, ptag := BitVec.ofNat 16 (bits v 16 16) }
    (k < 4096 → exec (.registerWrite 5 k v) s = .next { s with ctrOwner := s.ctrOwner.put k o })
    ∧ (k < 16384 → exec (.registerWrite 6 k v) s = .next { s with vigOwner := s.vigOwner.put k o })
    ∧ exec (.registerWrite 14 k v) s = .next { s with rank := bits v 0 10, inPod := true }
    ∧ exec (.registerWrite 15 k v) s = .next (if s.everSession then s else { s with kalends := v }))
  ∧ (∀ (s : State) (key m o : Nat) (v : DWord) (b : Block) (w : Warp), s.blocks.get? key = some b → b.warps[m]? = some w → m < 32 →
    o < 2 ^ 14 →
      (b.stopped = false → exec (.registerWrite 17 ((key * 32 + m) * 2 ^ 14 + o) v) s = .next s)
      ∧ (b.stopped = true → ∃ t w', exec (.registerWrite 17 ((key * 32 + m) * 2 ^ 14 + o) v) s = .next t
        ∧ { t with blocks := s.blocks } = s ∧ (∀ j, j ≠ key → t.blocks.get? j = s.blocks.get? j)
        ∧ t.warp? (key / 96) (key % 96) m = some w'
        ∧ (64 ≤ o → o < 128 → w' = { w with sregs := w.sregs.set (o - 64) v })
        ∧ (0xB40 ≤ o → w' = { w with vregs := w'.vregs } ∧ ∀ n l, n < w.vregs.length → l < 64 → w'.v n l
            = if o = 0xB40 + 32 * n + l / 2 then (if l % 2 = 0 then v.setWidth 32 else (v >>> 32).setWidth 32) else w.v n l)))
  ∧ ∀ (s : State) (c : Nat) (v : DWord), c < 768 → (s.core c).halted = true → (∀ b ∈ s.blocks, b.1 / 96 ≠ c) → bits v 0 8 ∈ (s.die (coreDie c)).spares →
    ∃ t, exec (.registerWrite 13 c v) s = .next t ∧ { t with cores := s.cores, dies := s.dies } = s
      ∧ (t.core c).phys = bits v 0 8 ∧ (t.core c).withdrawn = false ∧ (t.core c).l1d = []
      ∧ (s.core c).phys ∈ (t.die (coreDie c)).spares

/-- 01 R14; 03 R71 to R73, Table 3.11; 14 R275, R276, Tables 14.9 and 14.10; 15 R283 to R286: errors are counted, contained or
reported, failed cores take a spare; debug stops, samples and counter records; the balancer's moves, handoff, and the deadlock
detector. -/
def Obligations.ErrorDebugAndBalancerEvents : Prop :=
  (∀ (s : State) (unit place : Nat), (unit < 7 → ∃ t, exec (.errorDetected unit place true) s = .next t
      ∧ { t with errcnt := s.errcnt } = s ∧ bits t.errcnt 0 32 = (bits s.errcnt 0 32 + 1) % 2 ^ 32
      ∧ bits t.errcnt 32 32 = bits s.errcnt 32 32)
    ∧ (7 ≤ unit → ∀ ok, exec (.errorDetected unit place ok) s = .next s))
  ∧ (∀ (s : State) (a : Nat), ∃ t, exec (.errorDetected 4 a false) s = .next t
    ∧ { t with errcnt := s.errcnt, poison := s.poison } = s
    ∧ (∀ x, x ∈ t.poison ↔ x ∈ s.poison ∨ x = a) ∧ bits t.errcnt 32 16 = (bits s.errcnt 32 16 + 1) % 2 ^ 16
    ∧ bits t.errcnt 0 32 = bits s.errcnt 0 32 ∧ bits t.errcnt 48 16 = bits s.errcnt 48 16)
  ∧ (∀ (s : State) (a : Nat) (h : HomeLine), s.l2.get? a = some h → ∃ t, exec (.errorDetected 3 a false) s = .next t
    ∧ { t with errcnt := s.errcnt, l2 := s.l2 } = s
    ∧ t.l2.get? a = some (if h.dirty then { h with poison := true } else { h with data := hbmLine s.mem a })
    ∧ ∀ j, j ≠ a → t.l2.get? j = s.l2.get? j)
  ∧ (∀ (s : State) (c slot : Nat), slot < 96 → ∃ u, { u with errcnt := s.errcnt } = s
    ∧ exec (.errorDetected 1 (96 * c + slot) false) s = .next (reportError (failBlock u c slot 0x04A) c)
    ∧ exec (.errorDetected 2 (96 * c + slot) false) s = .next (reportError (failBlock u c slot 0x0A0) c))
  ∧ (∀ (s : State) (place : Nat), ∃ u k, k < 512 ∧ { u with errcnt := s.errcnt, draws := s.draws } = s
    ∧ bits u.errcnt 32 16 = (bits s.errcnt 32 16 + 1) % 2 ^ 16
    ∧ exec (.errorDetected 6 place false) s = .next (hostEvent u none k place 0))
  ∧ (∀ (s : State), exec .scrub s = .next { s with scrubAt := s.kalends.toNat })
  ∧ (∀ (s : State) (c : Nat), (coreStalled s c = true → (s.core c).withdrawn = false →
      exec (.coreStallTimeout c) s = .next (failCore s c))
    ∧ (coreStalled s c = false → exec (.coreStallTimeout c) s = .next s)
    ∧ ((s.core c).withdrawn = false → exec (.coreSelfTestFail c) s = .next (failCore s c))
    ∧ ((s.core c).withdrawn = true → exec (.coreSelfTestFail c) s = .next s)
    ∧ ∃ u, failCore s c = spareCore u c)
  ∧ (∀ (s : State) (c p : Nat) (rest : List Nat),
    ((s.die (coreDie c)).spares = p :: rest → ((spareCore s c).core c).phys = p ∧ ((spareCore s c).core c).l1d = []
      ∧ ((spareCore s c).core c).withdrawn = (s.core c).withdrawn ∧ ((spareCore s c).die (coreDie c)).spares = rest
      ∧ (spareCore s c).mem = s.mem)
    ∧ ((s.die (coreDie c)).spares = [] → ((spareCore s c).core c).withdrawn = true
      ∧ ∀ g x, (spareCore s c).grids.get? g = some x → c ∉ x.share))
  ∧ (∀ (s : State) (c slot : Nat) (b : Block), s.block? c slot = some b →
    (b.stopped = true → exec (.debugStop c slot) s = .next s)
    ∧ (b.stopped = false → ∃ t b', exec (.debugStop c slot) s = .next t ∧ t.block? c slot = some b' ∧ b'.stopped = true
      ∧ b'.warps.length = b.warps.length ∧ t.outbox.getLast? = some (.debugger c slot))
    ∧ ∃ t, exec (.debugResume c slot) s = .next t ∧ { t with blocks := s.blocks } = s
      ∧ t.block? c slot = some { b with stopped := false })
  ∧ (∀ (s : State) (c q k n : Nat) (w : Warp) (p : Split),
    nextSampled (sampledWarps s c q) ((s.core c).sampled.getD q 0) = some (k, w) →
    let asid := blockAsid s c (k / 32)
    let due := (s.core c).sampledAt.getD q 0 + samplePeriod (s.ctx asid)
    (s.cycle.toNat < due → exec (.stallSample c q) s = .next s)
    ∧ (due ≤ s.cycle.toNat →
      nextSplit (s.modCore c fun x => { x with sampled := setAt x.sampled q k, sampledAt := setAt x.sampledAt q s.cycle.toNat })
        c (k / 32) (k % 32) w = some (n, p) → n < 8 →
      ∃ u ws, exec (.stallSample c q) s = .next (writeSample u asid 3 ws) ∧ ws.length = 3 ∧ u.mem = s.mem
        ∧ (u.core c).sampled = (s.core c).sampled.set q k ∧ (u.core c).sampledAt = (s.core c).sampledAt.set q s.cycle.toNat
        ∧ bits (wordAt ws 1) 0 56 = (wordPc u asid p.pc).toNat % 2 ^ 56
        ∧ bits (wordAt ws 1) 56 8 = n ∧ bits (wordAt ws 2) 56 8 ≤ 16))
  ∧ (∀ (s : State) (c q : Nat), nextSampled (sampledWarps s c q) ((s.core c).sampled.getD q 0) = none →
    exec (.stallSample c q) s = .next s)
  ∧ (∀ (s : State) (c k : Nat), c < 768 → (k ∉ (s.core c).pmwrap → exec (.pmcWrap c k) s = .next s)
    ∧ (k ∈ (s.core c).pmwrap → ∃ u ws, exec (.pmcWrap c k) s
        = .next (writeSample u (bits ((s.core c).pmctl.getD k 0#64) 8 10) 7 ws)
      ∧ { u with cores := s.cores } = s ∧ u.core c = { s.core c with pmwrap := (s.core c).pmwrap.erase k }
      ∧ wordAt ws 1 = BitVec.ofNat 64 k ∧ bits (wordAt ws 0) 3 7 = c % 128))
  ∧ (∀ (s : State), (s.passed s.sampleAt < 50000 → exec .balancerSample s = .next s)
    ∧ (50000 ≤ s.passed s.sampleAt → ∃ t, exec .balancerSample s = .next t ∧ t.periods = s.periods + 1
      ∧ t.sampleAt = s.kalends.toNat ∧ t.mem = s.mem
      ∧ ∀ c h, (s.core c).handoff = none → (t.core c).handoff = some h → ∃ asid n a, alm? s asid n = some a ∧ a.mode = 1
          ∧ h.1 ∈ a.stages ∧ h.2.1 ∈ a.stages ∧ h.2.2 = s.kalends.toNat + 1000 * a.handoffTo))
  ∧ (∀ (s : State) (c d r due : Nat) (g x : Grid), (s.core c).handoff = some (d, r, due) → d ≠ r → s.grids.get? d = some g →
    s.grids.get? r = some x →
      (g.complete = false → coreBlocks s c ≠ [] → exec (.handoffComplete c) s = .next s)
      ∧ (g.complete = true ∨ coreBlocks s c = [] → ∃ t, exec (.handoffComplete c) s = .next t ∧ (t.core c).handoff = none
        ∧ t.grids.get? d = some { g with share := g.share.filter (· != c) }
        ∧ t.grids.get? r = some { x with share := if c ∈ x.share then x.share else x.share ++ [c] }
        ∧ t.blocks = s.blocks ∧ t.mem = s.mem)
      ∧ ((s.kalends - BitVec.ofNat 64 due).toNat < 2 ^ 63 → exec (.handoffTimeout c) s
        = .next (saveReady (preempt s fun k _ => k / 96 == c)))
      ∧ (2 ^ 63 ≤ (s.kalends - BitVec.ofNat 64 due).toNat → exec (.handoffTimeout c) s = .next s))
  ∧ ∀ (s : State) (k : Nat) (a : Almanac), alm? s (k / 16) (k % 16) = some a →
    (∀ x, dueCycle s (k / 16) (k % 16) a = some x → x ∈ a.cycles ∧ x.raised = false ∧ a.dlThresh ≤ x.count
      ∧ (x.stages, x.pipes) ∈ blockedCycles s (k / 16) (k % 16) a)
    ∧ (dueCycle s (k / 16) (k % 16) a = none → exec (.deadlockDetected k) s = .next s)
    ∧ ∀ x, dueCycle s (k / 16) (k % 16) a = some x →
      ∃ u ws, exec (.deadlockDetected k) s = .next (queueRecord u (k / 16) ws .event true)
        ∧ { u with ctxs := s.ctxs } = s
        ∧ alm? u (k / 16) (k % 16) = some { a with cycles := a.cycles.map fun y =>
            if y.stages = x.stages ∧ y.pipes = x.pipes then { y with raised := true } else y }
        ∧ recField ws 0 0 9 = 0x1A2 ∧ recField ws 0 9 3 = 7 ∧ wordAt ws 1 = a.tag ∧ ws.length = 8


/-- 04 R91, R93; 06 R120, R130; 10 R206; 16 R292, R299; 17 R301, R304: how a step reaches the per-instruction statements. The
word at the issuing split's pc, read through the page tables as four bytes with the lowest address first, is decoded, and the
split's turn is `exec` of what it decodes to; a word that is no instruction traps, or is a hint. A turn that comes to a wait ends
there; any other happens when the split's quarter chooses it in this cycle, with a second split where one may co-issue. Which
split has its turn, and that an empty agenda gives it to one that a quarter chooses, or lets a cycle pass, is the model's choice
(log 2). An event of the agenda is `exec` of that event, unless a link that is not up would bring it. -/
def Obligations.StepRunsTheDecodedWord : Prop :=
  (∀ s w t, fetchTurn s = .word w t →
      (∀ i, decodeWord w = .ok i → stepIssue s = exec i t) ∧ (∀ e, decodeWord w = .error e → stepIssue s = .next (oddWord w t)))
  ∧ (∀ s t, fetchTurn s = .stays t → stepIssue s = .next t)
  ∧ (∀ s p r t, s.agenda = .issue p :: r →
      let a := { s with agenda := r, port := p }
      stepIssue a = .next t →
        (waited a t p = true ∨ canIssue a p = false → step s = .next t)
        ∧ (waited a t p = false → canIssue a p = true →
          (scheduled a p = false → step s = .next a)
          ∧ ∀ w, a.warp? p.core p.slot p.warp = some w → scheduled a p = true →
            (secondSplit a p = none → step s = .next (issuedMark t p w.quarter))
            ∧ ∀ q, secondSplit a p = some q → step s = .next (issuedMark (issuePair a p q) p w.quarter)))
  ∧ (∀ s, s.agenda = [] →
      let ready := (runnable s).find? fun p => readyAt s p && scheduled s p
      (∀ p, ready = some p → step s = step { s with agenda := [.issue p] })
      ∧ (ready = none →
        (∀ p, nextPort (passCycles s 1 1) = some p → step s = step { passCycles s 1 1 with agenda := [.issue p] })
        ∧ (nextPort (passCycles s 1 1) = none → step s = .next (passCycles s 1 1))))
  ∧ (∀ s c n r, s.agenda = .time c n :: r → step s = .next (passCycles { s with agenda := r } c n))
  ∧ (∀ s i r, s.agenda = .event i :: r →
      let a := { s with agenda := r }
      step s = if encodeWord i = none ∧ arrives i a = true then exec i (awaken i a) else .next a)
  ∧ (∀ s b w q c pa t b0 b1 b2 b3, portReady s b w q →
      translate s s.port.core b.asid q.pc.toNat .fetch = (.ok { at_ := .hbm pa, cached := c }, t) →
      peekHbm t pa 4 = [b0, b1, b2, b3] →
        let held := (t.core s.port.core).l1i.find? fun p => p.1 == lineOf pa
        (held = none → poisoned t pa 4 = false → fetchTurn s = .word (leWord b0 b1 b2 b3) (fillL1i t s.port.core (lineOf pa)))
        ∧ (held = none → poisoned t pa 4 = true → fetchTurn s = .stays (noLogFault t s.port 0x095 3 q.pc.toNat 0#64 q.em q.pc))
        ∧ (∀ p, held = some p → poisoned t pa 4 = false → lineNum p.2 (pa % 128) 4 = (leWord b0 b1 b2 b3).toNat →
          fetchTurn s = .word (leWord b0 b1 b2 b3) t))
  ∧ ∀ s b w q cause t, portReady s b w q → translate s s.port.core b.asid q.pc.toNat .fetch = (.error cause, t) →
      fetchTurn s = .stays (noLogFault t s.port cause 3 q.pc.toNat 0#64 q.em q.pc)

/-- 17 R301, R302, R304, Tables 17.1 and 17.2: words written out field by field from the encoding tables, of most families, with
the instruction that each of them stands for; and the words that are none: a reserved major (the all-zero word), a reserved FN,
an unused field that is not zero. -/
def Obligations.WordsDecodeAsTheSpecEncodesThem : Prop :=
  let is (w : Word) (i : Instr) : Prop := decodeWord w = .ok i
  is (0x01#6 ++ 1#2 ++ 0#2 ++ 1#4 ++ 2#6 ++ 3#6 ++ 5#6) (.isub32 1 0 2 3 5)
  ∧ is (0x02#6 ++ 0#2 ++ 0#2 ++ 5#4 ++ 8#6 ++ 10#6 ++ 12#6) (.imad64 0 8 10 12)
  ∧ is (0x03#6 ++ 0#2 ++ 0#2 ++ 13#4 ++ 1#6 ++ 2#6 ++ 60#6) (.bfi 0 1 2 60)
  ∧ is (0x04#6 ++ 1#2 ++ 1#2 ++ 6#4 ++ 4#6 ++ 0xFFE#12) (.shriI 1 1 4 0xFFE)
  ∧ is (0x06#6 ++ 0#2 ++ 0#2 ++ 9#4 ++ 2#6 ++ 4#6 ++ 6#6) (.fdivF64 0 2 4 6)
  ∧ is (0x08#6 ++ 1#2 ++ 2#2 ++ 7#4 ++ 8#6 ++ 4#6 ++ 0#6) (.fnegBf16x2 1 2 8 4)
  ∧ is (0x0A#6 ++ 1#2 ++ 0#2 ++ 11#4 ++ 9#6 ++ 7#6 ++ 8#6) (.icmp 1 0 11 9 7 8)
  ∧ is (0x0D#6 ++ 0#2 ++ 0#2 ++ 3#2 ++ 1#1 ++ 0#1 ++ 1#6 ++ 2#6 ++ 0#3 ++ 4#3) (.fcvt 0 0 3 1 0 1 2 0 4)
  ∧ is (0x0F#6 ++ 1#2 ++ 0#2 ++ 2#4 ++ 4#6 ++ 5#6 ++ 6#6) (.vget 1 4 5 6)
  ∧ is (0x11#6 ++ 0#2 ++ 1#2 ++ 2#2 ++ 1#1 ++ 6#3 ++ 4#6 ++ 9#6 ++ 3#4) (.tacc 0 1 6 4 9 3)
  ∧ is (0x13#6 ++ 1#2 ++ 9#4 ++ 1#2 ++ 4#6 ++ 6#6 ++ 5#6) (.xshuf 9 1 4 6 5)
  ∧ is (0x15#6 ++ 2#2 ++ 0#2 ++ 8#4 ++ 7#6 ++ 0x801#12) (.smuli 2 7 0x801)
  ∧ is (0x18#6 ++ 1#2 ++ 3#4 ++ 17#6 ++ 0x3FFE#14) (.brx 17 0x3FFE)
  ∧ is (0x19#6 ++ 3#2 ++ 7#4 ++ 8#6 ++ 0#11 ++ 5#3) (.setdef 8 5)
  ∧ is (0x1A#6 ++ 0#2 ++ 2#4 ++ 2#2 ++ 0#2 ++ 8#6 ++ 0#6 ++ 3#4) (.ld 0 2 2 0 8 0 3)
  ∧ is (0x1F#6 ++ 1#2 ++ 0#4 ++ 13#4 ++ 2#6 ++ 1#6 ++ 15#4) (.atoml 1 0 13 2 1 15)
  ∧ is (0x20#6 ++ 1#2 ++ 0#4 ++ 0#4 ++ 9#6 ++ 10#6 ++ 2#4) (.disc 1 9 10)
  ∧ is (0x21#6 ++ 1#2 ++ 4#4 ++ 7#3 ++ 6#6 ++ 5#6 ++ 6#5) (.qstamp 1 4 7 6 5)
  ∧ is (0x22#6 ++ 1#2 ++ 0#4 ++ 2#4 ++ 6#6 ++ 0#6 ++ 0#4) (.cpy 1 2 6)
  ∧ is (0x27#6 ++ 1#2 ++ 0#4 ++ 3#4 ++ 0#6 ++ 1#6 ++ 5#4) (.waitbHandle 1 3 1)
  ∧ is (0x28#6 ++ 1#2 ++ 7#4 ++ 0#4 ++ 12#6 ++ 13#6 ++ 3#4) (.tcrd 1 7 12 13)
  ∧ is (0x29#6 ++ 1#2 ++ 0#4 ++ 4#4 ++ 20#6 ++ 21#6 ++ 1#4) (.csave 4 20 21)
  ∧ is (0x3F#6 ++ 2#4 ++ 0#14 ++ 1#2 ++ 0#1 ++ 4#3 ++ 3#2) (.hintMemord 1 0 4 3)
  ∧ decodeWord 0#32 = .error .reservedMajor
  ∧ decodeWord (0x01#6 ++ 0#2 ++ 0#2 ++ 15#4 ++ 0#18) = .error .reservedFunction
  ∧ decodeWord (0x01#6 ++ 0#2 ++ 0#2 ++ 10#4 ++ 1#6 ++ 2#6 ++ 3#6) = .error .reservedField

/-- 17 R301, R302, Tables 17.1 and 17.2: no bit of an encoding is dropped. The word of a well-formed instruction decodes to that
instruction, every operand at every value; and every word that decodes is the word of what it decodes to, so that no two words
stand for one instruction. -/
def Obligations.DecodeOfEncodeIsTheInstruction : Prop :=
  (∀ (i : Instr) (w : Word), i.wf = true → encodeWord i = some w → decodeWord w = .ok i)
  ∧ (∀ (w : Word) (i : Instr), decodeWord w = .ok i → encodeWord i = some w)
  ∧ ∀ (i : Instr) (bs : List Byte), i.wf = true → encode i = some bs → ∀ r, decodeBytes (bs ++ r) = .ok (i, r)

/-- 04 Table 4.9; 05 Table 5.4; 06 R125; 08 R162, Table 8.9; 13 R241; 14 Tables 14.4 and 14.10; 15 Table 15.2: the state that
module reset leaves, where the specification gives it: the cycle and rebase counters, the rank, every trigger counter and the
error counters are zero; nothing is established and nothing runs; and the dies' and the contexts' entries stand at the reset
values of their tables. Memory lists nothing (what an unlisted byte reads as is the model's choice, log 6), in canonical form. -/
def Obligations.ResetState : Prop :=
  let s := State.reset
  s.cycle = 0 ∧ s.rebases = 0 ∧ s.rank = 0 ∧ (∀ n, s.counters.getD n 0#64 = 0#64) ∧ s.errcnt = 0 ∧ s.session = none
  ∧ s.blocks = [] ∧ s.grids = [] ∧ s.ctxs = [] ∧ s.rings = [] ∧ s.pipes = [] ∧ s.mem = [] ∧ memoriesCanonical s = true
  ∧ (∀ d, (s.die d).budget = 448 ∧ (s.die d).ramp = 64 ∧ (s.die d).inuse = 0)
  ∧ ∀ a, (s.ctx a).lease = 10 ∧ (s.ctx a).timeout = 2 ^ 24 ∧ (s.ctx a).suspended = false ∧ (s.ctx a).fqHead = 0
      ∧ (s.ctx a).fqTail = 0 ∧ bits (s.ctx a).dbgctl 2 5 = 16

/-- Every step keeps each byte memory of the device (HBM, and every core's scratch and tile file) in the model's canonical form:
addresses rising strictly, and no entry that equals what an unlisted address reads as. The form is the model's (log 6); that no
step breaks it says that equal contents are equal data in every state. -/
def Obligations.EveryStepKeepsMemoryCanonical : Prop :=
  ∀ s t, memoriesCanonical s = true → step s = .next t → memoriesCanonical t = true

/-- 17 R304, R310 to R313, Tables 17.7 and 17.8; 14 R264, R268; 06 R116: what a word traps on before its operands' values matter,
in the order of the rows. Row 1, 0x001: a word that is no instruction, a field value that the instruction does not admit, a
landing after a hint word, a hint that it does not accept, two of one kind other than IMM. Then 0x1E3, a privileged word outside
a supervisor kernel; 0x1E9, what a handler must not execute; 0x182, set scope in a warp of no set. -/
def Obligations.WordChecksTrap : Prop :=
  ∀ (s : State) (b : Block) (w : Warp) (q : Split), portReady s b w q →
    (∀ word e, decodeWord word = .error e → isHint word = false →
      oddWord word s = takeTrap s { portTrap s q with sc := bits word 24 2 } { cause := 0x001 })
    ∧ ∀ (i : Instr) (word : Word), encodeWord i = some word → isHint word = false →
      let traps (cause : Nat) : Prop := exec i s = .next (takeTrap s { portTrap s q with sc := bits word 24 2 } { cause := cause })
      let clean : Prop := i.wf = true ∧ q.landed = false ∧ q.hints = [] ∧ atItsPlace word b q
      let priv : Prop := bits word 26 6 = 0x29 ∧ bits word 0 4 ≠ 0
      (i.wf = false → traps 0x001)
      ∧ (q.landed = true → hintAt s b.asid (q.pc - 4#64) = true → traps 0x001)
      ∧ ((∃ h ∈ q.hints, acceptsHint word (hintKind h) = false) → traps 0x001)
      ∧ ((∃ g h, q.hints = [g, h] ∧ hintKind g = hintKind h ∧ hintKind g ≠ 0) → traps 0x001)
      ∧ (clean → priv → b.supervisor = false → traps 0x1E3)
      ∧ (clean → ¬ (priv ∧ b.supervisor = false) → w.frozen.isSome = true → forbiddenInHandler word = true → traps 0x1E9)
      ∧ (clean → ¬ priv → w.frozen = none → bits word 24 2 = 2 → (∀ m ∈ b.sets, s.port.warp ∉ m) → traps 0x182)
end

