-- ==== Sys2Proof/Laws/Issue.lean ====
section
/-! SUPPORT. What issuing an instruction comes to, once its checks have passed: one lemma for `issue`, one for `perform`. -/

namespace Sys2Proof.Laws

open Sys2Proof Sys2Proof.Machine

theorem issueAlone_aloneAs {m : Meta} {uni : Ix → State → Option Nat} {eff : Ix → State → Res} {s a : State} {b : Block}
    {w : Warp} {q : Split} {x y : Ix} (h : aloneAs m uni s b w q x = some (y, a)) :
    issueAlone m uni eff s b w q x = perform m eff y a ∧ x = y ∧ s = a := by
  unfold aloneAs at h
  split at h
  · rename_i hc
    simp only [Option.some.injEq, Prod.mk.injEq] at h
    obtain ⟨rfl, rfl⟩ := h
    simp only [Bool.and_eq_true, Bool.not_eq_true', Option.isNone_iff_eq_none] at hc
    unfold issueAlone
    rw [hc.1.1]
    simp [hc.1.2, hc.2]
  · cases h

theorem issueRedo_membersAs {m : Meta} {uni : Ix → State → Option Nat} {eff : Ix → State → Res} {s a : State} {x y : Ix}
    {r : Reissue} (h : membersAs m uni s x r = some (y, a)) :
    issueRedo m uni eff s x r = perform m eff y a ∧ y.hints = x.hints ∧ s = a := by
  unfold membersAs at h
  unfold issueRedo
  dsimp only at h ⊢
  by_cases hc : (redoMembers s x.core x.slot r).isEmpty
      || (redoMembers s x.core x.slot r).any (fun p => !p.2.rwait || p.2.pc != r.pc)
  · rw [if_pos hc] at h; cases h
  · rw [if_neg hc] at h ⊢
    cases hb : s.block? x.core x.slot with
    | none => rw [hb] at h; cases h
    | some b =>
      rw [hb] at h
      dsimp only at h
      by_cases hn : ((boundsCheck b m).or (uni (memberInstance x r ((redoMembers s x.core x.slot r).map (·.1))) s)).isNone
      · rw [if_pos hn] at h
        simp only [Option.some.injEq, Prod.mk.injEq] at h
        obtain ⟨rfl, rfl⟩ := h
        rw [Option.isNone_iff_eq_none] at hn
        refine ⟨?_, rfl, rfl⟩
        change performChecked m uni eff (memberInstance x r _) b s = _
        unfold performChecked
        rw [hn]
      · rw [if_neg hn] at h; cases h

theorem issueMember_arrivesAs {m : Meta} {uni : Ix → State → Option Nat} {eff : Ix → State → Res} {s a : State} {b : Block}
    {w : Warp} {q : Split} {x y : Ix} (h : arrivesAs m uni s b w q x = some (y, a)) :
    issueMember m uni eff s b w q x = perform m eff y a ∧ y.hints = x.hints := by
  unfold arrivesAs at h
  unfold issueMember
  split at h
  · split at h
    · rename_i r hr hp
      have := issueRedo_membersAs (eff := eff) h
      simp only [hr, hp, if_true]
      exact ⟨this.1, this.2.1⟩
    · cases h
  · rename_i hr
    simp only [hr]
    split at h
    · cases h
    · rename_i hc
      simp only [Bool.or_eq_true, not_or, Bool.not_eq_true, Option.isSome_eq_false_iff, Option.isNone_iff_eq_none] at hc
      simp only [hc.1.1, hc.1.2, hc.2, Bool.false_eq_true, if_false]
      dsimp only at h
      split at h
      · cases h
      · rename_i q' hq'
        try rw [hq']
        split at h
        · rename_i r' hr'
          have := issueRedo_membersAs (eff := eff) h
          try simp only [hr']
          exact ⟨this.1, this.2.1⟩
        · cases h

/-- An instruction that issues as `x` in state `a` is performed there. -/
theorem issue_issuesAs {i : Instr} {m : Meta} {extra : Block → Split → Bool} {uni : Ix → State → Option Nat}
    {eff : Ix → State → Res} {s a : State} {x : Ix} (h : issuesAs i m extra uni s = some (x, a)) :
    issue i m extra uni eff s = perform (m.withStamp x.hints) eff x a := by
  unfold issuesAs at h
  unfold issue
  have hsc : ∀ hs, (m.withStamp hs).sc = m.sc := by
    intro hs; unfold Meta.withStamp; split <;> (try split) <;> rfl
  split at h
  · rename_i b w q hb hw hq
    dsimp only at h ⊢
    split at h
    · cases h
    · rename_i hr
      simp only [reaches, Bool.not_eq_true', Bool.not_eq_false, Bool.and_eq_true, Option.isNone_iff_eq_none] at hr
      obtain ⟨⟨h1, h2⟩, h3⟩ := hr
      simp only [h1, h2, hb, hw, hq, hsc] at h ⊢
      have h3' := h3
      simp only [Bool.not_true, Bool.false_eq_true, if_false, h3']
      split at h
      · rename_i hle
        rw [if_pos hle]
        split at h
        · rename_i r hr
          try simp only [hr]
          obtain ⟨he, hx, rfl⟩ := issueAlone_aloneAs (eff := eff) h
          have hh : x.hints = q.hints := by rw [← hx]; split <;> rfl
          rw [hh]
          have hx' := hx
          simp only [portInstance, hsc] at hx' he ⊢
          rw [← he]
        · rename_i hr
          try simp only [hr]
          obtain ⟨he, hx, rfl⟩ := issueAlone_aloneAs (eff := eff) h
          have hh : x.hints = q.hints := by rw [← hx]; rfl
          rw [hh]
          simp only [portInstance, hsc] at he ⊢
          rw [← he]
      · rename_i hle
        rw [if_neg hle]
        obtain ⟨he, hh⟩ := issueMember_arrivesAs (eff := eff) h
        have : x.hints = q.hints := hh
        rw [this]
        simp only [portInstance, hsc] at he ⊢
        exact he
  · cases h

/-- An effect that is performed: the instruction ends in its state, with the marker of a bound TRACE hint. -/
theorem perform_done {m : Meta} {eff : Ix → State → Res} {x : Ix} {a t : State}
    (h : eff { x with saved := savedSplits x a } (advance m x a) = .done t) : perform m eff x a = traceMark x t := by
  unfold perform
  dsimp only
  rw [h]

end Sys2Proof.Laws
end

