-- ==== Sys2Proof/Laws/State.lean ====
section
/-! SUPPORT. One lemma per field of State and per update of it, so that no proof unfolds a record update; then what a table,
a core, a block, a warp reads as after an update. -/

namespace Sys2Proof.Laws

open Sys2Proof Sys2Proof.Machine

/-! ### setCore -/

@[simp] theorem setCore_mem (s : State) (c : Nat) (x : Core) : (s.setCore c x).mem = s.mem := rfl
@[simp] theorem setCore_poison (s : State) (c : Nat) (x : Core) : (s.setCore c x).poison = s.poison := rfl
@[simp] theorem setCore_l2 (s : State) (c : Nat) (x : Core) : (s.setCore c x).l2 = s.l2 := rfl
@[simp] theorem setCore_mts (s : State) (c : Nat) (x : Core) : (s.setCore c x).mts = s.mts := rfl
@[simp] theorem setCore_rebases (s : State) (c : Nat) (x : Core) : (s.setCore c x).rebases = s.rebases := rfl
@[simp] theorem setCore_rebasing (s : State) (c : Nat) (x : Core) : (s.setCore c x).rebasing = s.rebasing := rfl
@[simp] theorem setCore_blocks (s : State) (c : Nat) (x : Core) : (s.setCore c x).blocks = s.blocks := rfl
@[simp] theorem setCore_dies (s : State) (c : Nat) (x : Core) : (s.setCore c x).dies = s.dies := rfl
@[simp] theorem setCore_ioPartials (s : State) (c : Nat) (x : Core) : (s.setCore c x).ioPartials = s.ioPartials := rfl
@[simp] theorem setCore_ctxs (s : State) (c : Nat) (x : Core) : (s.setCore c x).ctxs = s.ctxs := rfl
@[simp] theorem setCore_rings (s : State) (c : Nat) (x : Core) : (s.setCore c x).rings = s.rings := rfl
@[simp] theorem setCore_lastRing (s : State) (c : Nat) (x : Core) : (s.setCore c x).lastRing = s.lastRing := rfl
@[simp] theorem setCore_pkts (s : State) (c : Nat) (x : Core) : (s.setCore c x).pkts = s.pkts := rfl
@[simp] theorem setCore_nextPkt (s : State) (c : Nat) (x : Core) : (s.setCore c x).nextPkt = s.nextPkt := rfl
@[simp] theorem setCore_grids (s : State) (c : Nat) (x : Core) : (s.setCore c x).grids = s.grids := rfl
@[simp] theorem setCore_nextGrid (s : State) (c : Nat) (x : Core) : (s.setCore c x).nextGrid = s.nextGrid := rfl
@[simp] theorem setCore_pipes (s : State) (c : Nat) (x : Core) : (s.setCore c x).pipes = s.pipes := rfl
@[simp] theorem setCore_counters (s : State) (c : Nat) (x : Core) : (s.setCore c x).counters = s.counters := rfl
@[simp] theorem setCore_ctrTs (s : State) (c : Nat) (x : Core) : (s.setCore c x).ctrTs = s.ctrTs := rfl
@[simp] theorem setCore_remTs (s : State) (c : Nat) (x : Core) : (s.setCore c x).remTs = s.remTs := rfl
@[simp] theorem setCore_ctrOwner (s : State) (c : Nat) (x : Core) : (s.setCore c x).ctrOwner = s.ctrOwner := rfl
@[simp] theorem setCore_vigOwner (s : State) (c : Nat) (x : Core) : (s.setCore c x).vigOwner = s.vigOwner := rfl
@[simp] theorem setCore_vigils (s : State) (c : Nat) (x : Core) : (s.setCore c x).vigils = s.vigils := rfl
@[simp] theorem setCore_firing (s : State) (c : Nat) (x : Core) : (s.setCore c x).firing = s.firing := rfl
@[simp] theorem setCore_arms (s : State) (c : Nat) (x : Core) : (s.setCore c x).arms = s.arms := rfl
@[simp] theorem setCore_flits (s : State) (c : Nat) (x : Core) : (s.setCore c x).flits = s.flits := rfl
@[simp] theorem setCore_groups (s : State) (c : Nat) (x : Core) : (s.setCore c x).groups = s.groups := rfl
@[simp] theorem setCore_holidays (s : State) (c : Nat) (x : Core) : (s.setCore c x).holidays = s.holidays := rfl
@[simp] theorem setCore_nextHoliday (s : State) (c : Nat) (x : Core) : (s.setCore c x).nextHoliday = s.nextHoliday := rfl
@[simp] theorem setCore_chunks (s : State) (c : Nat) (x : Core) : (s.setCore c x).chunks = s.chunks := rfl
@[simp] theorem setCore_chunkSeen (s : State) (c : Nat) (x : Core) : (s.setCore c x).chunkSeen = s.chunkSeen := rfl
@[simp] theorem setCore_chunkWait (s : State) (c : Nat) (x : Core) : (s.setCore c x).chunkWait = s.chunkWait := rfl
@[simp] theorem setCore_nextTag (s : State) (c : Nat) (x : Core) : (s.setCore c x).nextTag = s.nextTag := rfl
@[simp] theorem setCore_remPend (s : State) (c : Nat) (x : Core) : (s.setCore c x).remPend = s.remPend := rfl
@[simp] theorem setCore_remIns (s : State) (c : Nat) (x : Core) : (s.setCore c x).remIns = s.remIns := rfl
@[simp] theorem setCore_nsendWait (s : State) (c : Nat) (x : Core) : (s.setCore c x).nsendWait = s.nsendWait := rfl
@[simp] theorem setCore_nsendAck (s : State) (c : Nat) (x : Core) : (s.setCore c x).nsendAck = s.nsendAck := rfl
@[simp] theorem setCore_nsendTo (s : State) (c : Nat) (x : Core) : (s.setCore c x).nsendTo = s.nsendTo := rfl
@[simp] theorem setCore_mcasts (s : State) (c : Nat) (x : Core) : (s.setCore c x).mcasts = s.mcasts := rfl
@[simp] theorem setCore_rank (s : State) (c : Nat) (x : Core) : (s.setCore c x).rank = s.rank := rfl
@[simp] theorem setCore_inPod (s : State) (c : Nat) (x : Core) : (s.setCore c x).inPod = s.inPod := rfl
@[simp] theorem setCore_macsec (s : State) (c : Nat) (x : Core) : (s.setCore c x).macsec = s.macsec := rfl
@[simp] theorem setCore_kalends (s : State) (c : Nat) (x : Core) : (s.setCore c x).kalends = s.kalends := rfl
@[simp] theorem setCore_cycle (s : State) (c : Nat) (x : Core) : (s.setCore c x).cycle = s.cycle := rfl
@[simp] theorem setCore_rate (s : State) (c : Nat) (x : Core) : (s.setCore c x).rate = s.rate := rfl
@[simp] theorem setCore_ratefrac (s : State) (c : Nat) (x : Core) : (s.setCore c x).ratefrac = s.ratefrac := rfl
@[simp] theorem setCore_locked (s : State) (c : Nat) (x : Core) : (s.setCore c x).locked = s.locked := rfl
@[simp] theorem setCore_boot (s : State) (c : Nat) (x : Core) : (s.setCore c x).boot = s.boot := rfl
@[simp] theorem setCore_measure (s : State) (c : Nat) (x : Core) : (s.setCore c x).measure = s.measure := rfl
@[simp] theorem setCore_nonce (s : State) (c : Nat) (x : Core) : (s.setCore c x).nonce = s.nonce := rfl
@[simp] theorem setCore_kemKeys (s : State) (c : Nat) (x : Core) : (s.setCore c x).kemKeys = s.kemKeys := rfl
@[simp] theorem setCore_session (s : State) (c : Nat) (x : Core) : (s.setCore c x).session = s.session := rfl
@[simp] theorem setCore_nextSession (s : State) (c : Nat) (x : Core) : (s.setCore c x).nextSession = s.nextSession := rfl
@[simp] theorem setCore_sessions (s : State) (c : Nat) (x : Core) : (s.setCore c x).sessions = s.sessions := rfl
@[simp] theorem setCore_everSession (s : State) (c : Nat) (x : Core) : (s.setCore c x).everSession = s.everSession := rfl
@[simp] theorem setCore_dropped (s : State) (c : Nat) (x : Core) : (s.setCore c x).dropped = s.dropped := rfl
@[simp] theorem setCore_tolerance (s : State) (c : Nat) (x : Core) : (s.setCore c x).tolerance = s.tolerance := rfl
@[simp] theorem setCore_retention (s : State) (c : Nat) (x : Core) : (s.setCore c x).retention = s.retention := rfl
@[simp] theorem setCore_asleep (s : State) (c : Nat) (x : Core) : (s.setCore c x).asleep = s.asleep := rfl
@[simp] theorem setCore_sampleAt (s : State) (c : Nat) (x : Core) : (s.setCore c x).sampleAt = s.sampleAt := rfl
@[simp] theorem setCore_periods (s : State) (c : Nat) (x : Core) : (s.setCore c x).periods = s.periods := rfl
@[simp] theorem setCore_powerAt (s : State) (c : Nat) (x : Core) : (s.setCore c x).powerAt = s.powerAt := rfl
@[simp] theorem setCore_scrubAt (s : State) (c : Nat) (x : Core) : (s.setCore c x).scrubAt = s.scrubAt := rfl
@[simp] theorem setCore_errcnt (s : State) (c : Nat) (x : Core) : (s.setCore c x).errcnt = s.errcnt := rfl
@[simp] theorem setCore_fwAsid (s : State) (c : Nat) (x : Core) : (s.setCore c x).fwAsid = s.fwAsid := rfl
@[simp] theorem setCore_outbox (s : State) (c : Nat) (x : Core) : (s.setCore c x).outbox = s.outbox := rfl
@[simp] theorem setCore_agenda (s : State) (c : Nat) (x : Core) : (s.setCore c x).agenda = s.agenda := rfl
@[simp] theorem setCore_port (s : State) (c : Nat) (x : Core) : (s.setCore c x).port = s.port := rfl
@[simp] theorem setCore_draws (s : State) (c : Nat) (x : Core) : (s.setCore c x).draws = s.draws := rfl
@[simp] theorem setCore_joint (s : State) (c : Nat) (x : Core) : (s.setCore c x).joint = s.joint := rfl

/-! ### modCore -/

@[simp] theorem modCore_mem (s : State) (c : Nat) (f : Core → Core) : (s.modCore c f).mem = s.mem := rfl
@[simp] theorem modCore_poison (s : State) (c : Nat) (f : Core → Core) : (s.modCore c f).poison = s.poison := rfl
@[simp] theorem modCore_l2 (s : State) (c : Nat) (f : Core → Core) : (s.modCore c f).l2 = s.l2 := rfl
@[simp] theorem modCore_mts (s : State) (c : Nat) (f : Core → Core) : (s.modCore c f).mts = s.mts := rfl
@[simp] theorem modCore_rebases (s : State) (c : Nat) (f : Core → Core) : (s.modCore c f).rebases = s.rebases := rfl
@[simp] theorem modCore_rebasing (s : State) (c : Nat) (f : Core → Core) : (s.modCore c f).rebasing = s.rebasing := rfl
@[simp] theorem modCore_blocks (s : State) (c : Nat) (f : Core → Core) : (s.modCore c f).blocks = s.blocks := rfl
@[simp] theorem modCore_dies (s : State) (c : Nat) (f : Core → Core) : (s.modCore c f).dies = s.dies := rfl
@[simp] theorem modCore_ioPartials (s : State) (c : Nat) (f : Core → Core) : (s.modCore c f).ioPartials = s.ioPartials := rfl
@[simp] theorem modCore_ctxs (s : State) (c : Nat) (f : Core → Core) : (s.modCore c f).ctxs = s.ctxs := rfl
@[simp] theorem modCore_rings (s : State) (c : Nat) (f : Core → Core) : (s.modCore c f).rings = s.rings := rfl
@[simp] theorem modCore_lastRing (s : State) (c : Nat) (f : Core → Core) : (s.modCore c f).lastRing = s.lastRing := rfl
@[simp] theorem modCore_pkts (s : State) (c : Nat) (f : Core → Core) : (s.modCore c f).pkts = s.pkts := rfl
@[simp] theorem modCore_nextPkt (s : State) (c : Nat) (f : Core → Core) : (s.modCore c f).nextPkt = s.nextPkt := rfl
@[simp] theorem modCore_grids (s : State) (c : Nat) (f : Core → Core) : (s.modCore c f).grids = s.grids := rfl
@[simp] theorem modCore_nextGrid (s : State) (c : Nat) (f : Core → Core) : (s.modCore c f).nextGrid = s.nextGrid := rfl
@[simp] theorem modCore_pipes (s : State) (c : Nat) (f : Core → Core) : (s.modCore c f).pipes = s.pipes := rfl
@[simp] theorem modCore_counters (s : State) (c : Nat) (f : Core → Core) : (s.modCore c f).counters = s.counters := rfl
@[simp] theorem modCore_ctrTs (s : State) (c : Nat) (f : Core → Core) : (s.modCore c f).ctrTs = s.ctrTs := rfl
@[simp] theorem modCore_remTs (s : State) (c : Nat) (f : Core → Core) : (s.modCore c f).remTs = s.remTs := rfl
@[simp] theorem modCore_ctrOwner (s : State) (c : Nat) (f : Core → Core) : (s.modCore c f).ctrOwner = s.ctrOwner := rfl
@[simp] theorem modCore_vigOwner (s : State) (c : Nat) (f : Core → Core) : (s.modCore c f).vigOwner = s.vigOwner := rfl
@[simp] theorem modCore_vigils (s : State) (c : Nat) (f : Core → Core) : (s.modCore c f).vigils = s.vigils := rfl
@[simp] theorem modCore_firing (s : State) (c : Nat) (f : Core → Core) : (s.modCore c f).firing = s.firing := rfl
@[simp] theorem modCore_arms (s : State) (c : Nat) (f : Core → Core) : (s.modCore c f).arms = s.arms := rfl
@[simp] theorem modCore_flits (s : State) (c : Nat) (f : Core → Core) : (s.modCore c f).flits = s.flits := rfl
@[simp] theorem modCore_groups (s : State) (c : Nat) (f : Core → Core) : (s.modCore c f).groups = s.groups := rfl
@[simp] theorem modCore_holidays (s : State) (c : Nat) (f : Core → Core) : (s.modCore c f).holidays = s.holidays := rfl
@[simp] theorem modCore_nextHoliday (s : State) (c : Nat) (f : Core → Core) : (s.modCore c f).nextHoliday = s.nextHoliday := rfl
@[simp] theorem modCore_chunks (s : State) (c : Nat) (f : Core → Core) : (s.modCore c f).chunks = s.chunks := rfl
@[simp] theorem modCore_chunkSeen (s : State) (c : Nat) (f : Core → Core) : (s.modCore c f).chunkSeen = s.chunkSeen := rfl
@[simp] theorem modCore_chunkWait (s : State) (c : Nat) (f : Core → Core) : (s.modCore c f).chunkWait = s.chunkWait := rfl
@[simp] theorem modCore_nextTag (s : State) (c : Nat) (f : Core → Core) : (s.modCore c f).nextTag = s.nextTag := rfl
@[simp] theorem modCore_remPend (s : State) (c : Nat) (f : Core → Core) : (s.modCore c f).remPend = s.remPend := rfl
@[simp] theorem modCore_remIns (s : State) (c : Nat) (f : Core → Core) : (s.modCore c f).remIns = s.remIns := rfl
@[simp] theorem modCore_nsendWait (s : State) (c : Nat) (f : Core → Core) : (s.modCore c f).nsendWait = s.nsendWait := rfl
@[simp] theorem modCore_nsendAck (s : State) (c : Nat) (f : Core → Core) : (s.modCore c f).nsendAck = s.nsendAck := rfl
@[simp] theorem modCore_nsendTo (s : State) (c : Nat) (f : Core → Core) : (s.modCore c f).nsendTo = s.nsendTo := rfl
@[simp] theorem modCore_mcasts (s : State) (c : Nat) (f : Core → Core) : (s.modCore c f).mcasts = s.mcasts := rfl
@[simp] theorem modCore_rank (s : State) (c : Nat) (f : Core → Core) : (s.modCore c f).rank = s.rank := rfl
@[simp] theorem modCore_inPod (s : State) (c : Nat) (f : Core → Core) : (s.modCore c f).inPod = s.inPod := rfl
@[simp] theorem modCore_macsec (s : State) (c : Nat) (f : Core → Core) : (s.modCore c f).macsec = s.macsec := rfl
@[simp] theorem modCore_kalends (s : State) (c : Nat) (f : Core → Core) : (s.modCore c f).kalends = s.kalends := rfl
@[simp] theorem modCore_cycle (s : State) (c : Nat) (f : Core → Core) : (s.modCore c f).cycle = s.cycle := rfl
@[simp] theorem modCore_rate (s : State) (c : Nat) (f : Core → Core) : (s.modCore c f).rate = s.rate := rfl
@[simp] theorem modCore_ratefrac (s : State) (c : Nat) (f : Core → Core) : (s.modCore c f).ratefrac = s.ratefrac := rfl
@[simp] theorem modCore_locked (s : State) (c : Nat) (f : Core → Core) : (s.modCore c f).locked = s.locked := rfl
@[simp] theorem modCore_boot (s : State) (c : Nat) (f : Core → Core) : (s.modCore c f).boot = s.boot := rfl
@[simp] theorem modCore_measure (s : State) (c : Nat) (f : Core → Core) : (s.modCore c f).measure = s.measure := rfl
@[simp] theorem modCore_nonce (s : State) (c : Nat) (f : Core → Core) : (s.modCore c f).nonce = s.nonce := rfl
@[simp] theorem modCore_kemKeys (s : State) (c : Nat) (f : Core → Core) : (s.modCore c f).kemKeys = s.kemKeys := rfl
@[simp] theorem modCore_session (s : State) (c : Nat) (f : Core → Core) : (s.modCore c f).session = s.session := rfl
@[simp] theorem modCore_nextSession (s : State) (c : Nat) (f : Core → Core) : (s.modCore c f).nextSession = s.nextSession := rfl
@[simp] theorem modCore_sessions (s : State) (c : Nat) (f : Core → Core) : (s.modCore c f).sessions = s.sessions := rfl
@[simp] theorem modCore_everSession (s : State) (c : Nat) (f : Core → Core) : (s.modCore c f).everSession = s.everSession := rfl
@[simp] theorem modCore_dropped (s : State) (c : Nat) (f : Core → Core) : (s.modCore c f).dropped = s.dropped := rfl
@[simp] theorem modCore_tolerance (s : State) (c : Nat) (f : Core → Core) : (s.modCore c f).tolerance = s.tolerance := rfl
@[simp] theorem modCore_retention (s : State) (c : Nat) (f : Core → Core) : (s.modCore c f).retention = s.retention := rfl
@[simp] theorem modCore_asleep (s : State) (c : Nat) (f : Core → Core) : (s.modCore c f).asleep = s.asleep := rfl
@[simp] theorem modCore_sampleAt (s : State) (c : Nat) (f : Core → Core) : (s.modCore c f).sampleAt = s.sampleAt := rfl
@[simp] theorem modCore_periods (s : State) (c : Nat) (f : Core → Core) : (s.modCore c f).periods = s.periods := rfl
@[simp] theorem modCore_powerAt (s : State) (c : Nat) (f : Core → Core) : (s.modCore c f).powerAt = s.powerAt := rfl
@[simp] theorem modCore_scrubAt (s : State) (c : Nat) (f : Core → Core) : (s.modCore c f).scrubAt = s.scrubAt := rfl
@[simp] theorem modCore_errcnt (s : State) (c : Nat) (f : Core → Core) : (s.modCore c f).errcnt = s.errcnt := rfl
@[simp] theorem modCore_fwAsid (s : State) (c : Nat) (f : Core → Core) : (s.modCore c f).fwAsid = s.fwAsid := rfl
@[simp] theorem modCore_outbox (s : State) (c : Nat) (f : Core → Core) : (s.modCore c f).outbox = s.outbox := rfl
@[simp] theorem modCore_agenda (s : State) (c : Nat) (f : Core → Core) : (s.modCore c f).agenda = s.agenda := rfl
@[simp] theorem modCore_port (s : State) (c : Nat) (f : Core → Core) : (s.modCore c f).port = s.port := rfl
@[simp] theorem modCore_draws (s : State) (c : Nat) (f : Core → Core) : (s.modCore c f).draws = s.draws := rfl
@[simp] theorem modCore_joint (s : State) (c : Nat) (f : Core → Core) : (s.modCore c f).joint = s.joint := rfl

/-! ### setBlock -/

@[simp] theorem setBlock_mem (s : State) (c k : Nat) (b : Block) : (s.setBlock c k b).mem = s.mem := rfl
@[simp] theorem setBlock_poison (s : State) (c k : Nat) (b : Block) : (s.setBlock c k b).poison = s.poison := rfl
@[simp] theorem setBlock_l2 (s : State) (c k : Nat) (b : Block) : (s.setBlock c k b).l2 = s.l2 := rfl
@[simp] theorem setBlock_mts (s : State) (c k : Nat) (b : Block) : (s.setBlock c k b).mts = s.mts := rfl
@[simp] theorem setBlock_rebases (s : State) (c k : Nat) (b : Block) : (s.setBlock c k b).rebases = s.rebases := rfl
@[simp] theorem setBlock_rebasing (s : State) (c k : Nat) (b : Block) : (s.setBlock c k b).rebasing = s.rebasing := rfl
@[simp] theorem setBlock_cores (s : State) (c k : Nat) (b : Block) : (s.setBlock c k b).cores = s.cores := rfl
@[simp] theorem setBlock_dies (s : State) (c k : Nat) (b : Block) : (s.setBlock c k b).dies = s.dies := rfl
@[simp] theorem setBlock_ioPartials (s : State) (c k : Nat) (b : Block) : (s.setBlock c k b).ioPartials = s.ioPartials := rfl
@[simp] theorem setBlock_ctxs (s : State) (c k : Nat) (b : Block) : (s.setBlock c k b).ctxs = s.ctxs := rfl
@[simp] theorem setBlock_rings (s : State) (c k : Nat) (b : Block) : (s.setBlock c k b).rings = s.rings := rfl
@[simp] theorem setBlock_lastRing (s : State) (c k : Nat) (b : Block) : (s.setBlock c k b).lastRing = s.lastRing := rfl
@[simp] theorem setBlock_pkts (s : State) (c k : Nat) (b : Block) : (s.setBlock c k b).pkts = s.pkts := rfl
@[simp] theorem setBlock_nextPkt (s : State) (c k : Nat) (b : Block) : (s.setBlock c k b).nextPkt = s.nextPkt := rfl
@[simp] theorem setBlock_grids (s : State) (c k : Nat) (b : Block) : (s.setBlock c k b).grids = s.grids := rfl
@[simp] theorem setBlock_nextGrid (s : State) (c k : Nat) (b : Block) : (s.setBlock c k b).nextGrid = s.nextGrid := rfl
@[simp] theorem setBlock_pipes (s : State) (c k : Nat) (b : Block) : (s.setBlock c k b).pipes = s.pipes := rfl
@[simp] theorem setBlock_counters (s : State) (c k : Nat) (b : Block) : (s.setBlock c k b).counters = s.counters := rfl
@[simp] theorem setBlock_ctrTs (s : State) (c k : Nat) (b : Block) : (s.setBlock c k b).ctrTs = s.ctrTs := rfl
@[simp] theorem setBlock_remTs (s : State) (c k : Nat) (b : Block) : (s.setBlock c k b).remTs = s.remTs := rfl
@[simp] theorem setBlock_ctrOwner (s : State) (c k : Nat) (b : Block) : (s.setBlock c k b).ctrOwner = s.ctrOwner := rfl
@[simp] theorem setBlock_vigOwner (s : State) (c k : Nat) (b : Block) : (s.setBlock c k b).vigOwner = s.vigOwner := rfl
@[simp] theorem setBlock_vigils (s : State) (c k : Nat) (b : Block) : (s.setBlock c k b).vigils = s.vigils := rfl
@[simp] theorem setBlock_firing (s : State) (c k : Nat) (b : Block) : (s.setBlock c k b).firing = s.firing := rfl
@[simp] theorem setBlock_arms (s : State) (c k : Nat) (b : Block) : (s.setBlock c k b).arms = s.arms := rfl
@[simp] theorem setBlock_flits (s : State) (c k : Nat) (b : Block) : (s.setBlock c k b).flits = s.flits := rfl
@[simp] theorem setBlock_groups (s : State) (c k : Nat) (b : Block) : (s.setBlock c k b).groups = s.groups := rfl
@[simp] theorem setBlock_holidays (s : State) (c k : Nat) (b : Block) : (s.setBlock c k b).holidays = s.holidays := rfl
@[simp] theorem setBlock_nextHoliday (s : State) (c k : Nat) (b : Block) : (s.setBlock c k b).nextHoliday = s.nextHoliday := rfl
@[simp] theorem setBlock_chunks (s : State) (c k : Nat) (b : Block) : (s.setBlock c k b).chunks = s.chunks := rfl
@[simp] theorem setBlock_chunkSeen (s : State) (c k : Nat) (b : Block) : (s.setBlock c k b).chunkSeen = s.chunkSeen := rfl
@[simp] theorem setBlock_chunkWait (s : State) (c k : Nat) (b : Block) : (s.setBlock c k b).chunkWait = s.chunkWait := rfl
@[simp] theorem setBlock_nextTag (s : State) (c k : Nat) (b : Block) : (s.setBlock c k b).nextTag = s.nextTag := rfl
@[simp] theorem setBlock_remPend (s : State) (c k : Nat) (b : Block) : (s.setBlock c k b).remPend = s.remPend := rfl
@[simp] theorem setBlock_remIns (s : State) (c k : Nat) (b : Block) : (s.setBlock c k b).remIns = s.remIns := rfl
@[simp] theorem setBlock_nsendWait (s : State) (c k : Nat) (b : Block) : (s.setBlock c k b).nsendWait = s.nsendWait := rfl
@[simp] theorem setBlock_nsendAck (s : State) (c k : Nat) (b : Block) : (s.setBlock c k b).nsendAck = s.nsendAck := rfl
@[simp] theorem setBlock_nsendTo (s : State) (c k : Nat) (b : Block) : (s.setBlock c k b).nsendTo = s.nsendTo := rfl
@[simp] theorem setBlock_mcasts (s : State) (c k : Nat) (b : Block) : (s.setBlock c k b).mcasts = s.mcasts := rfl
@[simp] theorem setBlock_rank (s : State) (c k : Nat) (b : Block) : (s.setBlock c k b).rank = s.rank := rfl
@[simp] theorem setBlock_inPod (s : State) (c k : Nat) (b : Block) : (s.setBlock c k b).inPod = s.inPod := rfl
@[simp] theorem setBlock_macsec (s : State) (c k : Nat) (b : Block) : (s.setBlock c k b).macsec = s.macsec := rfl
@[simp] theorem setBlock_kalends (s : State) (c k : Nat) (b : Block) : (s.setBlock c k b).kalends = s.kalends := rfl
@[simp] theorem setBlock_cycle (s : State) (c k : Nat) (b : Block) : (s.setBlock c k b).cycle = s.cycle := rfl
@[simp] theorem setBlock_rate (s : State) (c k : Nat) (b : Block) : (s.setBlock c k b).rate = s.rate := rfl
@[simp] theorem setBlock_ratefrac (s : State) (c k : Nat) (b : Block) : (s.setBlock c k b).ratefrac = s.ratefrac := rfl
@[simp] theorem setBlock_locked (s : State) (c k : Nat) (b : Block) : (s.setBlock c k b).locked = s.locked := rfl
@[simp] theorem setBlock_boot (s : State) (c k : Nat) (b : Block) : (s.setBlock c k b).boot = s.boot := rfl
@[simp] theorem setBlock_measure (s : State) (c k : Nat) (b : Block) : (s.setBlock c k b).measure = s.measure := rfl
@[simp] theorem setBlock_nonce (s : State) (c k : Nat) (b : Block) : (s.setBlock c k b).nonce = s.nonce := rfl
@[simp] theorem setBlock_kemKeys (s : State) (c k : Nat) (b : Block) : (s.setBlock c k b).kemKeys = s.kemKeys := rfl
@[simp] theorem setBlock_session (s : State) (c k : Nat) (b : Block) : (s.setBlock c k b).session = s.session := rfl
@[simp] theorem setBlock_nextSession (s : State) (c k : Nat) (b : Block) : (s.setBlock c k b).nextSession = s.nextSession := rfl
@[simp] theorem setBlock_sessions (s : State) (c k : Nat) (b : Block) : (s.setBlock c k b).sessions = s.sessions := rfl
@[simp] theorem setBlock_everSession (s : State) (c k : Nat) (b : Block) : (s.setBlock c k b).everSession = s.everSession := rfl
@[simp] theorem setBlock_dropped (s : State) (c k : Nat) (b : Block) : (s.setBlock c k b).dropped = s.dropped := rfl
@[simp] theorem setBlock_tolerance (s : State) (c k : Nat) (b : Block) : (s.setBlock c k b).tolerance = s.tolerance := rfl
@[simp] theorem setBlock_retention (s : State) (c k : Nat) (b : Block) : (s.setBlock c k b).retention = s.retention := rfl
@[simp] theorem setBlock_asleep (s : State) (c k : Nat) (b : Block) : (s.setBlock c k b).asleep = s.asleep := rfl
@[simp] theorem setBlock_sampleAt (s : State) (c k : Nat) (b : Block) : (s.setBlock c k b).sampleAt = s.sampleAt := rfl
@[simp] theorem setBlock_periods (s : State) (c k : Nat) (b : Block) : (s.setBlock c k b).periods = s.periods := rfl
@[simp] theorem setBlock_powerAt (s : State) (c k : Nat) (b : Block) : (s.setBlock c k b).powerAt = s.powerAt := rfl
@[simp] theorem setBlock_scrubAt (s : State) (c k : Nat) (b : Block) : (s.setBlock c k b).scrubAt = s.scrubAt := rfl
@[simp] theorem setBlock_errcnt (s : State) (c k : Nat) (b : Block) : (s.setBlock c k b).errcnt = s.errcnt := rfl
@[simp] theorem setBlock_fwAsid (s : State) (c k : Nat) (b : Block) : (s.setBlock c k b).fwAsid = s.fwAsid := rfl
@[simp] theorem setBlock_outbox (s : State) (c k : Nat) (b : Block) : (s.setBlock c k b).outbox = s.outbox := rfl
@[simp] theorem setBlock_agenda (s : State) (c k : Nat) (b : Block) : (s.setBlock c k b).agenda = s.agenda := rfl
@[simp] theorem setBlock_port (s : State) (c k : Nat) (b : Block) : (s.setBlock c k b).port = s.port := rfl
@[simp] theorem setBlock_draws (s : State) (c k : Nat) (b : Block) : (s.setBlock c k b).draws = s.draws := rfl
@[simp] theorem setBlock_joint (s : State) (c k : Nat) (b : Block) : (s.setBlock c k b).joint = s.joint := rfl

/-! ### modBlock -/

@[simp] theorem modBlock_mem (s : State) (c k : Nat) (f : Block → Block) : (s.modBlock c k f).mem = s.mem := rfl
@[simp] theorem modBlock_poison (s : State) (c k : Nat) (f : Block → Block) : (s.modBlock c k f).poison = s.poison := rfl
@[simp] theorem modBlock_l2 (s : State) (c k : Nat) (f : Block → Block) : (s.modBlock c k f).l2 = s.l2 := rfl
@[simp] theorem modBlock_mts (s : State) (c k : Nat) (f : Block → Block) : (s.modBlock c k f).mts = s.mts := rfl
@[simp] theorem modBlock_rebases (s : State) (c k : Nat) (f : Block → Block) : (s.modBlock c k f).rebases = s.rebases := rfl
@[simp] theorem modBlock_rebasing (s : State) (c k : Nat) (f : Block → Block) : (s.modBlock c k f).rebasing = s.rebasing := rfl
@[simp] theorem modBlock_cores (s : State) (c k : Nat) (f : Block → Block) : (s.modBlock c k f).cores = s.cores := rfl
@[simp] theorem modBlock_dies (s : State) (c k : Nat) (f : Block → Block) : (s.modBlock c k f).dies = s.dies := rfl
@[simp] theorem modBlock_ioPartials (s : State) (c k : Nat) (f : Block → Block) : (s.modBlock c k f).ioPartials = s.ioPartials := rfl
@[simp] theorem modBlock_ctxs (s : State) (c k : Nat) (f : Block → Block) : (s.modBlock c k f).ctxs = s.ctxs := rfl
@[simp] theorem modBlock_rings (s : State) (c k : Nat) (f : Block → Block) : (s.modBlock c k f).rings = s.rings := rfl
@[simp] theorem modBlock_lastRing (s : State) (c k : Nat) (f : Block → Block) : (s.modBlock c k f).lastRing = s.lastRing := rfl
@[simp] theorem modBlock_pkts (s : State) (c k : Nat) (f : Block → Block) : (s.modBlock c k f).pkts = s.pkts := rfl
@[simp] theorem modBlock_nextPkt (s : State) (c k : Nat) (f : Block → Block) : (s.modBlock c k f).nextPkt = s.nextPkt := rfl
@[simp] theorem modBlock_grids (s : State) (c k : Nat) (f : Block → Block) : (s.modBlock c k f).grids = s.grids := rfl
@[simp] theorem modBlock_nextGrid (s : State) (c k : Nat) (f : Block → Block) : (s.modBlock c k f).nextGrid = s.nextGrid := rfl
@[simp] theorem modBlock_pipes (s : State) (c k : Nat) (f : Block → Block) : (s.modBlock c k f).pipes = s.pipes := rfl
@[simp] theorem modBlock_counters (s : State) (c k : Nat) (f : Block → Block) : (s.modBlock c k f).counters = s.counters := rfl
@[simp] theorem modBlock_ctrTs (s : State) (c k : Nat) (f : Block → Block) : (s.modBlock c k f).ctrTs = s.ctrTs := rfl
@[simp] theorem modBlock_remTs (s : State) (c k : Nat) (f : Block → Block) : (s.modBlock c k f).remTs = s.remTs := rfl
@[simp] theorem modBlock_ctrOwner (s : State) (c k : Nat) (f : Block → Block) : (s.modBlock c k f).ctrOwner = s.ctrOwner := rfl
@[simp] theorem modBlock_vigOwner (s : State) (c k : Nat) (f : Block → Block) : (s.modBlock c k f).vigOwner = s.vigOwner := rfl
@[simp] theorem modBlock_vigils (s : State) (c k : Nat) (f : Block → Block) : (s.modBlock c k f).vigils = s.vigils := rfl
@[simp] theorem modBlock_firing (s : State) (c k : Nat) (f : Block → Block) : (s.modBlock c k f).firing = s.firing := rfl
@[simp] theorem modBlock_arms (s : State) (c k : Nat) (f : Block → Block) : (s.modBlock c k f).arms = s.arms := rfl
@[simp] theorem modBlock_flits (s : State) (c k : Nat) (f : Block → Block) : (s.modBlock c k f).flits = s.flits := rfl
@[simp] theorem modBlock_groups (s : State) (c k : Nat) (f : Block → Block) : (s.modBlock c k f).groups = s.groups := rfl
@[simp] theorem modBlock_holidays (s : State) (c k : Nat) (f : Block → Block) : (s.modBlock c k f).holidays = s.holidays := rfl
@[simp] theorem modBlock_nextHoliday (s : State) (c k : Nat) (f : Block → Block) : (s.modBlock c k f).nextHoliday = s.nextHoliday := rfl
@[simp] theorem modBlock_chunks (s : State) (c k : Nat) (f : Block → Block) : (s.modBlock c k f).chunks = s.chunks := rfl
@[simp] theorem modBlock_chunkSeen (s : State) (c k : Nat) (f : Block → Block) : (s.modBlock c k f).chunkSeen = s.chunkSeen := rfl
@[simp] theorem modBlock_chunkWait (s : State) (c k : Nat) (f : Block → Block) : (s.modBlock c k f).chunkWait = s.chunkWait := rfl
@[simp] theorem modBlock_nextTag (s : State) (c k : Nat) (f : Block → Block) : (s.modBlock c k f).nextTag = s.nextTag := rfl
@[simp] theorem modBlock_remPend (s : State) (c k : Nat) (f : Block → Block) : (s.modBlock c k f).remPend = s.remPend := rfl
@[simp] theorem modBlock_remIns (s : State) (c k : Nat) (f : Block → Block) : (s.modBlock c k f).remIns = s.remIns := rfl
@[simp] theorem modBlock_nsendWait (s : State) (c k : Nat) (f : Block → Block) : (s.modBlock c k f).nsendWait = s.nsendWait := rfl
@[simp] theorem modBlock_nsendAck (s : State) (c k : Nat) (f : Block → Block) : (s.modBlock c k f).nsendAck = s.nsendAck := rfl
@[simp] theorem modBlock_nsendTo (s : State) (c k : Nat) (f : Block → Block) : (s.modBlock c k f).nsendTo = s.nsendTo := rfl
@[simp] theorem modBlock_mcasts (s : State) (c k : Nat) (f : Block → Block) : (s.modBlock c k f).mcasts = s.mcasts := rfl
@[simp] theorem modBlock_rank (s : State) (c k : Nat) (f : Block → Block) : (s.modBlock c k f).rank = s.rank := rfl
@[simp] theorem modBlock_inPod (s : State) (c k : Nat) (f : Block → Block) : (s.modBlock c k f).inPod = s.inPod := rfl
@[simp] theorem modBlock_macsec (s : State) (c k : Nat) (f : Block → Block) : (s.modBlock c k f).macsec = s.macsec := rfl
@[simp] theorem modBlock_kalends (s : State) (c k : Nat) (f : Block → Block) : (s.modBlock c k f).kalends = s.kalends := rfl
@[simp] theorem modBlock_cycle (s : State) (c k : Nat) (f : Block → Block) : (s.modBlock c k f).cycle = s.cycle := rfl
@[simp] theorem modBlock_rate (s : State) (c k : Nat) (f : Block → Block) : (s.modBlock c k f).rate = s.rate := rfl
@[simp] theorem modBlock_ratefrac (s : State) (c k : Nat) (f : Block → Block) : (s.modBlock c k f).ratefrac = s.ratefrac := rfl
@[simp] theorem modBlock_locked (s : State) (c k : Nat) (f : Block → Block) : (s.modBlock c k f).locked = s.locked := rfl
@[simp] theorem modBlock_boot (s : State) (c k : Nat) (f : Block → Block) : (s.modBlock c k f).boot = s.boot := rfl
@[simp] theorem modBlock_measure (s : State) (c k : Nat) (f : Block → Block) : (s.modBlock c k f).measure = s.measure := rfl
@[simp] theorem modBlock_nonce (s : State) (c k : Nat) (f : Block → Block) : (s.modBlock c k f).nonce = s.nonce := rfl
@[simp] theorem modBlock_kemKeys (s : State) (c k : Nat) (f : Block → Block) : (s.modBlock c k f).kemKeys = s.kemKeys := rfl
@[simp] theorem modBlock_session (s : State) (c k : Nat) (f : Block → Block) : (s.modBlock c k f).session = s.session := rfl
@[simp] theorem modBlock_nextSession (s : State) (c k : Nat) (f : Block → Block) : (s.modBlock c k f).nextSession = s.nextSession := rfl
@[simp] theorem modBlock_sessions (s : State) (c k : Nat) (f : Block → Block) : (s.modBlock c k f).sessions = s.sessions := rfl
@[simp] theorem modBlock_everSession (s : State) (c k : Nat) (f : Block → Block) : (s.modBlock c k f).everSession = s.everSession := rfl
@[simp] theorem modBlock_dropped (s : State) (c k : Nat) (f : Block → Block) : (s.modBlock c k f).dropped = s.dropped := rfl
@[simp] theorem modBlock_tolerance (s : State) (c k : Nat) (f : Block → Block) : (s.modBlock c k f).tolerance = s.tolerance := rfl
@[simp] theorem modBlock_retention (s : State) (c k : Nat) (f : Block → Block) : (s.modBlock c k f).retention = s.retention := rfl
@[simp] theorem modBlock_asleep (s : State) (c k : Nat) (f : Block → Block) : (s.modBlock c k f).asleep = s.asleep := rfl
@[simp] theorem modBlock_sampleAt (s : State) (c k : Nat) (f : Block → Block) : (s.modBlock c k f).sampleAt = s.sampleAt := rfl
@[simp] theorem modBlock_periods (s : State) (c k : Nat) (f : Block → Block) : (s.modBlock c k f).periods = s.periods := rfl
@[simp] theorem modBlock_powerAt (s : State) (c k : Nat) (f : Block → Block) : (s.modBlock c k f).powerAt = s.powerAt := rfl
@[simp] theorem modBlock_scrubAt (s : State) (c k : Nat) (f : Block → Block) : (s.modBlock c k f).scrubAt = s.scrubAt := rfl
@[simp] theorem modBlock_errcnt (s : State) (c k : Nat) (f : Block → Block) : (s.modBlock c k f).errcnt = s.errcnt := rfl
@[simp] theorem modBlock_fwAsid (s : State) (c k : Nat) (f : Block → Block) : (s.modBlock c k f).fwAsid = s.fwAsid := rfl
@[simp] theorem modBlock_outbox (s : State) (c k : Nat) (f : Block → Block) : (s.modBlock c k f).outbox = s.outbox := rfl
@[simp] theorem modBlock_agenda (s : State) (c k : Nat) (f : Block → Block) : (s.modBlock c k f).agenda = s.agenda := rfl
@[simp] theorem modBlock_port (s : State) (c k : Nat) (f : Block → Block) : (s.modBlock c k f).port = s.port := rfl
@[simp] theorem modBlock_draws (s : State) (c k : Nat) (f : Block → Block) : (s.modBlock c k f).draws = s.draws := rfl
@[simp] theorem modBlock_joint (s : State) (c k : Nat) (f : Block → Block) : (s.modBlock c k f).joint = s.joint := rfl

/-! ### delBlock -/

@[simp] theorem delBlock_mem (s : State) (c k : Nat) : (s.delBlock c k).mem = s.mem := rfl
@[simp] theorem delBlock_poison (s : State) (c k : Nat) : (s.delBlock c k).poison = s.poison := rfl
@[simp] theorem delBlock_l2 (s : State) (c k : Nat) : (s.delBlock c k).l2 = s.l2 := rfl
@[simp] theorem delBlock_mts (s : State) (c k : Nat) : (s.delBlock c k).mts = s.mts := rfl
@[simp] theorem delBlock_rebases (s : State) (c k : Nat) : (s.delBlock c k).rebases = s.rebases := rfl
@[simp] theorem delBlock_rebasing (s : State) (c k : Nat) : (s.delBlock c k).rebasing = s.rebasing := rfl
@[simp] theorem delBlock_cores (s : State) (c k : Nat) : (s.delBlock c k).cores = s.cores := rfl
@[simp] theorem delBlock_dies (s : State) (c k : Nat) : (s.delBlock c k).dies = s.dies := rfl
@[simp] theorem delBlock_ioPartials (s : State) (c k : Nat) : (s.delBlock c k).ioPartials = s.ioPartials := rfl
@[simp] theorem delBlock_ctxs (s : State) (c k : Nat) : (s.delBlock c k).ctxs = s.ctxs := rfl
@[simp] theorem delBlock_rings (s : State) (c k : Nat) : (s.delBlock c k).rings = s.rings := rfl
@[simp] theorem delBlock_lastRing (s : State) (c k : Nat) : (s.delBlock c k).lastRing = s.lastRing := rfl
@[simp] theorem delBlock_pkts (s : State) (c k : Nat) : (s.delBlock c k).pkts = s.pkts := rfl
@[simp] theorem delBlock_nextPkt (s : State) (c k : Nat) : (s.delBlock c k).nextPkt = s.nextPkt := rfl
@[simp] theorem delBlock_grids (s : State) (c k : Nat) : (s.delBlock c k).grids = s.grids := rfl
@[simp] theorem delBlock_nextGrid (s : State) (c k : Nat) : (s.delBlock c k).nextGrid = s.nextGrid := rfl
@[simp] theorem delBlock_pipes (s : State) (c k : Nat) : (s.delBlock c k).pipes = s.pipes := rfl
@[simp] theorem delBlock_counters (s : State) (c k : Nat) : (s.delBlock c k).counters = s.counters := rfl
@[simp] theorem delBlock_ctrTs (s : State) (c k : Nat) : (s.delBlock c k).ctrTs = s.ctrTs := rfl
@[simp] theorem delBlock_remTs (s : State) (c k : Nat) : (s.delBlock c k).remTs = s.remTs := rfl
@[simp] theorem delBlock_ctrOwner (s : State) (c k : Nat) : (s.delBlock c k).ctrOwner = s.ctrOwner := rfl
@[simp] theorem delBlock_vigOwner (s : State) (c k : Nat) : (s.delBlock c k).vigOwner = s.vigOwner := rfl
@[simp] theorem delBlock_vigils (s : State) (c k : Nat) : (s.delBlock c k).vigils = s.vigils := rfl
@[simp] theorem delBlock_firing (s : State) (c k : Nat) : (s.delBlock c k).firing = s.firing := rfl
@[simp] theorem delBlock_arms (s : State) (c k : Nat) : (s.delBlock c k).arms = s.arms := rfl
@[simp] theorem delBlock_flits (s : State) (c k : Nat) : (s.delBlock c k).flits = s.flits := rfl
@[simp] theorem delBlock_groups (s : State) (c k : Nat) : (s.delBlock c k).groups = s.groups := rfl
@[simp] theorem delBlock_holidays (s : State) (c k : Nat) : (s.delBlock c k).holidays = s.holidays := rfl
@[simp] theorem delBlock_nextHoliday (s : State) (c k : Nat) : (s.delBlock c k).nextHoliday = s.nextHoliday := rfl
@[simp] theorem delBlock_chunks (s : State) (c k : Nat) : (s.delBlock c k).chunks = s.chunks := rfl
@[simp] theorem delBlock_chunkSeen (s : State) (c k : Nat) : (s.delBlock c k).chunkSeen = s.chunkSeen := rfl
@[simp] theorem delBlock_chunkWait (s : State) (c k : Nat) : (s.delBlock c k).chunkWait = s.chunkWait := rfl
@[simp] theorem delBlock_nextTag (s : State) (c k : Nat) : (s.delBlock c k).nextTag = s.nextTag := rfl
@[simp] theorem delBlock_remPend (s : State) (c k : Nat) : (s.delBlock c k).remPend = s.remPend := rfl
@[simp] theorem delBlock_remIns (s : State) (c k : Nat) : (s.delBlock c k).remIns = s.remIns := rfl
@[simp] theorem delBlock_nsendWait (s : State) (c k : Nat) : (s.delBlock c k).nsendWait = s.nsendWait := rfl
@[simp] theorem delBlock_nsendAck (s : State) (c k : Nat) : (s.delBlock c k).nsendAck = s.nsendAck := rfl
@[simp] theorem delBlock_nsendTo (s : State) (c k : Nat) : (s.delBlock c k).nsendTo = s.nsendTo := rfl
@[simp] theorem delBlock_mcasts (s : State) (c k : Nat) : (s.delBlock c k).mcasts = s.mcasts := rfl
@[simp] theorem delBlock_rank (s : State) (c k : Nat) : (s.delBlock c k).rank = s.rank := rfl
@[simp] theorem delBlock_inPod (s : State) (c k : Nat) : (s.delBlock c k).inPod = s.inPod := rfl
@[simp] theorem delBlock_macsec (s : State) (c k : Nat) : (s.delBlock c k).macsec = s.macsec := rfl
@[simp] theorem delBlock_kalends (s : State) (c k : Nat) : (s.delBlock c k).kalends = s.kalends := rfl
@[simp] theorem delBlock_cycle (s : State) (c k : Nat) : (s.delBlock c k).cycle = s.cycle := rfl
@[simp] theorem delBlock_rate (s : State) (c k : Nat) : (s.delBlock c k).rate = s.rate := rfl
@[simp] theorem delBlock_ratefrac (s : State) (c k : Nat) : (s.delBlock c k).ratefrac = s.ratefrac := rfl
@[simp] theorem delBlock_locked (s : State) (c k : Nat) : (s.delBlock c k).locked = s.locked := rfl
@[simp] theorem delBlock_boot (s : State) (c k : Nat) : (s.delBlock c k).boot = s.boot := rfl
@[simp] theorem delBlock_measure (s : State) (c k : Nat) : (s.delBlock c k).measure = s.measure := rfl
@[simp] theorem delBlock_nonce (s : State) (c k : Nat) : (s.delBlock c k).nonce = s.nonce := rfl
@[simp] theorem delBlock_kemKeys (s : State) (c k : Nat) : (s.delBlock c k).kemKeys = s.kemKeys := rfl
@[simp] theorem delBlock_session (s : State) (c k : Nat) : (s.delBlock c k).session = s.session := rfl
@[simp] theorem delBlock_nextSession (s : State) (c k : Nat) : (s.delBlock c k).nextSession = s.nextSession := rfl
@[simp] theorem delBlock_sessions (s : State) (c k : Nat) : (s.delBlock c k).sessions = s.sessions := rfl
@[simp] theorem delBlock_everSession (s : State) (c k : Nat) : (s.delBlock c k).everSession = s.everSession := rfl
@[simp] theorem delBlock_dropped (s : State) (c k : Nat) : (s.delBlock c k).dropped = s.dropped := rfl
@[simp] theorem delBlock_tolerance (s : State) (c k : Nat) : (s.delBlock c k).tolerance = s.tolerance := rfl
@[simp] theorem delBlock_retention (s : State) (c k : Nat) : (s.delBlock c k).retention = s.retention := rfl
@[simp] theorem delBlock_asleep (s : State) (c k : Nat) : (s.delBlock c k).asleep = s.asleep := rfl
@[simp] theorem delBlock_sampleAt (s : State) (c k : Nat) : (s.delBlock c k).sampleAt = s.sampleAt := rfl
@[simp] theorem delBlock_periods (s : State) (c k : Nat) : (s.delBlock c k).periods = s.periods := rfl
@[simp] theorem delBlock_powerAt (s : State) (c k : Nat) : (s.delBlock c k).powerAt = s.powerAt := rfl
@[simp] theorem delBlock_scrubAt (s : State) (c k : Nat) : (s.delBlock c k).scrubAt = s.scrubAt := rfl
@[simp] theorem delBlock_errcnt (s : State) (c k : Nat) : (s.delBlock c k).errcnt = s.errcnt := rfl
@[simp] theorem delBlock_fwAsid (s : State) (c k : Nat) : (s.delBlock c k).fwAsid = s.fwAsid := rfl
@[simp] theorem delBlock_outbox (s : State) (c k : Nat) : (s.delBlock c k).outbox = s.outbox := rfl
@[simp] theorem delBlock_agenda (s : State) (c k : Nat) : (s.delBlock c k).agenda = s.agenda := rfl
@[simp] theorem delBlock_port (s : State) (c k : Nat) : (s.delBlock c k).port = s.port := rfl
@[simp] theorem delBlock_draws (s : State) (c k : Nat) : (s.delBlock c k).draws = s.draws := rfl
@[simp] theorem delBlock_joint (s : State) (c k : Nat) : (s.delBlock c k).joint = s.joint := rfl

/-! ### modWarp -/

@[simp] theorem modWarp_mem (s : State) (c k m : Nat) (f : Warp → Warp) : (s.modWarp c k m f).mem = s.mem := rfl
@[simp] theorem modWarp_poison (s : State) (c k m : Nat) (f : Warp → Warp) : (s.modWarp c k m f).poison = s.poison := rfl
@[simp] theorem modWarp_l2 (s : State) (c k m : Nat) (f : Warp → Warp) : (s.modWarp c k m f).l2 = s.l2 := rfl
@[simp] theorem modWarp_mts (s : State) (c k m : Nat) (f : Warp → Warp) : (s.modWarp c k m f).mts = s.mts := rfl
@[simp] theorem modWarp_rebases (s : State) (c k m : Nat) (f : Warp → Warp) : (s.modWarp c k m f).rebases = s.rebases := rfl
@[simp] theorem modWarp_rebasing (s : State) (c k m : Nat) (f : Warp → Warp) : (s.modWarp c k m f).rebasing = s.rebasing := rfl
@[simp] theorem modWarp_cores (s : State) (c k m : Nat) (f : Warp → Warp) : (s.modWarp c k m f).cores = s.cores := rfl
@[simp] theorem modWarp_dies (s : State) (c k m : Nat) (f : Warp → Warp) : (s.modWarp c k m f).dies = s.dies := rfl
@[simp] theorem modWarp_ioPartials (s : State) (c k m : Nat) (f : Warp → Warp) : (s.modWarp c k m f).ioPartials = s.ioPartials := rfl
@[simp] theorem modWarp_ctxs (s : State) (c k m : Nat) (f : Warp → Warp) : (s.modWarp c k m f).ctxs = s.ctxs := rfl
@[simp] theorem modWarp_rings (s : State) (c k m : Nat) (f : Warp → Warp) : (s.modWarp c k m f).rings = s.rings := rfl
@[simp] theorem modWarp_lastRing (s : State) (c k m : Nat) (f : Warp → Warp) : (s.modWarp c k m f).lastRing = s.lastRing := rfl
@[simp] theorem modWarp_pkts (s : State) (c k m : Nat) (f : Warp → Warp) : (s.modWarp c k m f).pkts = s.pkts := rfl
@[simp] theorem modWarp_nextPkt (s : State) (c k m : Nat) (f : Warp → Warp) : (s.modWarp c k m f).nextPkt = s.nextPkt := rfl
@[simp] theorem modWarp_grids (s : State) (c k m : Nat) (f : Warp → Warp) : (s.modWarp c k m f).grids = s.grids := rfl
@[simp] theorem modWarp_nextGrid (s : State) (c k m : Nat) (f : Warp → Warp) : (s.modWarp c k m f).nextGrid = s.nextGrid := rfl
@[simp] theorem modWarp_pipes (s : State) (c k m : Nat) (f : Warp → Warp) : (s.modWarp c k m f).pipes = s.pipes := rfl
@[simp] theorem modWarp_counters (s : State) (c k m : Nat) (f : Warp → Warp) : (s.modWarp c k m f).counters = s.counters := rfl
@[simp] theorem modWarp_ctrTs (s : State) (c k m : Nat) (f : Warp → Warp) : (s.modWarp c k m f).ctrTs = s.ctrTs := rfl
@[simp] theorem modWarp_remTs (s : State) (c k m : Nat) (f : Warp → Warp) : (s.modWarp c k m f).remTs = s.remTs := rfl
@[simp] theorem modWarp_ctrOwner (s : State) (c k m : Nat) (f : Warp → Warp) : (s.modWarp c k m f).ctrOwner = s.ctrOwner := rfl
@[simp] theorem modWarp_vigOwner (s : State) (c k m : Nat) (f : Warp → Warp) : (s.modWarp c k m f).vigOwner = s.vigOwner := rfl
@[simp] theorem modWarp_vigils (s : State) (c k m : Nat) (f : Warp → Warp) : (s.modWarp c k m f).vigils = s.vigils := rfl
@[simp] theorem modWarp_firing (s : State) (c k m : Nat) (f : Warp → Warp) : (s.modWarp c k m f).firing = s.firing := rfl
@[simp] theorem modWarp_arms (s : State) (c k m : Nat) (f : Warp → Warp) : (s.modWarp c k m f).arms = s.arms := rfl
@[simp] theorem modWarp_flits (s : State) (c k m : Nat) (f : Warp → Warp) : (s.modWarp c k m f).flits = s.flits := rfl
@[simp] theorem modWarp_groups (s : State) (c k m : Nat) (f : Warp → Warp) : (s.modWarp c k m f).groups = s.groups := rfl
@[simp] theorem modWarp_holidays (s : State) (c k m : Nat) (f : Warp → Warp) : (s.modWarp c k m f).holidays = s.holidays := rfl
@[simp] theorem modWarp_nextHoliday (s : State) (c k m : Nat) (f : Warp → Warp) : (s.modWarp c k m f).nextHoliday = s.nextHoliday := rfl
@[simp] theorem modWarp_chunks (s : State) (c k m : Nat) (f : Warp → Warp) : (s.modWarp c k m f).chunks = s.chunks := rfl
@[simp] theorem modWarp_chunkSeen (s : State) (c k m : Nat) (f : Warp → Warp) : (s.modWarp c k m f).chunkSeen = s.chunkSeen := rfl
@[simp] theorem modWarp_chunkWait (s : State) (c k m : Nat) (f : Warp → Warp) : (s.modWarp c k m f).chunkWait = s.chunkWait := rfl
@[simp] theorem modWarp_nextTag (s : State) (c k m : Nat) (f : Warp → Warp) : (s.modWarp c k m f).nextTag = s.nextTag := rfl
@[simp] theorem modWarp_remPend (s : State) (c k m : Nat) (f : Warp → Warp) : (s.modWarp c k m f).remPend = s.remPend := rfl
@[simp] theorem modWarp_remIns (s : State) (c k m : Nat) (f : Warp → Warp) : (s.modWarp c k m f).remIns = s.remIns := rfl
@[simp] theorem modWarp_nsendWait (s : State) (c k m : Nat) (f : Warp → Warp) : (s.modWarp c k m f).nsendWait = s.nsendWait := rfl
@[simp] theorem modWarp_nsendAck (s : State) (c k m : Nat) (f : Warp → Warp) : (s.modWarp c k m f).nsendAck = s.nsendAck := rfl
@[simp] theorem modWarp_nsendTo (s : State) (c k m : Nat) (f : Warp → Warp) : (s.modWarp c k m f).nsendTo = s.nsendTo := rfl
@[simp] theorem modWarp_mcasts (s : State) (c k m : Nat) (f : Warp → Warp) : (s.modWarp c k m f).mcasts = s.mcasts := rfl
@[simp] theorem modWarp_rank (s : State) (c k m : Nat) (f : Warp → Warp) : (s.modWarp c k m f).rank = s.rank := rfl
@[simp] theorem modWarp_inPod (s : State) (c k m : Nat) (f : Warp → Warp) : (s.modWarp c k m f).inPod = s.inPod := rfl
@[simp] theorem modWarp_macsec (s : State) (c k m : Nat) (f : Warp → Warp) : (s.modWarp c k m f).macsec = s.macsec := rfl
@[simp] theorem modWarp_kalends (s : State) (c k m : Nat) (f : Warp → Warp) : (s.modWarp c k m f).kalends = s.kalends := rfl
@[simp] theorem modWarp_cycle (s : State) (c k m : Nat) (f : Warp → Warp) : (s.modWarp c k m f).cycle = s.cycle := rfl
@[simp] theorem modWarp_rate (s : State) (c k m : Nat) (f : Warp → Warp) : (s.modWarp c k m f).rate = s.rate := rfl
@[simp] theorem modWarp_ratefrac (s : State) (c k m : Nat) (f : Warp → Warp) : (s.modWarp c k m f).ratefrac = s.ratefrac := rfl
@[simp] theorem modWarp_locked (s : State) (c k m : Nat) (f : Warp → Warp) : (s.modWarp c k m f).locked = s.locked := rfl
@[simp] theorem modWarp_boot (s : State) (c k m : Nat) (f : Warp → Warp) : (s.modWarp c k m f).boot = s.boot := rfl
@[simp] theorem modWarp_measure (s : State) (c k m : Nat) (f : Warp → Warp) : (s.modWarp c k m f).measure = s.measure := rfl
@[simp] theorem modWarp_nonce (s : State) (c k m : Nat) (f : Warp → Warp) : (s.modWarp c k m f).nonce = s.nonce := rfl
@[simp] theorem modWarp_kemKeys (s : State) (c k m : Nat) (f : Warp → Warp) : (s.modWarp c k m f).kemKeys = s.kemKeys := rfl
@[simp] theorem modWarp_session (s : State) (c k m : Nat) (f : Warp → Warp) : (s.modWarp c k m f).session = s.session := rfl
@[simp] theorem modWarp_nextSession (s : State) (c k m : Nat) (f : Warp → Warp) : (s.modWarp c k m f).nextSession = s.nextSession := rfl
@[simp] theorem modWarp_sessions (s : State) (c k m : Nat) (f : Warp → Warp) : (s.modWarp c k m f).sessions = s.sessions := rfl
@[simp] theorem modWarp_everSession (s : State) (c k m : Nat) (f : Warp → Warp) : (s.modWarp c k m f).everSession = s.everSession := rfl
@[simp] theorem modWarp_dropped (s : State) (c k m : Nat) (f : Warp → Warp) : (s.modWarp c k m f).dropped = s.dropped := rfl
@[simp] theorem modWarp_tolerance (s : State) (c k m : Nat) (f : Warp → Warp) : (s.modWarp c k m f).tolerance = s.tolerance := rfl
@[simp] theorem modWarp_retention (s : State) (c k m : Nat) (f : Warp → Warp) : (s.modWarp c k m f).retention = s.retention := rfl
@[simp] theorem modWarp_asleep (s : State) (c k m : Nat) (f : Warp → Warp) : (s.modWarp c k m f).asleep = s.asleep := rfl
@[simp] theorem modWarp_sampleAt (s : State) (c k m : Nat) (f : Warp → Warp) : (s.modWarp c k m f).sampleAt = s.sampleAt := rfl
@[simp] theorem modWarp_periods (s : State) (c k m : Nat) (f : Warp → Warp) : (s.modWarp c k m f).periods = s.periods := rfl
@[simp] theorem modWarp_powerAt (s : State) (c k m : Nat) (f : Warp → Warp) : (s.modWarp c k m f).powerAt = s.powerAt := rfl
@[simp] theorem modWarp_scrubAt (s : State) (c k m : Nat) (f : Warp → Warp) : (s.modWarp c k m f).scrubAt = s.scrubAt := rfl
@[simp] theorem modWarp_errcnt (s : State) (c k m : Nat) (f : Warp → Warp) : (s.modWarp c k m f).errcnt = s.errcnt := rfl
@[simp] theorem modWarp_fwAsid (s : State) (c k m : Nat) (f : Warp → Warp) : (s.modWarp c k m f).fwAsid = s.fwAsid := rfl
@[simp] theorem modWarp_outbox (s : State) (c k m : Nat) (f : Warp → Warp) : (s.modWarp c k m f).outbox = s.outbox := rfl
@[simp] theorem modWarp_agenda (s : State) (c k m : Nat) (f : Warp → Warp) : (s.modWarp c k m f).agenda = s.agenda := rfl
@[simp] theorem modWarp_port (s : State) (c k m : Nat) (f : Warp → Warp) : (s.modWarp c k m f).port = s.port := rfl
@[simp] theorem modWarp_draws (s : State) (c k m : Nat) (f : Warp → Warp) : (s.modWarp c k m f).draws = s.draws := rfl
@[simp] theorem modWarp_joint (s : State) (c k m : Nat) (f : Warp → Warp) : (s.modWarp c k m f).joint = s.joint := rfl

/-! ### modSplit -/

@[simp] theorem modSplit_mem (s : State) (c k m n : Nat) (f : Split → Split) : (s.modSplit c k m n f).mem = s.mem := rfl
@[simp] theorem modSplit_poison (s : State) (c k m n : Nat) (f : Split → Split) : (s.modSplit c k m n f).poison = s.poison := rfl
@[simp] theorem modSplit_l2 (s : State) (c k m n : Nat) (f : Split → Split) : (s.modSplit c k m n f).l2 = s.l2 := rfl
@[simp] theorem modSplit_mts (s : State) (c k m n : Nat) (f : Split → Split) : (s.modSplit c k m n f).mts = s.mts := rfl
@[simp] theorem modSplit_rebases (s : State) (c k m n : Nat) (f : Split → Split) : (s.modSplit c k m n f).rebases = s.rebases := rfl
@[simp] theorem modSplit_rebasing (s : State) (c k m n : Nat) (f : Split → Split) : (s.modSplit c k m n f).rebasing = s.rebasing := rfl
@[simp] theorem modSplit_cores (s : State) (c k m n : Nat) (f : Split → Split) : (s.modSplit c k m n f).cores = s.cores := rfl
@[simp] theorem modSplit_dies (s : State) (c k m n : Nat) (f : Split → Split) : (s.modSplit c k m n f).dies = s.dies := rfl
@[simp] theorem modSplit_ioPartials (s : State) (c k m n : Nat) (f : Split → Split) : (s.modSplit c k m n f).ioPartials = s.ioPartials := rfl
@[simp] theorem modSplit_ctxs (s : State) (c k m n : Nat) (f : Split → Split) : (s.modSplit c k m n f).ctxs = s.ctxs := rfl
@[simp] theorem modSplit_rings (s : State) (c k m n : Nat) (f : Split → Split) : (s.modSplit c k m n f).rings = s.rings := rfl
@[simp] theorem modSplit_lastRing (s : State) (c k m n : Nat) (f : Split → Split) : (s.modSplit c k m n f).lastRing = s.lastRing := rfl
@[simp] theorem modSplit_pkts (s : State) (c k m n : Nat) (f : Split → Split) : (s.modSplit c k m n f).pkts = s.pkts := rfl
@[simp] theorem modSplit_nextPkt (s : State) (c k m n : Nat) (f : Split → Split) : (s.modSplit c k m n f).nextPkt = s.nextPkt := rfl
@[simp] theorem modSplit_grids (s : State) (c k m n : Nat) (f : Split → Split) : (s.modSplit c k m n f).grids = s.grids := rfl
@[simp] theorem modSplit_nextGrid (s : State) (c k m n : Nat) (f : Split → Split) : (s.modSplit c k m n f).nextGrid = s.nextGrid := rfl
@[simp] theorem modSplit_pipes (s : State) (c k m n : Nat) (f : Split → Split) : (s.modSplit c k m n f).pipes = s.pipes := rfl
@[simp] theorem modSplit_counters (s : State) (c k m n : Nat) (f : Split → Split) : (s.modSplit c k m n f).counters = s.counters := rfl
@[simp] theorem modSplit_ctrTs (s : State) (c k m n : Nat) (f : Split → Split) : (s.modSplit c k m n f).ctrTs = s.ctrTs := rfl
@[simp] theorem modSplit_remTs (s : State) (c k m n : Nat) (f : Split → Split) : (s.modSplit c k m n f).remTs = s.remTs := rfl
@[simp] theorem modSplit_ctrOwner (s : State) (c k m n : Nat) (f : Split → Split) : (s.modSplit c k m n f).ctrOwner = s.ctrOwner := rfl
@[simp] theorem modSplit_vigOwner (s : State) (c k m n : Nat) (f : Split → Split) : (s.modSplit c k m n f).vigOwner = s.vigOwner := rfl
@[simp] theorem modSplit_vigils (s : State) (c k m n : Nat) (f : Split → Split) : (s.modSplit c k m n f).vigils = s.vigils := rfl
@[simp] theorem modSplit_firing (s : State) (c k m n : Nat) (f : Split → Split) : (s.modSplit c k m n f).firing = s.firing := rfl
@[simp] theorem modSplit_arms (s : State) (c k m n : Nat) (f : Split → Split) : (s.modSplit c k m n f).arms = s.arms := rfl
@[simp] theorem modSplit_flits (s : State) (c k m n : Nat) (f : Split → Split) : (s.modSplit c k m n f).flits = s.flits := rfl
@[simp] theorem modSplit_groups (s : State) (c k m n : Nat) (f : Split → Split) : (s.modSplit c k m n f).groups = s.groups := rfl
@[simp] theorem modSplit_holidays (s : State) (c k m n : Nat) (f : Split → Split) : (s.modSplit c k m n f).holidays = s.holidays := rfl
@[simp] theorem modSplit_nextHoliday (s : State) (c k m n : Nat) (f : Split → Split) : (s.modSplit c k m n f).nextHoliday = s.nextHoliday := rfl
@[simp] theorem modSplit_chunks (s : State) (c k m n : Nat) (f : Split → Split) : (s.modSplit c k m n f).chunks = s.chunks := rfl
@[simp] theorem modSplit_chunkSeen (s : State) (c k m n : Nat) (f : Split → Split) : (s.modSplit c k m n f).chunkSeen = s.chunkSeen := rfl
@[simp] theorem modSplit_chunkWait (s : State) (c k m n : Nat) (f : Split → Split) : (s.modSplit c k m n f).chunkWait = s.chunkWait := rfl
@[simp] theorem modSplit_nextTag (s : State) (c k m n : Nat) (f : Split → Split) : (s.modSplit c k m n f).nextTag = s.nextTag := rfl
@[simp] theorem modSplit_remPend (s : State) (c k m n : Nat) (f : Split → Split) : (s.modSplit c k m n f).remPend = s.remPend := rfl
@[simp] theorem modSplit_remIns (s : State) (c k m n : Nat) (f : Split → Split) : (s.modSplit c k m n f).remIns = s.remIns := rfl
@[simp] theorem modSplit_nsendWait (s : State) (c k m n : Nat) (f : Split → Split) : (s.modSplit c k m n f).nsendWait = s.nsendWait := rfl
@[simp] theorem modSplit_nsendAck (s : State) (c k m n : Nat) (f : Split → Split) : (s.modSplit c k m n f).nsendAck = s.nsendAck := rfl
@[simp] theorem modSplit_nsendTo (s : State) (c k m n : Nat) (f : Split → Split) : (s.modSplit c k m n f).nsendTo = s.nsendTo := rfl
@[simp] theorem modSplit_mcasts (s : State) (c k m n : Nat) (f : Split → Split) : (s.modSplit c k m n f).mcasts = s.mcasts := rfl
@[simp] theorem modSplit_rank (s : State) (c k m n : Nat) (f : Split → Split) : (s.modSplit c k m n f).rank = s.rank := rfl
@[simp] theorem modSplit_inPod (s : State) (c k m n : Nat) (f : Split → Split) : (s.modSplit c k m n f).inPod = s.inPod := rfl
@[simp] theorem modSplit_macsec (s : State) (c k m n : Nat) (f : Split → Split) : (s.modSplit c k m n f).macsec = s.macsec := rfl
@[simp] theorem modSplit_kalends (s : State) (c k m n : Nat) (f : Split → Split) : (s.modSplit c k m n f).kalends = s.kalends := rfl
@[simp] theorem modSplit_cycle (s : State) (c k m n : Nat) (f : Split → Split) : (s.modSplit c k m n f).cycle = s.cycle := rfl
@[simp] theorem modSplit_rate (s : State) (c k m n : Nat) (f : Split → Split) : (s.modSplit c k m n f).rate = s.rate := rfl
@[simp] theorem modSplit_ratefrac (s : State) (c k m n : Nat) (f : Split → Split) : (s.modSplit c k m n f).ratefrac = s.ratefrac := rfl
@[simp] theorem modSplit_locked (s : State) (c k m n : Nat) (f : Split → Split) : (s.modSplit c k m n f).locked = s.locked := rfl
@[simp] theorem modSplit_boot (s : State) (c k m n : Nat) (f : Split → Split) : (s.modSplit c k m n f).boot = s.boot := rfl
@[simp] theorem modSplit_measure (s : State) (c k m n : Nat) (f : Split → Split) : (s.modSplit c k m n f).measure = s.measure := rfl
@[simp] theorem modSplit_nonce (s : State) (c k m n : Nat) (f : Split → Split) : (s.modSplit c k m n f).nonce = s.nonce := rfl
@[simp] theorem modSplit_kemKeys (s : State) (c k m n : Nat) (f : Split → Split) : (s.modSplit c k m n f).kemKeys = s.kemKeys := rfl
@[simp] theorem modSplit_session (s : State) (c k m n : Nat) (f : Split → Split) : (s.modSplit c k m n f).session = s.session := rfl
@[simp] theorem modSplit_nextSession (s : State) (c k m n : Nat) (f : Split → Split) : (s.modSplit c k m n f).nextSession = s.nextSession := rfl
@[simp] theorem modSplit_sessions (s : State) (c k m n : Nat) (f : Split → Split) : (s.modSplit c k m n f).sessions = s.sessions := rfl
@[simp] theorem modSplit_everSession (s : State) (c k m n : Nat) (f : Split → Split) : (s.modSplit c k m n f).everSession = s.everSession := rfl
@[simp] theorem modSplit_dropped (s : State) (c k m n : Nat) (f : Split → Split) : (s.modSplit c k m n f).dropped = s.dropped := rfl
@[simp] theorem modSplit_tolerance (s : State) (c k m n : Nat) (f : Split → Split) : (s.modSplit c k m n f).tolerance = s.tolerance := rfl
@[simp] theorem modSplit_retention (s : State) (c k m n : Nat) (f : Split → Split) : (s.modSplit c k m n f).retention = s.retention := rfl
@[simp] theorem modSplit_asleep (s : State) (c k m n : Nat) (f : Split → Split) : (s.modSplit c k m n f).asleep = s.asleep := rfl
@[simp] theorem modSplit_sampleAt (s : State) (c k m n : Nat) (f : Split → Split) : (s.modSplit c k m n f).sampleAt = s.sampleAt := rfl
@[simp] theorem modSplit_periods (s : State) (c k m n : Nat) (f : Split → Split) : (s.modSplit c k m n f).periods = s.periods := rfl
@[simp] theorem modSplit_powerAt (s : State) (c k m n : Nat) (f : Split → Split) : (s.modSplit c k m n f).powerAt = s.powerAt := rfl
@[simp] theorem modSplit_scrubAt (s : State) (c k m n : Nat) (f : Split → Split) : (s.modSplit c k m n f).scrubAt = s.scrubAt := rfl
@[simp] theorem modSplit_errcnt (s : State) (c k m n : Nat) (f : Split → Split) : (s.modSplit c k m n f).errcnt = s.errcnt := rfl
@[simp] theorem modSplit_fwAsid (s : State) (c k m n : Nat) (f : Split → Split) : (s.modSplit c k m n f).fwAsid = s.fwAsid := rfl
@[simp] theorem modSplit_outbox (s : State) (c k m n : Nat) (f : Split → Split) : (s.modSplit c k m n f).outbox = s.outbox := rfl
@[simp] theorem modSplit_agenda (s : State) (c k m n : Nat) (f : Split → Split) : (s.modSplit c k m n f).agenda = s.agenda := rfl
@[simp] theorem modSplit_port (s : State) (c k m n : Nat) (f : Split → Split) : (s.modSplit c k m n f).port = s.port := rfl
@[simp] theorem modSplit_draws (s : State) (c k m n : Nat) (f : Split → Split) : (s.modSplit c k m n f).draws = s.draws := rfl
@[simp] theorem modSplit_joint (s : State) (c k m n : Nat) (f : Split → Split) : (s.modSplit c k m n f).joint = s.joint := rfl

/-! ### modDie -/

@[simp] theorem modDie_mem (s : State) (d : Nat) (f : Die → Die) : (s.modDie d f).mem = s.mem := rfl
@[simp] theorem modDie_poison (s : State) (d : Nat) (f : Die → Die) : (s.modDie d f).poison = s.poison := rfl
@[simp] theorem modDie_l2 (s : State) (d : Nat) (f : Die → Die) : (s.modDie d f).l2 = s.l2 := rfl
@[simp] theorem modDie_mts (s : State) (d : Nat) (f : Die → Die) : (s.modDie d f).mts = s.mts := rfl
@[simp] theorem modDie_rebases (s : State) (d : Nat) (f : Die → Die) : (s.modDie d f).rebases = s.rebases := rfl
@[simp] theorem modDie_rebasing (s : State) (d : Nat) (f : Die → Die) : (s.modDie d f).rebasing = s.rebasing := rfl
@[simp] theorem modDie_cores (s : State) (d : Nat) (f : Die → Die) : (s.modDie d f).cores = s.cores := rfl
@[simp] theorem modDie_blocks (s : State) (d : Nat) (f : Die → Die) : (s.modDie d f).blocks = s.blocks := rfl
@[simp] theorem modDie_ioPartials (s : State) (d : Nat) (f : Die → Die) : (s.modDie d f).ioPartials = s.ioPartials := rfl
@[simp] theorem modDie_ctxs (s : State) (d : Nat) (f : Die → Die) : (s.modDie d f).ctxs = s.ctxs := rfl
@[simp] theorem modDie_rings (s : State) (d : Nat) (f : Die → Die) : (s.modDie d f).rings = s.rings := rfl
@[simp] theorem modDie_lastRing (s : State) (d : Nat) (f : Die → Die) : (s.modDie d f).lastRing = s.lastRing := rfl
@[simp] theorem modDie_pkts (s : State) (d : Nat) (f : Die → Die) : (s.modDie d f).pkts = s.pkts := rfl
@[simp] theorem modDie_nextPkt (s : State) (d : Nat) (f : Die → Die) : (s.modDie d f).nextPkt = s.nextPkt := rfl
@[simp] theorem modDie_grids (s : State) (d : Nat) (f : Die → Die) : (s.modDie d f).grids = s.grids := rfl
@[simp] theorem modDie_nextGrid (s : State) (d : Nat) (f : Die → Die) : (s.modDie d f).nextGrid = s.nextGrid := rfl
@[simp] theorem modDie_pipes (s : State) (d : Nat) (f : Die → Die) : (s.modDie d f).pipes = s.pipes := rfl
@[simp] theorem modDie_counters (s : State) (d : Nat) (f : Die → Die) : (s.modDie d f).counters = s.counters := rfl
@[simp] theorem modDie_ctrTs (s : State) (d : Nat) (f : Die → Die) : (s.modDie d f).ctrTs = s.ctrTs := rfl
@[simp] theorem modDie_remTs (s : State) (d : Nat) (f : Die → Die) : (s.modDie d f).remTs = s.remTs := rfl
@[simp] theorem modDie_ctrOwner (s : State) (d : Nat) (f : Die → Die) : (s.modDie d f).ctrOwner = s.ctrOwner := rfl
@[simp] theorem modDie_vigOwner (s : State) (d : Nat) (f : Die → Die) : (s.modDie d f).vigOwner = s.vigOwner := rfl
@[simp] theorem modDie_vigils (s : State) (d : Nat) (f : Die → Die) : (s.modDie d f).vigils = s.vigils := rfl
@[simp] theorem modDie_firing (s : State) (d : Nat) (f : Die → Die) : (s.modDie d f).firing = s.firing := rfl
@[simp] theorem modDie_arms (s : State) (d : Nat) (f : Die → Die) : (s.modDie d f).arms = s.arms := rfl
@[simp] theorem modDie_flits (s : State) (d : Nat) (f : Die → Die) : (s.modDie d f).flits = s.flits := rfl
@[simp] theorem modDie_groups (s : State) (d : Nat) (f : Die → Die) : (s.modDie d f).groups = s.groups := rfl
@[simp] theorem modDie_holidays (s : State) (d : Nat) (f : Die → Die) : (s.modDie d f).holidays = s.holidays := rfl
@[simp] theorem modDie_nextHoliday (s : State) (d : Nat) (f : Die → Die) : (s.modDie d f).nextHoliday = s.nextHoliday := rfl
@[simp] theorem modDie_chunks (s : State) (d : Nat) (f : Die → Die) : (s.modDie d f).chunks = s.chunks := rfl
@[simp] theorem modDie_chunkSeen (s : State) (d : Nat) (f : Die → Die) : (s.modDie d f).chunkSeen = s.chunkSeen := rfl
@[simp] theorem modDie_chunkWait (s : State) (d : Nat) (f : Die → Die) : (s.modDie d f).chunkWait = s.chunkWait := rfl
@[simp] theorem modDie_nextTag (s : State) (d : Nat) (f : Die → Die) : (s.modDie d f).nextTag = s.nextTag := rfl
@[simp] theorem modDie_remPend (s : State) (d : Nat) (f : Die → Die) : (s.modDie d f).remPend = s.remPend := rfl
@[simp] theorem modDie_remIns (s : State) (d : Nat) (f : Die → Die) : (s.modDie d f).remIns = s.remIns := rfl
@[simp] theorem modDie_nsendWait (s : State) (d : Nat) (f : Die → Die) : (s.modDie d f).nsendWait = s.nsendWait := rfl
@[simp] theorem modDie_nsendAck (s : State) (d : Nat) (f : Die → Die) : (s.modDie d f).nsendAck = s.nsendAck := rfl
@[simp] theorem modDie_nsendTo (s : State) (d : Nat) (f : Die → Die) : (s.modDie d f).nsendTo = s.nsendTo := rfl
@[simp] theorem modDie_mcasts (s : State) (d : Nat) (f : Die → Die) : (s.modDie d f).mcasts = s.mcasts := rfl
@[simp] theorem modDie_rank (s : State) (d : Nat) (f : Die → Die) : (s.modDie d f).rank = s.rank := rfl
@[simp] theorem modDie_inPod (s : State) (d : Nat) (f : Die → Die) : (s.modDie d f).inPod = s.inPod := rfl
@[simp] theorem modDie_macsec (s : State) (d : Nat) (f : Die → Die) : (s.modDie d f).macsec = s.macsec := rfl
@[simp] theorem modDie_kalends (s : State) (d : Nat) (f : Die → Die) : (s.modDie d f).kalends = s.kalends := rfl
@[simp] theorem modDie_cycle (s : State) (d : Nat) (f : Die → Die) : (s.modDie d f).cycle = s.cycle := rfl
@[simp] theorem modDie_rate (s : State) (d : Nat) (f : Die → Die) : (s.modDie d f).rate = s.rate := rfl
@[simp] theorem modDie_ratefrac (s : State) (d : Nat) (f : Die → Die) : (s.modDie d f).ratefrac = s.ratefrac := rfl
@[simp] theorem modDie_locked (s : State) (d : Nat) (f : Die → Die) : (s.modDie d f).locked = s.locked := rfl
@[simp] theorem modDie_boot (s : State) (d : Nat) (f : Die → Die) : (s.modDie d f).boot = s.boot := rfl
@[simp] theorem modDie_measure (s : State) (d : Nat) (f : Die → Die) : (s.modDie d f).measure = s.measure := rfl
@[simp] theorem modDie_nonce (s : State) (d : Nat) (f : Die → Die) : (s.modDie d f).nonce = s.nonce := rfl
@[simp] theorem modDie_kemKeys (s : State) (d : Nat) (f : Die → Die) : (s.modDie d f).kemKeys = s.kemKeys := rfl
@[simp] theorem modDie_session (s : State) (d : Nat) (f : Die → Die) : (s.modDie d f).session = s.session := rfl
@[simp] theorem modDie_nextSession (s : State) (d : Nat) (f : Die → Die) : (s.modDie d f).nextSession = s.nextSession := rfl
@[simp] theorem modDie_sessions (s : State) (d : Nat) (f : Die → Die) : (s.modDie d f).sessions = s.sessions := rfl
@[simp] theorem modDie_everSession (s : State) (d : Nat) (f : Die → Die) : (s.modDie d f).everSession = s.everSession := rfl
@[simp] theorem modDie_dropped (s : State) (d : Nat) (f : Die → Die) : (s.modDie d f).dropped = s.dropped := rfl
@[simp] theorem modDie_tolerance (s : State) (d : Nat) (f : Die → Die) : (s.modDie d f).tolerance = s.tolerance := rfl
@[simp] theorem modDie_retention (s : State) (d : Nat) (f : Die → Die) : (s.modDie d f).retention = s.retention := rfl
@[simp] theorem modDie_asleep (s : State) (d : Nat) (f : Die → Die) : (s.modDie d f).asleep = s.asleep := rfl
@[simp] theorem modDie_sampleAt (s : State) (d : Nat) (f : Die → Die) : (s.modDie d f).sampleAt = s.sampleAt := rfl
@[simp] theorem modDie_periods (s : State) (d : Nat) (f : Die → Die) : (s.modDie d f).periods = s.periods := rfl
@[simp] theorem modDie_powerAt (s : State) (d : Nat) (f : Die → Die) : (s.modDie d f).powerAt = s.powerAt := rfl
@[simp] theorem modDie_scrubAt (s : State) (d : Nat) (f : Die → Die) : (s.modDie d f).scrubAt = s.scrubAt := rfl
@[simp] theorem modDie_errcnt (s : State) (d : Nat) (f : Die → Die) : (s.modDie d f).errcnt = s.errcnt := rfl
@[simp] theorem modDie_fwAsid (s : State) (d : Nat) (f : Die → Die) : (s.modDie d f).fwAsid = s.fwAsid := rfl
@[simp] theorem modDie_outbox (s : State) (d : Nat) (f : Die → Die) : (s.modDie d f).outbox = s.outbox := rfl
@[simp] theorem modDie_agenda (s : State) (d : Nat) (f : Die → Die) : (s.modDie d f).agenda = s.agenda := rfl
@[simp] theorem modDie_port (s : State) (d : Nat) (f : Die → Die) : (s.modDie d f).port = s.port := rfl
@[simp] theorem modDie_draws (s : State) (d : Nat) (f : Die → Die) : (s.modDie d f).draws = s.draws := rfl
@[simp] theorem modDie_joint (s : State) (d : Nat) (f : Die → Die) : (s.modDie d f).joint = s.joint := rfl

/-! ### modCtx -/

@[simp] theorem modCtx_mem (s : State) (a : Nat) (f : Ctx → Ctx) : (s.modCtx a f).mem = s.mem := rfl
@[simp] theorem modCtx_poison (s : State) (a : Nat) (f : Ctx → Ctx) : (s.modCtx a f).poison = s.poison := rfl
@[simp] theorem modCtx_l2 (s : State) (a : Nat) (f : Ctx → Ctx) : (s.modCtx a f).l2 = s.l2 := rfl
@[simp] theorem modCtx_mts (s : State) (a : Nat) (f : Ctx → Ctx) : (s.modCtx a f).mts = s.mts := rfl
@[simp] theorem modCtx_rebases (s : State) (a : Nat) (f : Ctx → Ctx) : (s.modCtx a f).rebases = s.rebases := rfl
@[simp] theorem modCtx_rebasing (s : State) (a : Nat) (f : Ctx → Ctx) : (s.modCtx a f).rebasing = s.rebasing := rfl
@[simp] theorem modCtx_cores (s : State) (a : Nat) (f : Ctx → Ctx) : (s.modCtx a f).cores = s.cores := rfl
@[simp] theorem modCtx_blocks (s : State) (a : Nat) (f : Ctx → Ctx) : (s.modCtx a f).blocks = s.blocks := rfl
@[simp] theorem modCtx_dies (s : State) (a : Nat) (f : Ctx → Ctx) : (s.modCtx a f).dies = s.dies := rfl
@[simp] theorem modCtx_ioPartials (s : State) (a : Nat) (f : Ctx → Ctx) : (s.modCtx a f).ioPartials = s.ioPartials := rfl
@[simp] theorem modCtx_rings (s : State) (a : Nat) (f : Ctx → Ctx) : (s.modCtx a f).rings = s.rings := rfl
@[simp] theorem modCtx_lastRing (s : State) (a : Nat) (f : Ctx → Ctx) : (s.modCtx a f).lastRing = s.lastRing := rfl
@[simp] theorem modCtx_pkts (s : State) (a : Nat) (f : Ctx → Ctx) : (s.modCtx a f).pkts = s.pkts := rfl
@[simp] theorem modCtx_nextPkt (s : State) (a : Nat) (f : Ctx → Ctx) : (s.modCtx a f).nextPkt = s.nextPkt := rfl
@[simp] theorem modCtx_grids (s : State) (a : Nat) (f : Ctx → Ctx) : (s.modCtx a f).grids = s.grids := rfl
@[simp] theorem modCtx_nextGrid (s : State) (a : Nat) (f : Ctx → Ctx) : (s.modCtx a f).nextGrid = s.nextGrid := rfl
@[simp] theorem modCtx_pipes (s : State) (a : Nat) (f : Ctx → Ctx) : (s.modCtx a f).pipes = s.pipes := rfl
@[simp] theorem modCtx_counters (s : State) (a : Nat) (f : Ctx → Ctx) : (s.modCtx a f).counters = s.counters := rfl
@[simp] theorem modCtx_ctrTs (s : State) (a : Nat) (f : Ctx → Ctx) : (s.modCtx a f).ctrTs = s.ctrTs := rfl
@[simp] theorem modCtx_remTs (s : State) (a : Nat) (f : Ctx → Ctx) : (s.modCtx a f).remTs = s.remTs := rfl
@[simp] theorem modCtx_ctrOwner (s : State) (a : Nat) (f : Ctx → Ctx) : (s.modCtx a f).ctrOwner = s.ctrOwner := rfl
@[simp] theorem modCtx_vigOwner (s : State) (a : Nat) (f : Ctx → Ctx) : (s.modCtx a f).vigOwner = s.vigOwner := rfl
@[simp] theorem modCtx_vigils (s : State) (a : Nat) (f : Ctx → Ctx) : (s.modCtx a f).vigils = s.vigils := rfl
@[simp] theorem modCtx_firing (s : State) (a : Nat) (f : Ctx → Ctx) : (s.modCtx a f).firing = s.firing := rfl
@[simp] theorem modCtx_arms (s : State) (a : Nat) (f : Ctx → Ctx) : (s.modCtx a f).arms = s.arms := rfl
@[simp] theorem modCtx_flits (s : State) (a : Nat) (f : Ctx → Ctx) : (s.modCtx a f).flits = s.flits := rfl
@[simp] theorem modCtx_groups (s : State) (a : Nat) (f : Ctx → Ctx) : (s.modCtx a f).groups = s.groups := rfl
@[simp] theorem modCtx_holidays (s : State) (a : Nat) (f : Ctx → Ctx) : (s.modCtx a f).holidays = s.holidays := rfl
@[simp] theorem modCtx_nextHoliday (s : State) (a : Nat) (f : Ctx → Ctx) : (s.modCtx a f).nextHoliday = s.nextHoliday := rfl
@[simp] theorem modCtx_chunks (s : State) (a : Nat) (f : Ctx → Ctx) : (s.modCtx a f).chunks = s.chunks := rfl
@[simp] theorem modCtx_chunkSeen (s : State) (a : Nat) (f : Ctx → Ctx) : (s.modCtx a f).chunkSeen = s.chunkSeen := rfl
@[simp] theorem modCtx_chunkWait (s : State) (a : Nat) (f : Ctx → Ctx) : (s.modCtx a f).chunkWait = s.chunkWait := rfl
@[simp] theorem modCtx_nextTag (s : State) (a : Nat) (f : Ctx → Ctx) : (s.modCtx a f).nextTag = s.nextTag := rfl
@[simp] theorem modCtx_remPend (s : State) (a : Nat) (f : Ctx → Ctx) : (s.modCtx a f).remPend = s.remPend := rfl
@[simp] theorem modCtx_remIns (s : State) (a : Nat) (f : Ctx → Ctx) : (s.modCtx a f).remIns = s.remIns := rfl
@[simp] theorem modCtx_nsendWait (s : State) (a : Nat) (f : Ctx → Ctx) : (s.modCtx a f).nsendWait = s.nsendWait := rfl
@[simp] theorem modCtx_nsendAck (s : State) (a : Nat) (f : Ctx → Ctx) : (s.modCtx a f).nsendAck = s.nsendAck := rfl
@[simp] theorem modCtx_nsendTo (s : State) (a : Nat) (f : Ctx → Ctx) : (s.modCtx a f).nsendTo = s.nsendTo := rfl
@[simp] theorem modCtx_mcasts (s : State) (a : Nat) (f : Ctx → Ctx) : (s.modCtx a f).mcasts = s.mcasts := rfl
@[simp] theorem modCtx_rank (s : State) (a : Nat) (f : Ctx → Ctx) : (s.modCtx a f).rank = s.rank := rfl
@[simp] theorem modCtx_inPod (s : State) (a : Nat) (f : Ctx → Ctx) : (s.modCtx a f).inPod = s.inPod := rfl
@[simp] theorem modCtx_macsec (s : State) (a : Nat) (f : Ctx → Ctx) : (s.modCtx a f).macsec = s.macsec := rfl
@[simp] theorem modCtx_kalends (s : State) (a : Nat) (f : Ctx → Ctx) : (s.modCtx a f).kalends = s.kalends := rfl
@[simp] theorem modCtx_cycle (s : State) (a : Nat) (f : Ctx → Ctx) : (s.modCtx a f).cycle = s.cycle := rfl
@[simp] theorem modCtx_rate (s : State) (a : Nat) (f : Ctx → Ctx) : (s.modCtx a f).rate = s.rate := rfl
@[simp] theorem modCtx_ratefrac (s : State) (a : Nat) (f : Ctx → Ctx) : (s.modCtx a f).ratefrac = s.ratefrac := rfl
@[simp] theorem modCtx_locked (s : State) (a : Nat) (f : Ctx → Ctx) : (s.modCtx a f).locked = s.locked := rfl
@[simp] theorem modCtx_boot (s : State) (a : Nat) (f : Ctx → Ctx) : (s.modCtx a f).boot = s.boot := rfl
@[simp] theorem modCtx_measure (s : State) (a : Nat) (f : Ctx → Ctx) : (s.modCtx a f).measure = s.measure := rfl
@[simp] theorem modCtx_nonce (s : State) (a : Nat) (f : Ctx → Ctx) : (s.modCtx a f).nonce = s.nonce := rfl
@[simp] theorem modCtx_kemKeys (s : State) (a : Nat) (f : Ctx → Ctx) : (s.modCtx a f).kemKeys = s.kemKeys := rfl
@[simp] theorem modCtx_session (s : State) (a : Nat) (f : Ctx → Ctx) : (s.modCtx a f).session = s.session := rfl
@[simp] theorem modCtx_nextSession (s : State) (a : Nat) (f : Ctx → Ctx) : (s.modCtx a f).nextSession = s.nextSession := rfl
@[simp] theorem modCtx_sessions (s : State) (a : Nat) (f : Ctx → Ctx) : (s.modCtx a f).sessions = s.sessions := rfl
@[simp] theorem modCtx_everSession (s : State) (a : Nat) (f : Ctx → Ctx) : (s.modCtx a f).everSession = s.everSession := rfl
@[simp] theorem modCtx_dropped (s : State) (a : Nat) (f : Ctx → Ctx) : (s.modCtx a f).dropped = s.dropped := rfl
@[simp] theorem modCtx_tolerance (s : State) (a : Nat) (f : Ctx → Ctx) : (s.modCtx a f).tolerance = s.tolerance := rfl
@[simp] theorem modCtx_retention (s : State) (a : Nat) (f : Ctx → Ctx) : (s.modCtx a f).retention = s.retention := rfl
@[simp] theorem modCtx_asleep (s : State) (a : Nat) (f : Ctx → Ctx) : (s.modCtx a f).asleep = s.asleep := rfl
@[simp] theorem modCtx_sampleAt (s : State) (a : Nat) (f : Ctx → Ctx) : (s.modCtx a f).sampleAt = s.sampleAt := rfl
@[simp] theorem modCtx_periods (s : State) (a : Nat) (f : Ctx → Ctx) : (s.modCtx a f).periods = s.periods := rfl
@[simp] theorem modCtx_powerAt (s : State) (a : Nat) (f : Ctx → Ctx) : (s.modCtx a f).powerAt = s.powerAt := rfl
@[simp] theorem modCtx_scrubAt (s : State) (a : Nat) (f : Ctx → Ctx) : (s.modCtx a f).scrubAt = s.scrubAt := rfl
@[simp] theorem modCtx_errcnt (s : State) (a : Nat) (f : Ctx → Ctx) : (s.modCtx a f).errcnt = s.errcnt := rfl
@[simp] theorem modCtx_fwAsid (s : State) (a : Nat) (f : Ctx → Ctx) : (s.modCtx a f).fwAsid = s.fwAsid := rfl
@[simp] theorem modCtx_outbox (s : State) (a : Nat) (f : Ctx → Ctx) : (s.modCtx a f).outbox = s.outbox := rfl
@[simp] theorem modCtx_agenda (s : State) (a : Nat) (f : Ctx → Ctx) : (s.modCtx a f).agenda = s.agenda := rfl
@[simp] theorem modCtx_port (s : State) (a : Nat) (f : Ctx → Ctx) : (s.modCtx a f).port = s.port := rfl
@[simp] theorem modCtx_draws (s : State) (a : Nat) (f : Ctx → Ctx) : (s.modCtx a f).draws = s.draws := rfl
@[simp] theorem modCtx_joint (s : State) (a : Nat) (f : Ctx → Ctx) : (s.modCtx a f).joint = s.joint := rfl

/-! ### modGrid -/

@[simp] theorem modGrid_mem (s : State) (g : Nat) (f : Grid → Grid) : (s.modGrid g f).mem = s.mem := rfl
@[simp] theorem modGrid_poison (s : State) (g : Nat) (f : Grid → Grid) : (s.modGrid g f).poison = s.poison := rfl
@[simp] theorem modGrid_l2 (s : State) (g : Nat) (f : Grid → Grid) : (s.modGrid g f).l2 = s.l2 := rfl
@[simp] theorem modGrid_mts (s : State) (g : Nat) (f : Grid → Grid) : (s.modGrid g f).mts = s.mts := rfl
@[simp] theorem modGrid_rebases (s : State) (g : Nat) (f : Grid → Grid) : (s.modGrid g f).rebases = s.rebases := rfl
@[simp] theorem modGrid_rebasing (s : State) (g : Nat) (f : Grid → Grid) : (s.modGrid g f).rebasing = s.rebasing := rfl
@[simp] theorem modGrid_cores (s : State) (g : Nat) (f : Grid → Grid) : (s.modGrid g f).cores = s.cores := rfl
@[simp] theorem modGrid_blocks (s : State) (g : Nat) (f : Grid → Grid) : (s.modGrid g f).blocks = s.blocks := rfl
@[simp] theorem modGrid_dies (s : State) (g : Nat) (f : Grid → Grid) : (s.modGrid g f).dies = s.dies := rfl
@[simp] theorem modGrid_ioPartials (s : State) (g : Nat) (f : Grid → Grid) : (s.modGrid g f).ioPartials = s.ioPartials := rfl
@[simp] theorem modGrid_ctxs (s : State) (g : Nat) (f : Grid → Grid) : (s.modGrid g f).ctxs = s.ctxs := rfl
@[simp] theorem modGrid_rings (s : State) (g : Nat) (f : Grid → Grid) : (s.modGrid g f).rings = s.rings := rfl
@[simp] theorem modGrid_lastRing (s : State) (g : Nat) (f : Grid → Grid) : (s.modGrid g f).lastRing = s.lastRing := rfl
@[simp] theorem modGrid_pkts (s : State) (g : Nat) (f : Grid → Grid) : (s.modGrid g f).pkts = s.pkts := rfl
@[simp] theorem modGrid_nextPkt (s : State) (g : Nat) (f : Grid → Grid) : (s.modGrid g f).nextPkt = s.nextPkt := rfl
@[simp] theorem modGrid_nextGrid (s : State) (g : Nat) (f : Grid → Grid) : (s.modGrid g f).nextGrid = s.nextGrid := rfl
@[simp] theorem modGrid_pipes (s : State) (g : Nat) (f : Grid → Grid) : (s.modGrid g f).pipes = s.pipes := rfl
@[simp] theorem modGrid_counters (s : State) (g : Nat) (f : Grid → Grid) : (s.modGrid g f).counters = s.counters := rfl
@[simp] theorem modGrid_ctrTs (s : State) (g : Nat) (f : Grid → Grid) : (s.modGrid g f).ctrTs = s.ctrTs := rfl
@[simp] theorem modGrid_remTs (s : State) (g : Nat) (f : Grid → Grid) : (s.modGrid g f).remTs = s.remTs := rfl
@[simp] theorem modGrid_ctrOwner (s : State) (g : Nat) (f : Grid → Grid) : (s.modGrid g f).ctrOwner = s.ctrOwner := rfl
@[simp] theorem modGrid_vigOwner (s : State) (g : Nat) (f : Grid → Grid) : (s.modGrid g f).vigOwner = s.vigOwner := rfl
@[simp] theorem modGrid_vigils (s : State) (g : Nat) (f : Grid → Grid) : (s.modGrid g f).vigils = s.vigils := rfl
@[simp] theorem modGrid_firing (s : State) (g : Nat) (f : Grid → Grid) : (s.modGrid g f).firing = s.firing := rfl
@[simp] theorem modGrid_arms (s : State) (g : Nat) (f : Grid → Grid) : (s.modGrid g f).arms = s.arms := rfl
@[simp] theorem modGrid_flits (s : State) (g : Nat) (f : Grid → Grid) : (s.modGrid g f).flits = s.flits := rfl
@[simp] theorem modGrid_groups (s : State) (g : Nat) (f : Grid → Grid) : (s.modGrid g f).groups = s.groups := rfl
@[simp] theorem modGrid_holidays (s : State) (g : Nat) (f : Grid → Grid) : (s.modGrid g f).holidays = s.holidays := rfl
@[simp] theorem modGrid_nextHoliday (s : State) (g : Nat) (f : Grid → Grid) : (s.modGrid g f).nextHoliday = s.nextHoliday := rfl
@[simp] theorem modGrid_chunks (s : State) (g : Nat) (f : Grid → Grid) : (s.modGrid g f).chunks = s.chunks := rfl
@[simp] theorem modGrid_chunkSeen (s : State) (g : Nat) (f : Grid → Grid) : (s.modGrid g f).chunkSeen = s.chunkSeen := rfl
@[simp] theorem modGrid_chunkWait (s : State) (g : Nat) (f : Grid → Grid) : (s.modGrid g f).chunkWait = s.chunkWait := rfl
@[simp] theorem modGrid_nextTag (s : State) (g : Nat) (f : Grid → Grid) : (s.modGrid g f).nextTag = s.nextTag := rfl
@[simp] theorem modGrid_remPend (s : State) (g : Nat) (f : Grid → Grid) : (s.modGrid g f).remPend = s.remPend := rfl
@[simp] theorem modGrid_remIns (s : State) (g : Nat) (f : Grid → Grid) : (s.modGrid g f).remIns = s.remIns := rfl
@[simp] theorem modGrid_nsendWait (s : State) (g : Nat) (f : Grid → Grid) : (s.modGrid g f).nsendWait = s.nsendWait := rfl
@[simp] theorem modGrid_nsendAck (s : State) (g : Nat) (f : Grid → Grid) : (s.modGrid g f).nsendAck = s.nsendAck := rfl
@[simp] theorem modGrid_nsendTo (s : State) (g : Nat) (f : Grid → Grid) : (s.modGrid g f).nsendTo = s.nsendTo := rfl
@[simp] theorem modGrid_mcasts (s : State) (g : Nat) (f : Grid → Grid) : (s.modGrid g f).mcasts = s.mcasts := rfl
@[simp] theorem modGrid_rank (s : State) (g : Nat) (f : Grid → Grid) : (s.modGrid g f).rank = s.rank := rfl
@[simp] theorem modGrid_inPod (s : State) (g : Nat) (f : Grid → Grid) : (s.modGrid g f).inPod = s.inPod := rfl
@[simp] theorem modGrid_macsec (s : State) (g : Nat) (f : Grid → Grid) : (s.modGrid g f).macsec = s.macsec := rfl
@[simp] theorem modGrid_kalends (s : State) (g : Nat) (f : Grid → Grid) : (s.modGrid g f).kalends = s.kalends := rfl
@[simp] theorem modGrid_cycle (s : State) (g : Nat) (f : Grid → Grid) : (s.modGrid g f).cycle = s.cycle := rfl
@[simp] theorem modGrid_rate (s : State) (g : Nat) (f : Grid → Grid) : (s.modGrid g f).rate = s.rate := rfl
@[simp] theorem modGrid_ratefrac (s : State) (g : Nat) (f : Grid → Grid) : (s.modGrid g f).ratefrac = s.ratefrac := rfl
@[simp] theorem modGrid_locked (s : State) (g : Nat) (f : Grid → Grid) : (s.modGrid g f).locked = s.locked := rfl
@[simp] theorem modGrid_boot (s : State) (g : Nat) (f : Grid → Grid) : (s.modGrid g f).boot = s.boot := rfl
@[simp] theorem modGrid_measure (s : State) (g : Nat) (f : Grid → Grid) : (s.modGrid g f).measure = s.measure := rfl
@[simp] theorem modGrid_nonce (s : State) (g : Nat) (f : Grid → Grid) : (s.modGrid g f).nonce = s.nonce := rfl
@[simp] theorem modGrid_kemKeys (s : State) (g : Nat) (f : Grid → Grid) : (s.modGrid g f).kemKeys = s.kemKeys := rfl
@[simp] theorem modGrid_session (s : State) (g : Nat) (f : Grid → Grid) : (s.modGrid g f).session = s.session := rfl
@[simp] theorem modGrid_nextSession (s : State) (g : Nat) (f : Grid → Grid) : (s.modGrid g f).nextSession = s.nextSession := rfl
@[simp] theorem modGrid_sessions (s : State) (g : Nat) (f : Grid → Grid) : (s.modGrid g f).sessions = s.sessions := rfl
@[simp] theorem modGrid_everSession (s : State) (g : Nat) (f : Grid → Grid) : (s.modGrid g f).everSession = s.everSession := rfl
@[simp] theorem modGrid_dropped (s : State) (g : Nat) (f : Grid → Grid) : (s.modGrid g f).dropped = s.dropped := rfl
@[simp] theorem modGrid_tolerance (s : State) (g : Nat) (f : Grid → Grid) : (s.modGrid g f).tolerance = s.tolerance := rfl
@[simp] theorem modGrid_retention (s : State) (g : Nat) (f : Grid → Grid) : (s.modGrid g f).retention = s.retention := rfl
@[simp] theorem modGrid_asleep (s : State) (g : Nat) (f : Grid → Grid) : (s.modGrid g f).asleep = s.asleep := rfl
@[simp] theorem modGrid_sampleAt (s : State) (g : Nat) (f : Grid → Grid) : (s.modGrid g f).sampleAt = s.sampleAt := rfl
@[simp] theorem modGrid_periods (s : State) (g : Nat) (f : Grid → Grid) : (s.modGrid g f).periods = s.periods := rfl
@[simp] theorem modGrid_powerAt (s : State) (g : Nat) (f : Grid → Grid) : (s.modGrid g f).powerAt = s.powerAt := rfl
@[simp] theorem modGrid_scrubAt (s : State) (g : Nat) (f : Grid → Grid) : (s.modGrid g f).scrubAt = s.scrubAt := rfl
@[simp] theorem modGrid_errcnt (s : State) (g : Nat) (f : Grid → Grid) : (s.modGrid g f).errcnt = s.errcnt := rfl
@[simp] theorem modGrid_fwAsid (s : State) (g : Nat) (f : Grid → Grid) : (s.modGrid g f).fwAsid = s.fwAsid := rfl
@[simp] theorem modGrid_outbox (s : State) (g : Nat) (f : Grid → Grid) : (s.modGrid g f).outbox = s.outbox := rfl
@[simp] theorem modGrid_agenda (s : State) (g : Nat) (f : Grid → Grid) : (s.modGrid g f).agenda = s.agenda := rfl
@[simp] theorem modGrid_port (s : State) (g : Nat) (f : Grid → Grid) : (s.modGrid g f).port = s.port := rfl
@[simp] theorem modGrid_draws (s : State) (g : Nat) (f : Grid → Grid) : (s.modGrid g f).draws = s.draws := rfl
@[simp] theorem modGrid_joint (s : State) (g : Nat) (f : Grid → Grid) : (s.modGrid g f).joint = s.joint := rfl

/-! ### modPipe -/

@[simp] theorem modPipe_mem (s : State) (p : Nat) (f : Pipe → Pipe) : (s.modPipe p f).mem = s.mem := rfl
@[simp] theorem modPipe_poison (s : State) (p : Nat) (f : Pipe → Pipe) : (s.modPipe p f).poison = s.poison := rfl
@[simp] theorem modPipe_l2 (s : State) (p : Nat) (f : Pipe → Pipe) : (s.modPipe p f).l2 = s.l2 := rfl
@[simp] theorem modPipe_mts (s : State) (p : Nat) (f : Pipe → Pipe) : (s.modPipe p f).mts = s.mts := rfl
@[simp] theorem modPipe_rebases (s : State) (p : Nat) (f : Pipe → Pipe) : (s.modPipe p f).rebases = s.rebases := rfl
@[simp] theorem modPipe_rebasing (s : State) (p : Nat) (f : Pipe → Pipe) : (s.modPipe p f).rebasing = s.rebasing := rfl
@[simp] theorem modPipe_cores (s : State) (p : Nat) (f : Pipe → Pipe) : (s.modPipe p f).cores = s.cores := rfl
@[simp] theorem modPipe_blocks (s : State) (p : Nat) (f : Pipe → Pipe) : (s.modPipe p f).blocks = s.blocks := rfl
@[simp] theorem modPipe_dies (s : State) (p : Nat) (f : Pipe → Pipe) : (s.modPipe p f).dies = s.dies := rfl
@[simp] theorem modPipe_ioPartials (s : State) (p : Nat) (f : Pipe → Pipe) : (s.modPipe p f).ioPartials = s.ioPartials := rfl
@[simp] theorem modPipe_ctxs (s : State) (p : Nat) (f : Pipe → Pipe) : (s.modPipe p f).ctxs = s.ctxs := rfl
@[simp] theorem modPipe_rings (s : State) (p : Nat) (f : Pipe → Pipe) : (s.modPipe p f).rings = s.rings := rfl
@[simp] theorem modPipe_lastRing (s : State) (p : Nat) (f : Pipe → Pipe) : (s.modPipe p f).lastRing = s.lastRing := rfl
@[simp] theorem modPipe_pkts (s : State) (p : Nat) (f : Pipe → Pipe) : (s.modPipe p f).pkts = s.pkts := rfl
@[simp] theorem modPipe_nextPkt (s : State) (p : Nat) (f : Pipe → Pipe) : (s.modPipe p f).nextPkt = s.nextPkt := rfl
@[simp] theorem modPipe_grids (s : State) (p : Nat) (f : Pipe → Pipe) : (s.modPipe p f).grids = s.grids := rfl
@[simp] theorem modPipe_nextGrid (s : State) (p : Nat) (f : Pipe → Pipe) : (s.modPipe p f).nextGrid = s.nextGrid := rfl
@[simp] theorem modPipe_counters (s : State) (p : Nat) (f : Pipe → Pipe) : (s.modPipe p f).counters = s.counters := rfl
@[simp] theorem modPipe_ctrTs (s : State) (p : Nat) (f : Pipe → Pipe) : (s.modPipe p f).ctrTs = s.ctrTs := rfl
@[simp] theorem modPipe_remTs (s : State) (p : Nat) (f : Pipe → Pipe) : (s.modPipe p f).remTs = s.remTs := rfl
@[simp] theorem modPipe_ctrOwner (s : State) (p : Nat) (f : Pipe → Pipe) : (s.modPipe p f).ctrOwner = s.ctrOwner := rfl
@[simp] theorem modPipe_vigOwner (s : State) (p : Nat) (f : Pipe → Pipe) : (s.modPipe p f).vigOwner = s.vigOwner := rfl
@[simp] theorem modPipe_vigils (s : State) (p : Nat) (f : Pipe → Pipe) : (s.modPipe p f).vigils = s.vigils := rfl
@[simp] theorem modPipe_firing (s : State) (p : Nat) (f : Pipe → Pipe) : (s.modPipe p f).firing = s.firing := rfl
@[simp] theorem modPipe_arms (s : State) (p : Nat) (f : Pipe → Pipe) : (s.modPipe p f).arms = s.arms := rfl
@[simp] theorem modPipe_flits (s : State) (p : Nat) (f : Pipe → Pipe) : (s.modPipe p f).flits = s.flits := rfl
@[simp] theorem modPipe_groups (s : State) (p : Nat) (f : Pipe → Pipe) : (s.modPipe p f).groups = s.groups := rfl
@[simp] theorem modPipe_holidays (s : State) (p : Nat) (f : Pipe → Pipe) : (s.modPipe p f).holidays = s.holidays := rfl
@[simp] theorem modPipe_nextHoliday (s : State) (p : Nat) (f : Pipe → Pipe) : (s.modPipe p f).nextHoliday = s.nextHoliday := rfl
@[simp] theorem modPipe_chunks (s : State) (p : Nat) (f : Pipe → Pipe) : (s.modPipe p f).chunks = s.chunks := rfl
@[simp] theorem modPipe_chunkSeen (s : State) (p : Nat) (f : Pipe → Pipe) : (s.modPipe p f).chunkSeen = s.chunkSeen := rfl
@[simp] theorem modPipe_chunkWait (s : State) (p : Nat) (f : Pipe → Pipe) : (s.modPipe p f).chunkWait = s.chunkWait := rfl
@[simp] theorem modPipe_nextTag (s : State) (p : Nat) (f : Pipe → Pipe) : (s.modPipe p f).nextTag = s.nextTag := rfl
@[simp] theorem modPipe_remPend (s : State) (p : Nat) (f : Pipe → Pipe) : (s.modPipe p f).remPend = s.remPend := rfl
@[simp] theorem modPipe_remIns (s : State) (p : Nat) (f : Pipe → Pipe) : (s.modPipe p f).remIns = s.remIns := rfl
@[simp] theorem modPipe_nsendWait (s : State) (p : Nat) (f : Pipe → Pipe) : (s.modPipe p f).nsendWait = s.nsendWait := rfl
@[simp] theorem modPipe_nsendAck (s : State) (p : Nat) (f : Pipe → Pipe) : (s.modPipe p f).nsendAck = s.nsendAck := rfl
@[simp] theorem modPipe_nsendTo (s : State) (p : Nat) (f : Pipe → Pipe) : (s.modPipe p f).nsendTo = s.nsendTo := rfl
@[simp] theorem modPipe_mcasts (s : State) (p : Nat) (f : Pipe → Pipe) : (s.modPipe p f).mcasts = s.mcasts := rfl
@[simp] theorem modPipe_rank (s : State) (p : Nat) (f : Pipe → Pipe) : (s.modPipe p f).rank = s.rank := rfl
@[simp] theorem modPipe_inPod (s : State) (p : Nat) (f : Pipe → Pipe) : (s.modPipe p f).inPod = s.inPod := rfl
@[simp] theorem modPipe_macsec (s : State) (p : Nat) (f : Pipe → Pipe) : (s.modPipe p f).macsec = s.macsec := rfl
@[simp] theorem modPipe_kalends (s : State) (p : Nat) (f : Pipe → Pipe) : (s.modPipe p f).kalends = s.kalends := rfl
@[simp] theorem modPipe_cycle (s : State) (p : Nat) (f : Pipe → Pipe) : (s.modPipe p f).cycle = s.cycle := rfl
@[simp] theorem modPipe_rate (s : State) (p : Nat) (f : Pipe → Pipe) : (s.modPipe p f).rate = s.rate := rfl
@[simp] theorem modPipe_ratefrac (s : State) (p : Nat) (f : Pipe → Pipe) : (s.modPipe p f).ratefrac = s.ratefrac := rfl
@[simp] theorem modPipe_locked (s : State) (p : Nat) (f : Pipe → Pipe) : (s.modPipe p f).locked = s.locked := rfl
@[simp] theorem modPipe_boot (s : State) (p : Nat) (f : Pipe → Pipe) : (s.modPipe p f).boot = s.boot := rfl
@[simp] theorem modPipe_measure (s : State) (p : Nat) (f : Pipe → Pipe) : (s.modPipe p f).measure = s.measure := rfl
@[simp] theorem modPipe_nonce (s : State) (p : Nat) (f : Pipe → Pipe) : (s.modPipe p f).nonce = s.nonce := rfl
@[simp] theorem modPipe_kemKeys (s : State) (p : Nat) (f : Pipe → Pipe) : (s.modPipe p f).kemKeys = s.kemKeys := rfl
@[simp] theorem modPipe_session (s : State) (p : Nat) (f : Pipe → Pipe) : (s.modPipe p f).session = s.session := rfl
@[simp] theorem modPipe_nextSession (s : State) (p : Nat) (f : Pipe → Pipe) : (s.modPipe p f).nextSession = s.nextSession := rfl
@[simp] theorem modPipe_sessions (s : State) (p : Nat) (f : Pipe → Pipe) : (s.modPipe p f).sessions = s.sessions := rfl
@[simp] theorem modPipe_everSession (s : State) (p : Nat) (f : Pipe → Pipe) : (s.modPipe p f).everSession = s.everSession := rfl
@[simp] theorem modPipe_dropped (s : State) (p : Nat) (f : Pipe → Pipe) : (s.modPipe p f).dropped = s.dropped := rfl
@[simp] theorem modPipe_tolerance (s : State) (p : Nat) (f : Pipe → Pipe) : (s.modPipe p f).tolerance = s.tolerance := rfl
@[simp] theorem modPipe_retention (s : State) (p : Nat) (f : Pipe → Pipe) : (s.modPipe p f).retention = s.retention := rfl
@[simp] theorem modPipe_asleep (s : State) (p : Nat) (f : Pipe → Pipe) : (s.modPipe p f).asleep = s.asleep := rfl
@[simp] theorem modPipe_sampleAt (s : State) (p : Nat) (f : Pipe → Pipe) : (s.modPipe p f).sampleAt = s.sampleAt := rfl
@[simp] theorem modPipe_periods (s : State) (p : Nat) (f : Pipe → Pipe) : (s.modPipe p f).periods = s.periods := rfl
@[simp] theorem modPipe_powerAt (s : State) (p : Nat) (f : Pipe → Pipe) : (s.modPipe p f).powerAt = s.powerAt := rfl
@[simp] theorem modPipe_scrubAt (s : State) (p : Nat) (f : Pipe → Pipe) : (s.modPipe p f).scrubAt = s.scrubAt := rfl
@[simp] theorem modPipe_errcnt (s : State) (p : Nat) (f : Pipe → Pipe) : (s.modPipe p f).errcnt = s.errcnt := rfl
@[simp] theorem modPipe_fwAsid (s : State) (p : Nat) (f : Pipe → Pipe) : (s.modPipe p f).fwAsid = s.fwAsid := rfl
@[simp] theorem modPipe_outbox (s : State) (p : Nat) (f : Pipe → Pipe) : (s.modPipe p f).outbox = s.outbox := rfl
@[simp] theorem modPipe_agenda (s : State) (p : Nat) (f : Pipe → Pipe) : (s.modPipe p f).agenda = s.agenda := rfl
@[simp] theorem modPipe_port (s : State) (p : Nat) (f : Pipe → Pipe) : (s.modPipe p f).port = s.port := rfl
@[simp] theorem modPipe_draws (s : State) (p : Nat) (f : Pipe → Pipe) : (s.modPipe p f).draws = s.draws := rfl
@[simp] theorem modPipe_joint (s : State) (p : Nat) (f : Pipe → Pipe) : (s.modPipe p f).joint = s.joint := rfl

/-! ### modPkt -/

@[simp] theorem modPkt_mem (s : State) (k : Nat) (f : Packet → Packet) : (s.modPkt k f).mem = s.mem := rfl
@[simp] theorem modPkt_poison (s : State) (k : Nat) (f : Packet → Packet) : (s.modPkt k f).poison = s.poison := rfl
@[simp] theorem modPkt_l2 (s : State) (k : Nat) (f : Packet → Packet) : (s.modPkt k f).l2 = s.l2 := rfl
@[simp] theorem modPkt_mts (s : State) (k : Nat) (f : Packet → Packet) : (s.modPkt k f).mts = s.mts := rfl
@[simp] theorem modPkt_rebases (s : State) (k : Nat) (f : Packet → Packet) : (s.modPkt k f).rebases = s.rebases := rfl
@[simp] theorem modPkt_rebasing (s : State) (k : Nat) (f : Packet → Packet) : (s.modPkt k f).rebasing = s.rebasing := rfl
@[simp] theorem modPkt_cores (s : State) (k : Nat) (f : Packet → Packet) : (s.modPkt k f).cores = s.cores := rfl
@[simp] theorem modPkt_blocks (s : State) (k : Nat) (f : Packet → Packet) : (s.modPkt k f).blocks = s.blocks := rfl
@[simp] theorem modPkt_dies (s : State) (k : Nat) (f : Packet → Packet) : (s.modPkt k f).dies = s.dies := rfl
@[simp] theorem modPkt_ioPartials (s : State) (k : Nat) (f : Packet → Packet) : (s.modPkt k f).ioPartials = s.ioPartials := rfl
@[simp] theorem modPkt_ctxs (s : State) (k : Nat) (f : Packet → Packet) : (s.modPkt k f).ctxs = s.ctxs := rfl
@[simp] theorem modPkt_rings (s : State) (k : Nat) (f : Packet → Packet) : (s.modPkt k f).rings = s.rings := rfl
@[simp] theorem modPkt_lastRing (s : State) (k : Nat) (f : Packet → Packet) : (s.modPkt k f).lastRing = s.lastRing := rfl
@[simp] theorem modPkt_nextPkt (s : State) (k : Nat) (f : Packet → Packet) : (s.modPkt k f).nextPkt = s.nextPkt := rfl
@[simp] theorem modPkt_grids (s : State) (k : Nat) (f : Packet → Packet) : (s.modPkt k f).grids = s.grids := rfl
@[simp] theorem modPkt_nextGrid (s : State) (k : Nat) (f : Packet → Packet) : (s.modPkt k f).nextGrid = s.nextGrid := rfl
@[simp] theorem modPkt_pipes (s : State) (k : Nat) (f : Packet → Packet) : (s.modPkt k f).pipes = s.pipes := rfl
@[simp] theorem modPkt_counters (s : State) (k : Nat) (f : Packet → Packet) : (s.modPkt k f).counters = s.counters := rfl
@[simp] theorem modPkt_ctrTs (s : State) (k : Nat) (f : Packet → Packet) : (s.modPkt k f).ctrTs = s.ctrTs := rfl
@[simp] theorem modPkt_remTs (s : State) (k : Nat) (f : Packet → Packet) : (s.modPkt k f).remTs = s.remTs := rfl
@[simp] theorem modPkt_ctrOwner (s : State) (k : Nat) (f : Packet → Packet) : (s.modPkt k f).ctrOwner = s.ctrOwner := rfl
@[simp] theorem modPkt_vigOwner (s : State) (k : Nat) (f : Packet → Packet) : (s.modPkt k f).vigOwner = s.vigOwner := rfl
@[simp] theorem modPkt_vigils (s : State) (k : Nat) (f : Packet → Packet) : (s.modPkt k f).vigils = s.vigils := rfl
@[simp] theorem modPkt_firing (s : State) (k : Nat) (f : Packet → Packet) : (s.modPkt k f).firing = s.firing := rfl
@[simp] theorem modPkt_arms (s : State) (k : Nat) (f : Packet → Packet) : (s.modPkt k f).arms = s.arms := rfl
@[simp] theorem modPkt_flits (s : State) (k : Nat) (f : Packet → Packet) : (s.modPkt k f).flits = s.flits := rfl
@[simp] theorem modPkt_groups (s : State) (k : Nat) (f : Packet → Packet) : (s.modPkt k f).groups = s.groups := rfl
@[simp] theorem modPkt_holidays (s : State) (k : Nat) (f : Packet → Packet) : (s.modPkt k f).holidays = s.holidays := rfl
@[simp] theorem modPkt_nextHoliday (s : State) (k : Nat) (f : Packet → Packet) : (s.modPkt k f).nextHoliday = s.nextHoliday := rfl
@[simp] theorem modPkt_chunks (s : State) (k : Nat) (f : Packet → Packet) : (s.modPkt k f).chunks = s.chunks := rfl
@[simp] theorem modPkt_chunkSeen (s : State) (k : Nat) (f : Packet → Packet) : (s.modPkt k f).chunkSeen = s.chunkSeen := rfl
@[simp] theorem modPkt_chunkWait (s : State) (k : Nat) (f : Packet → Packet) : (s.modPkt k f).chunkWait = s.chunkWait := rfl
@[simp] theorem modPkt_nextTag (s : State) (k : Nat) (f : Packet → Packet) : (s.modPkt k f).nextTag = s.nextTag := rfl
@[simp] theorem modPkt_remPend (s : State) (k : Nat) (f : Packet → Packet) : (s.modPkt k f).remPend = s.remPend := rfl
@[simp] theorem modPkt_remIns (s : State) (k : Nat) (f : Packet → Packet) : (s.modPkt k f).remIns = s.remIns := rfl
@[simp] theorem modPkt_nsendWait (s : State) (k : Nat) (f : Packet → Packet) : (s.modPkt k f).nsendWait = s.nsendWait := rfl
@[simp] theorem modPkt_nsendAck (s : State) (k : Nat) (f : Packet → Packet) : (s.modPkt k f).nsendAck = s.nsendAck := rfl
@[simp] theorem modPkt_nsendTo (s : State) (k : Nat) (f : Packet → Packet) : (s.modPkt k f).nsendTo = s.nsendTo := rfl
@[simp] theorem modPkt_mcasts (s : State) (k : Nat) (f : Packet → Packet) : (s.modPkt k f).mcasts = s.mcasts := rfl
@[simp] theorem modPkt_rank (s : State) (k : Nat) (f : Packet → Packet) : (s.modPkt k f).rank = s.rank := rfl
@[simp] theorem modPkt_inPod (s : State) (k : Nat) (f : Packet → Packet) : (s.modPkt k f).inPod = s.inPod := rfl
@[simp] theorem modPkt_macsec (s : State) (k : Nat) (f : Packet → Packet) : (s.modPkt k f).macsec = s.macsec := rfl
@[simp] theorem modPkt_kalends (s : State) (k : Nat) (f : Packet → Packet) : (s.modPkt k f).kalends = s.kalends := rfl
@[simp] theorem modPkt_cycle (s : State) (k : Nat) (f : Packet → Packet) : (s.modPkt k f).cycle = s.cycle := rfl
@[simp] theorem modPkt_rate (s : State) (k : Nat) (f : Packet → Packet) : (s.modPkt k f).rate = s.rate := rfl
@[simp] theorem modPkt_ratefrac (s : State) (k : Nat) (f : Packet → Packet) : (s.modPkt k f).ratefrac = s.ratefrac := rfl
@[simp] theorem modPkt_locked (s : State) (k : Nat) (f : Packet → Packet) : (s.modPkt k f).locked = s.locked := rfl
@[simp] theorem modPkt_boot (s : State) (k : Nat) (f : Packet → Packet) : (s.modPkt k f).boot = s.boot := rfl
@[simp] theorem modPkt_measure (s : State) (k : Nat) (f : Packet → Packet) : (s.modPkt k f).measure = s.measure := rfl
@[simp] theorem modPkt_nonce (s : State) (k : Nat) (f : Packet → Packet) : (s.modPkt k f).nonce = s.nonce := rfl
@[simp] theorem modPkt_kemKeys (s : State) (k : Nat) (f : Packet → Packet) : (s.modPkt k f).kemKeys = s.kemKeys := rfl
@[simp] theorem modPkt_session (s : State) (k : Nat) (f : Packet → Packet) : (s.modPkt k f).session = s.session := rfl
@[simp] theorem modPkt_nextSession (s : State) (k : Nat) (f : Packet → Packet) : (s.modPkt k f).nextSession = s.nextSession := rfl
@[simp] theorem modPkt_sessions (s : State) (k : Nat) (f : Packet → Packet) : (s.modPkt k f).sessions = s.sessions := rfl
@[simp] theorem modPkt_everSession (s : State) (k : Nat) (f : Packet → Packet) : (s.modPkt k f).everSession = s.everSession := rfl
@[simp] theorem modPkt_dropped (s : State) (k : Nat) (f : Packet → Packet) : (s.modPkt k f).dropped = s.dropped := rfl
@[simp] theorem modPkt_tolerance (s : State) (k : Nat) (f : Packet → Packet) : (s.modPkt k f).tolerance = s.tolerance := rfl
@[simp] theorem modPkt_retention (s : State) (k : Nat) (f : Packet → Packet) : (s.modPkt k f).retention = s.retention := rfl
@[simp] theorem modPkt_asleep (s : State) (k : Nat) (f : Packet → Packet) : (s.modPkt k f).asleep = s.asleep := rfl
@[simp] theorem modPkt_sampleAt (s : State) (k : Nat) (f : Packet → Packet) : (s.modPkt k f).sampleAt = s.sampleAt := rfl
@[simp] theorem modPkt_periods (s : State) (k : Nat) (f : Packet → Packet) : (s.modPkt k f).periods = s.periods := rfl
@[simp] theorem modPkt_powerAt (s : State) (k : Nat) (f : Packet → Packet) : (s.modPkt k f).powerAt = s.powerAt := rfl
@[simp] theorem modPkt_scrubAt (s : State) (k : Nat) (f : Packet → Packet) : (s.modPkt k f).scrubAt = s.scrubAt := rfl
@[simp] theorem modPkt_errcnt (s : State) (k : Nat) (f : Packet → Packet) : (s.modPkt k f).errcnt = s.errcnt := rfl
@[simp] theorem modPkt_fwAsid (s : State) (k : Nat) (f : Packet → Packet) : (s.modPkt k f).fwAsid = s.fwAsid := rfl
@[simp] theorem modPkt_outbox (s : State) (k : Nat) (f : Packet → Packet) : (s.modPkt k f).outbox = s.outbox := rfl
@[simp] theorem modPkt_agenda (s : State) (k : Nat) (f : Packet → Packet) : (s.modPkt k f).agenda = s.agenda := rfl
@[simp] theorem modPkt_port (s : State) (k : Nat) (f : Packet → Packet) : (s.modPkt k f).port = s.port := rfl
@[simp] theorem modPkt_draws (s : State) (k : Nat) (f : Packet → Packet) : (s.modPkt k f).draws = s.draws := rfl
@[simp] theorem modPkt_joint (s : State) (k : Nat) (f : Packet → Packet) : (s.modPkt k f).joint = s.joint := rfl

/-! ### modOp -/

@[simp] theorem modOp_mem (s : State) (c e : Nat) (f : OpEntry → OpEntry) : (s.modOp c e f).mem = s.mem := rfl
@[simp] theorem modOp_poison (s : State) (c e : Nat) (f : OpEntry → OpEntry) : (s.modOp c e f).poison = s.poison := rfl
@[simp] theorem modOp_l2 (s : State) (c e : Nat) (f : OpEntry → OpEntry) : (s.modOp c e f).l2 = s.l2 := rfl
@[simp] theorem modOp_mts (s : State) (c e : Nat) (f : OpEntry → OpEntry) : (s.modOp c e f).mts = s.mts := rfl
@[simp] theorem modOp_rebases (s : State) (c e : Nat) (f : OpEntry → OpEntry) : (s.modOp c e f).rebases = s.rebases := rfl
@[simp] theorem modOp_rebasing (s : State) (c e : Nat) (f : OpEntry → OpEntry) : (s.modOp c e f).rebasing = s.rebasing := rfl
@[simp] theorem modOp_blocks (s : State) (c e : Nat) (f : OpEntry → OpEntry) : (s.modOp c e f).blocks = s.blocks := rfl
@[simp] theorem modOp_dies (s : State) (c e : Nat) (f : OpEntry → OpEntry) : (s.modOp c e f).dies = s.dies := rfl
@[simp] theorem modOp_ioPartials (s : State) (c e : Nat) (f : OpEntry → OpEntry) : (s.modOp c e f).ioPartials = s.ioPartials := rfl
@[simp] theorem modOp_ctxs (s : State) (c e : Nat) (f : OpEntry → OpEntry) : (s.modOp c e f).ctxs = s.ctxs := rfl
@[simp] theorem modOp_rings (s : State) (c e : Nat) (f : OpEntry → OpEntry) : (s.modOp c e f).rings = s.rings := rfl
@[simp] theorem modOp_lastRing (s : State) (c e : Nat) (f : OpEntry → OpEntry) : (s.modOp c e f).lastRing = s.lastRing := rfl
@[simp] theorem modOp_pkts (s : State) (c e : Nat) (f : OpEntry → OpEntry) : (s.modOp c e f).pkts = s.pkts := rfl
@[simp] theorem modOp_nextPkt (s : State) (c e : Nat) (f : OpEntry → OpEntry) : (s.modOp c e f).nextPkt = s.nextPkt := rfl
@[simp] theorem modOp_grids (s : State) (c e : Nat) (f : OpEntry → OpEntry) : (s.modOp c e f).grids = s.grids := rfl
@[simp] theorem modOp_nextGrid (s : State) (c e : Nat) (f : OpEntry → OpEntry) : (s.modOp c e f).nextGrid = s.nextGrid := rfl
@[simp] theorem modOp_pipes (s : State) (c e : Nat) (f : OpEntry → OpEntry) : (s.modOp c e f).pipes = s.pipes := rfl
@[simp] theorem modOp_counters (s : State) (c e : Nat) (f : OpEntry → OpEntry) : (s.modOp c e f).counters = s.counters := rfl
@[simp] theorem modOp_ctrTs (s : State) (c e : Nat) (f : OpEntry → OpEntry) : (s.modOp c e f).ctrTs = s.ctrTs := rfl
@[simp] theorem modOp_remTs (s : State) (c e : Nat) (f : OpEntry → OpEntry) : (s.modOp c e f).remTs = s.remTs := rfl
@[simp] theorem modOp_ctrOwner (s : State) (c e : Nat) (f : OpEntry → OpEntry) : (s.modOp c e f).ctrOwner = s.ctrOwner := rfl
@[simp] theorem modOp_vigOwner (s : State) (c e : Nat) (f : OpEntry → OpEntry) : (s.modOp c e f).vigOwner = s.vigOwner := rfl
@[simp] theorem modOp_vigils (s : State) (c e : Nat) (f : OpEntry → OpEntry) : (s.modOp c e f).vigils = s.vigils := rfl
@[simp] theorem modOp_firing (s : State) (c e : Nat) (f : OpEntry → OpEntry) : (s.modOp c e f).firing = s.firing := rfl
@[simp] theorem modOp_arms (s : State) (c e : Nat) (f : OpEntry → OpEntry) : (s.modOp c e f).arms = s.arms := rfl
@[simp] theorem modOp_flits (s : State) (c e : Nat) (f : OpEntry → OpEntry) : (s.modOp c e f).flits = s.flits := rfl
@[simp] theorem modOp_groups (s : State) (c e : Nat) (f : OpEntry → OpEntry) : (s.modOp c e f).groups = s.groups := rfl
@[simp] theorem modOp_holidays (s : State) (c e : Nat) (f : OpEntry → OpEntry) : (s.modOp c e f).holidays = s.holidays := rfl
@[simp] theorem modOp_nextHoliday (s : State) (c e : Nat) (f : OpEntry → OpEntry) : (s.modOp c e f).nextHoliday = s.nextHoliday := rfl
@[simp] theorem modOp_chunks (s : State) (c e : Nat) (f : OpEntry → OpEntry) : (s.modOp c e f).chunks = s.chunks := rfl
@[simp] theorem modOp_chunkSeen (s : State) (c e : Nat) (f : OpEntry → OpEntry) : (s.modOp c e f).chunkSeen = s.chunkSeen := rfl
@[simp] theorem modOp_chunkWait (s : State) (c e : Nat) (f : OpEntry → OpEntry) : (s.modOp c e f).chunkWait = s.chunkWait := rfl
@[simp] theorem modOp_nextTag (s : State) (c e : Nat) (f : OpEntry → OpEntry) : (s.modOp c e f).nextTag = s.nextTag := rfl
@[simp] theorem modOp_remPend (s : State) (c e : Nat) (f : OpEntry → OpEntry) : (s.modOp c e f).remPend = s.remPend := rfl
@[simp] theorem modOp_remIns (s : State) (c e : Nat) (f : OpEntry → OpEntry) : (s.modOp c e f).remIns = s.remIns := rfl
@[simp] theorem modOp_nsendWait (s : State) (c e : Nat) (f : OpEntry → OpEntry) : (s.modOp c e f).nsendWait = s.nsendWait := rfl
@[simp] theorem modOp_nsendAck (s : State) (c e : Nat) (f : OpEntry → OpEntry) : (s.modOp c e f).nsendAck = s.nsendAck := rfl
@[simp] theorem modOp_nsendTo (s : State) (c e : Nat) (f : OpEntry → OpEntry) : (s.modOp c e f).nsendTo = s.nsendTo := rfl
@[simp] theorem modOp_mcasts (s : State) (c e : Nat) (f : OpEntry → OpEntry) : (s.modOp c e f).mcasts = s.mcasts := rfl
@[simp] theorem modOp_rank (s : State) (c e : Nat) (f : OpEntry → OpEntry) : (s.modOp c e f).rank = s.rank := rfl
@[simp] theorem modOp_inPod (s : State) (c e : Nat) (f : OpEntry → OpEntry) : (s.modOp c e f).inPod = s.inPod := rfl
@[simp] theorem modOp_macsec (s : State) (c e : Nat) (f : OpEntry → OpEntry) : (s.modOp c e f).macsec = s.macsec := rfl
@[simp] theorem modOp_kalends (s : State) (c e : Nat) (f : OpEntry → OpEntry) : (s.modOp c e f).kalends = s.kalends := rfl
@[simp] theorem modOp_cycle (s : State) (c e : Nat) (f : OpEntry → OpEntry) : (s.modOp c e f).cycle = s.cycle := rfl
@[simp] theorem modOp_rate (s : State) (c e : Nat) (f : OpEntry → OpEntry) : (s.modOp c e f).rate = s.rate := rfl
@[simp] theorem modOp_ratefrac (s : State) (c e : Nat) (f : OpEntry → OpEntry) : (s.modOp c e f).ratefrac = s.ratefrac := rfl
@[simp] theorem modOp_locked (s : State) (c e : Nat) (f : OpEntry → OpEntry) : (s.modOp c e f).locked = s.locked := rfl
@[simp] theorem modOp_boot (s : State) (c e : Nat) (f : OpEntry → OpEntry) : (s.modOp c e f).boot = s.boot := rfl
@[simp] theorem modOp_measure (s : State) (c e : Nat) (f : OpEntry → OpEntry) : (s.modOp c e f).measure = s.measure := rfl
@[simp] theorem modOp_nonce (s : State) (c e : Nat) (f : OpEntry → OpEntry) : (s.modOp c e f).nonce = s.nonce := rfl
@[simp] theorem modOp_kemKeys (s : State) (c e : Nat) (f : OpEntry → OpEntry) : (s.modOp c e f).kemKeys = s.kemKeys := rfl
@[simp] theorem modOp_session (s : State) (c e : Nat) (f : OpEntry → OpEntry) : (s.modOp c e f).session = s.session := rfl
@[simp] theorem modOp_nextSession (s : State) (c e : Nat) (f : OpEntry → OpEntry) : (s.modOp c e f).nextSession = s.nextSession := rfl
@[simp] theorem modOp_sessions (s : State) (c e : Nat) (f : OpEntry → OpEntry) : (s.modOp c e f).sessions = s.sessions := rfl
@[simp] theorem modOp_everSession (s : State) (c e : Nat) (f : OpEntry → OpEntry) : (s.modOp c e f).everSession = s.everSession := rfl
@[simp] theorem modOp_dropped (s : State) (c e : Nat) (f : OpEntry → OpEntry) : (s.modOp c e f).dropped = s.dropped := rfl
@[simp] theorem modOp_tolerance (s : State) (c e : Nat) (f : OpEntry → OpEntry) : (s.modOp c e f).tolerance = s.tolerance := rfl
@[simp] theorem modOp_retention (s : State) (c e : Nat) (f : OpEntry → OpEntry) : (s.modOp c e f).retention = s.retention := rfl
@[simp] theorem modOp_asleep (s : State) (c e : Nat) (f : OpEntry → OpEntry) : (s.modOp c e f).asleep = s.asleep := rfl
@[simp] theorem modOp_sampleAt (s : State) (c e : Nat) (f : OpEntry → OpEntry) : (s.modOp c e f).sampleAt = s.sampleAt := rfl
@[simp] theorem modOp_periods (s : State) (c e : Nat) (f : OpEntry → OpEntry) : (s.modOp c e f).periods = s.periods := rfl
@[simp] theorem modOp_powerAt (s : State) (c e : Nat) (f : OpEntry → OpEntry) : (s.modOp c e f).powerAt = s.powerAt := rfl
@[simp] theorem modOp_scrubAt (s : State) (c e : Nat) (f : OpEntry → OpEntry) : (s.modOp c e f).scrubAt = s.scrubAt := rfl
@[simp] theorem modOp_errcnt (s : State) (c e : Nat) (f : OpEntry → OpEntry) : (s.modOp c e f).errcnt = s.errcnt := rfl
@[simp] theorem modOp_fwAsid (s : State) (c e : Nat) (f : OpEntry → OpEntry) : (s.modOp c e f).fwAsid = s.fwAsid := rfl
@[simp] theorem modOp_outbox (s : State) (c e : Nat) (f : OpEntry → OpEntry) : (s.modOp c e f).outbox = s.outbox := rfl
@[simp] theorem modOp_agenda (s : State) (c e : Nat) (f : OpEntry → OpEntry) : (s.modOp c e f).agenda = s.agenda := rfl
@[simp] theorem modOp_port (s : State) (c e : Nat) (f : OpEntry → OpEntry) : (s.modOp c e f).port = s.port := rfl
@[simp] theorem modOp_draws (s : State) (c e : Nat) (f : OpEntry → OpEntry) : (s.modOp c e f).draws = s.draws := rfl
@[simp] theorem modOp_joint (s : State) (c e : Nat) (f : OpEntry → OpEntry) : (s.modOp c e f).joint = s.joint := rfl

/-! ### send -/

@[simp] theorem send_mem (s : State) (m : Msg) : (s.send m).mem = s.mem := rfl
@[simp] theorem send_poison (s : State) (m : Msg) : (s.send m).poison = s.poison := rfl
@[simp] theorem send_l2 (s : State) (m : Msg) : (s.send m).l2 = s.l2 := rfl
@[simp] theorem send_mts (s : State) (m : Msg) : (s.send m).mts = s.mts := rfl
@[simp] theorem send_rebases (s : State) (m : Msg) : (s.send m).rebases = s.rebases := rfl
@[simp] theorem send_rebasing (s : State) (m : Msg) : (s.send m).rebasing = s.rebasing := rfl
@[simp] theorem send_cores (s : State) (m : Msg) : (s.send m).cores = s.cores := rfl
@[simp] theorem send_blocks (s : State) (m : Msg) : (s.send m).blocks = s.blocks := rfl
@[simp] theorem send_dies (s : State) (m : Msg) : (s.send m).dies = s.dies := rfl
@[simp] theorem send_ioPartials (s : State) (m : Msg) : (s.send m).ioPartials = s.ioPartials := rfl
@[simp] theorem send_ctxs (s : State) (m : Msg) : (s.send m).ctxs = s.ctxs := rfl
@[simp] theorem send_rings (s : State) (m : Msg) : (s.send m).rings = s.rings := rfl
@[simp] theorem send_lastRing (s : State) (m : Msg) : (s.send m).lastRing = s.lastRing := rfl
@[simp] theorem send_pkts (s : State) (m : Msg) : (s.send m).pkts = s.pkts := rfl
@[simp] theorem send_nextPkt (s : State) (m : Msg) : (s.send m).nextPkt = s.nextPkt := rfl
@[simp] theorem send_grids (s : State) (m : Msg) : (s.send m).grids = s.grids := rfl
@[simp] theorem send_nextGrid (s : State) (m : Msg) : (s.send m).nextGrid = s.nextGrid := rfl
@[simp] theorem send_pipes (s : State) (m : Msg) : (s.send m).pipes = s.pipes := rfl
@[simp] theorem send_counters (s : State) (m : Msg) : (s.send m).counters = s.counters := rfl
@[simp] theorem send_ctrTs (s : State) (m : Msg) : (s.send m).ctrTs = s.ctrTs := rfl
@[simp] theorem send_remTs (s : State) (m : Msg) : (s.send m).remTs = s.remTs := rfl
@[simp] theorem send_ctrOwner (s : State) (m : Msg) : (s.send m).ctrOwner = s.ctrOwner := rfl
@[simp] theorem send_vigOwner (s : State) (m : Msg) : (s.send m).vigOwner = s.vigOwner := rfl
@[simp] theorem send_vigils (s : State) (m : Msg) : (s.send m).vigils = s.vigils := rfl
@[simp] theorem send_firing (s : State) (m : Msg) : (s.send m).firing = s.firing := rfl
@[simp] theorem send_arms (s : State) (m : Msg) : (s.send m).arms = s.arms := rfl
@[simp] theorem send_flits (s : State) (m : Msg) : (s.send m).flits = s.flits := rfl
@[simp] theorem send_groups (s : State) (m : Msg) : (s.send m).groups = s.groups := rfl
@[simp] theorem send_holidays (s : State) (m : Msg) : (s.send m).holidays = s.holidays := rfl
@[simp] theorem send_nextHoliday (s : State) (m : Msg) : (s.send m).nextHoliday = s.nextHoliday := rfl
@[simp] theorem send_chunks (s : State) (m : Msg) : (s.send m).chunks = s.chunks := rfl
@[simp] theorem send_chunkSeen (s : State) (m : Msg) : (s.send m).chunkSeen = s.chunkSeen := rfl
@[simp] theorem send_chunkWait (s : State) (m : Msg) : (s.send m).chunkWait = s.chunkWait := rfl
@[simp] theorem send_nextTag (s : State) (m : Msg) : (s.send m).nextTag = s.nextTag := rfl
@[simp] theorem send_remPend (s : State) (m : Msg) : (s.send m).remPend = s.remPend := rfl
@[simp] theorem send_remIns (s : State) (m : Msg) : (s.send m).remIns = s.remIns := rfl
@[simp] theorem send_nsendWait (s : State) (m : Msg) : (s.send m).nsendWait = s.nsendWait := rfl
@[simp] theorem send_nsendAck (s : State) (m : Msg) : (s.send m).nsendAck = s.nsendAck := rfl
@[simp] theorem send_nsendTo (s : State) (m : Msg) : (s.send m).nsendTo = s.nsendTo := rfl
@[simp] theorem send_mcasts (s : State) (m : Msg) : (s.send m).mcasts = s.mcasts := rfl
@[simp] theorem send_rank (s : State) (m : Msg) : (s.send m).rank = s.rank := rfl
@[simp] theorem send_inPod (s : State) (m : Msg) : (s.send m).inPod = s.inPod := rfl
@[simp] theorem send_macsec (s : State) (m : Msg) : (s.send m).macsec = s.macsec := rfl
@[simp] theorem send_kalends (s : State) (m : Msg) : (s.send m).kalends = s.kalends := rfl
@[simp] theorem send_cycle (s : State) (m : Msg) : (s.send m).cycle = s.cycle := rfl
@[simp] theorem send_rate (s : State) (m : Msg) : (s.send m).rate = s.rate := rfl
@[simp] theorem send_ratefrac (s : State) (m : Msg) : (s.send m).ratefrac = s.ratefrac := rfl
@[simp] theorem send_locked (s : State) (m : Msg) : (s.send m).locked = s.locked := rfl
@[simp] theorem send_boot (s : State) (m : Msg) : (s.send m).boot = s.boot := rfl
@[simp] theorem send_measure (s : State) (m : Msg) : (s.send m).measure = s.measure := rfl
@[simp] theorem send_nonce (s : State) (m : Msg) : (s.send m).nonce = s.nonce := rfl
@[simp] theorem send_kemKeys (s : State) (m : Msg) : (s.send m).kemKeys = s.kemKeys := rfl
@[simp] theorem send_session (s : State) (m : Msg) : (s.send m).session = s.session := rfl
@[simp] theorem send_nextSession (s : State) (m : Msg) : (s.send m).nextSession = s.nextSession := rfl
@[simp] theorem send_sessions (s : State) (m : Msg) : (s.send m).sessions = s.sessions := rfl
@[simp] theorem send_everSession (s : State) (m : Msg) : (s.send m).everSession = s.everSession := rfl
@[simp] theorem send_dropped (s : State) (m : Msg) : (s.send m).dropped = s.dropped := rfl
@[simp] theorem send_tolerance (s : State) (m : Msg) : (s.send m).tolerance = s.tolerance := rfl
@[simp] theorem send_retention (s : State) (m : Msg) : (s.send m).retention = s.retention := rfl
@[simp] theorem send_asleep (s : State) (m : Msg) : (s.send m).asleep = s.asleep := rfl
@[simp] theorem send_sampleAt (s : State) (m : Msg) : (s.send m).sampleAt = s.sampleAt := rfl
@[simp] theorem send_periods (s : State) (m : Msg) : (s.send m).periods = s.periods := rfl
@[simp] theorem send_powerAt (s : State) (m : Msg) : (s.send m).powerAt = s.powerAt := rfl
@[simp] theorem send_scrubAt (s : State) (m : Msg) : (s.send m).scrubAt = s.scrubAt := rfl
@[simp] theorem send_errcnt (s : State) (m : Msg) : (s.send m).errcnt = s.errcnt := rfl
@[simp] theorem send_fwAsid (s : State) (m : Msg) : (s.send m).fwAsid = s.fwAsid := rfl
@[simp] theorem send_agenda (s : State) (m : Msg) : (s.send m).agenda = s.agenda := rfl
@[simp] theorem send_port (s : State) (m : Msg) : (s.send m).port = s.port := rfl
@[simp] theorem send_draws (s : State) (m : Msg) : (s.send m).draws = s.draws := rfl
@[simp] theorem send_joint (s : State) (m : Msg) : (s.send m).joint = s.joint := rfl

/-! ### Tables -/

@[simp] theorem get?_put_same {α : Type} (t : Tab α) (k : Nat) (a : α) : (t.put k a).get? k = some a := by
  induction t with
  | nil => simp [Tab.put, Tab.get?]
  | cons p r ih =>
    obtain ⟨j, b⟩ := p
    simp only [Tab.put]
    split
    · simp [Tab.get?]
    · split
      · simp [Tab.get?]
      · simp [Tab.get?, *]

theorem get?_put_other {α : Type} (t : Tab α) {j k : Nat} (a : α) (h : j ≠ k) : (t.put k a).get? j = t.get? j := by
  have h' : k ≠ j := fun e => h e.symm
  induction t with
  | nil => simp [Tab.put, Tab.get?, h']
  | cons p r ih =>
    obtain ⟨i, b⟩ := p
    simp only [Tab.put]
    split
    · rename_i e; subst e; simp [Tab.get?, h']
    · split
      · simp [Tab.get?, h']
      · simp only [Tab.get?]; split
        · rfl
        · exact ih

theorem get?_modKey {α : Type} (t : Tab α) (j k : Nat) (f : α → α) :
    (modKey t k f).get? j = if j = k then (t.get? k).map f else t.get? j := by
  unfold modKey
  induction t with
  | nil => simp [Tab.get?]
  | cons p r ih =>
    obtain ⟨i, b⟩ := p
    by_cases e : i = k
    · subst e
      simp only [List.map_cons, if_true, Tab.get?]
      by_cases e' : i = j
      · subst e'; simp
      · have e'' : j ≠ i := fun x => e' x.symm
        simp only [if_neg e', if_neg e''] at ih ⊢
        exact ih
    · simp only [List.map_cons, if_neg e, Tab.get?]
      by_cases e' : i = j
      · subst e'; simp [e]
      · simp only [if_neg e']
        exact ih

/-! ### Cores, contexts, blocks, warps -/

@[simp] theorem core_setCore_same (s : State) (c : Nat) (x : Core) : (s.setCore c x).core c = x := by
  simp [State.core, State.setCore, Tab.getD]

theorem core_setCore_other (s : State) {c d : Nat} (x : Core) (h : d ≠ c) : (s.setCore c x).core d = s.core d := by
  simp [State.core, State.setCore, Tab.getD, get?_put_other _ _ h]

@[simp] theorem core_modCore_same (s : State) (c : Nat) (f : Core → Core) : (s.modCore c f).core c = f (s.core c) := by
  simp [State.modCore]

theorem core_modCore_other (s : State) {c d : Nat} (f : Core → Core) (h : d ≠ c) : (s.modCore c f).core d = s.core d :=
  core_setCore_other s _ h

@[simp] theorem ctx_modCtx_same (s : State) (a : Nat) (f : Ctx → Ctx) : (s.modCtx a f).ctx a = f (s.ctx a) := by
  simp [State.ctx, State.modCtx, Tab.getD]

theorem ctx_modCtx_other (s : State) {a b : Nat} (f : Ctx → Ctx) (h : b ≠ a) : (s.modCtx a f).ctx b = s.ctx b := by
  simp [State.ctx, State.modCtx, Tab.getD, get?_put_other _ _ h]

@[simp] theorem block?_modCore (s : State) (c d k : Nat) (f : Core → Core) : (s.modCore c f).block? d k = s.block? d k := rfl

@[simp] theorem block?_setBlock_same (s : State) (c k : Nat) (b : Block) : (s.setBlock c k b).block? c k = some b := by
  simp [State.block?, State.setBlock]

@[simp] theorem block?_modBlock_same (s : State) (c k : Nat) (f : Block → Block) :
    (s.modBlock c k f).block? c k = (s.block? c k).map f := by
  simp [State.block?, State.modBlock, get?_modKey]

theorem block?_modBlock_other (s : State) {c k d j : Nat} (f : Block → Block) (h : State.blockKey d j ≠ State.blockKey c k) :
    (s.modBlock c k f).block? d j = s.block? d j := by
  simp [State.block?, State.modBlock, get?_modKey, h]

@[simp] theorem warp?_modCore (s : State) (c d k m : Nat) (f : Core → Core) : (s.modCore c f).warp? d k m = s.warp? d k m := rfl

@[simp] theorem warp?_modWarp_same (s : State) (c k m : Nat) (f : Warp → Warp) :
    (s.modWarp c k m f).warp? c k m = (s.warp? c k m).map f := by
  simp only [State.warp?, State.modWarp, block?_modBlock_same]
  cases s.block? c k <;> simp [modAt]

theorem warp?_modWarp_other (s : State) {c k m n : Nat} (f : Warp → Warp) (h : n ≠ m) :
    (s.modWarp c k m f).warp? c k n = s.warp? c k n := by
  simp only [State.warp?, State.modWarp, block?_modBlock_same]
  cases s.block? c k with
  | none => rfl
  | some b => simp [modAt, Ne.symm h]

@[simp] theorem core_modBlock (s : State) (c k d : Nat) (f : Block → Block) : (s.modBlock c k f).core d = s.core d := rfl

@[simp] theorem core_modWarp (s : State) (c k m d : Nat) (f : Warp → Warp) : (s.modWarp c k m f).core d = s.core d := rfl


end Sys2Proof.Laws
end

