-- ==== Sys2Proof/Laws/Members.lean ====
section
/-! SUPPORT. What passing an instruction word, and changing the members of an instance, leaves unchanged. -/

namespace Sys2Proof.Laws

open Sys2Proof Sys2Proof.Machine

/-! ### Replacing the members -/

/-- Changing members one after another: each member once, in the state that the others leave. -/
theorem warp?_each {x : Ix} (s : State) (f : Nat → Warp → Warp) (hn : x.members.Nodup) (m : Nat) :
    (x.each s f).warp? x.core x.slot m
      = if m ∈ x.members then (s.warp? x.core x.slot m).map (f m) else s.warp? x.core x.slot m := by
  unfold Ix.each
  generalize x.members = l at hn
  induction l generalizing s with
  | nil => simp
  | cons a r ih =>
    simp only [List.foldl_cons]
    rw [ih _ (List.nodup_cons.mp hn).2]
    have hna := (List.nodup_cons.mp hn).1
    by_cases h : m = a
    · subst h
      simp [hna]
    · by_cases h' : m ∈ r
      · simp [h', warp?_modWarp_other _ _ h]
      · simp [h', h, warp?_modWarp_other _ _ h]

/-- The block of the instance after its members are changed: its warps, as many as before, and nothing else. -/
theorem block?_each_same (x : Ix) (s : State) (f : Nat → Warp → Warp) (b : Block) (hb : s.block? x.core x.slot = some b) :
    ∃ b', (x.each s f).block? x.core x.slot = some b' ∧ { b' with warps := b.warps } = b
      ∧ b'.warps.length = b.warps.length := by
  unfold Ix.each
  generalize x.members = l
  induction l generalizing s b with
  | nil => exact ⟨b, hb, rfl, rfl⟩
  | cons a r ih =>
    simp only [List.foldl_cons]
    obtain ⟨b', h1, h2, h3⟩ := ih (s.modWarp x.core x.slot a (f a)) { b with warps := modAt b.warps a (f a) }
      (by simp [State.modWarp, hb])
    refine ⟨b', h1, ?_, by simpa [modAt] using h3⟩
    have := congrArg (fun z : Block => { z with warps := b.warps }) h2
    exact this

theorem block?_each_other (x : Ix) (s : State) (f : Nat → Warp → Warp) {c k : Nat}
    (h : State.blockKey c k ≠ State.blockKey x.core x.slot) : (x.each s f).block? c k = s.block? c k := by
  unfold Ix.each
  generalize x.members = l
  induction l generalizing s with
  | nil => rfl
  | cons a r ih =>
    simp only [List.foldl_cons]
    rw [ih]
    exact block?_modBlock_other _ _ h

theorem each_rest (x : Ix) (s : State) (f : Nat → Warp → Warp) : { x.each s f with blocks := s.blocks } = s := by
  unfold Ix.each
  generalize x.members = l
  induction l generalizing s with
  | nil => rfl
  | cons a r ih =>
    simp only [List.foldl_cons]
    have := congrArg (fun z : State => { z with blocks := s.blocks }) (ih (s.modWarp x.core x.slot a (f a)))
    exact this

@[simp] theorem core_each (x : Ix) (s : State) (f : Nat → Warp → Warp) (c : Nat) : (x.each s f).core c = s.core c := by
  have := congrArg (fun z : State => z.core c) (each_rest x s f)
  exact this

/-! ### beyondMembers -/

theorem beyondMembers_refl (x : Ix) (a : State) : beyondMembers x a a :=
  ⟨rfl, fun _ _ _ _ _ => rfl, fun b hb => ⟨b, hb, rfl, rfl, fun _ _ => rfl⟩, fun _ _ => rfl, rfl⟩

theorem beyondMembers_trans {x : Ix} {a b c : State} (h : beyondMembers x a b) (g : beyondMembers x b c) :
    beyondMembers x a c := by
  obtain ⟨h1, h2, h3, h4, h5⟩ := h
  obtain ⟨g1, g2, g3, g4, g5⟩ := g
  refine ⟨?_, ?_, ?_, ?_, ?_⟩
  · have := congrArg (fun z : State => { z with blocks := a.blocks, cores := a.cores }) g1
    exact Eq.trans this h1
  · intro d k hk hk1 hk2
    rw [g2 d k hk hk1 hk2, h2 d k hk hk1 hk2]
  · intro p hp
    obtain ⟨p', hp', e, l, w⟩ := h3 p hp
    obtain ⟨p'', hp'', e', l', w'⟩ := g3 p' hp'
    refine ⟨p'', hp'', ?_, l'.trans l, fun m hm => (w' m hm).trans (w m hm)⟩
    have := congrArg (fun z : Block => { z with warps := p.warps }) e'
    exact Eq.trans this e
  · intro d hd
    rw [g4 d hd, h4 d hd]
  · have := congrArg (fun z : Core => { z with lastIssue := (a.core x.core).lastIssue, pmcnt := (a.core x.core).pmcnt,
                                               pmwrap := (a.core x.core).pmwrap }) g5
    exact Eq.trans this h5

theorem beyondMembers_modCore (x : Ix) (a : State) (f : Core → Core)
    (h : ∀ k, { f k with lastIssue := k.lastIssue, pmcnt := k.pmcnt, pmwrap := k.pmwrap } = k) :
    beyondMembers x a (a.modCore x.core f) := by
  refine ⟨rfl, fun _ _ _ _ _ => rfl, fun b hb => ⟨b, hb, rfl, rfl, fun _ _ => rfl⟩, ?_, ?_⟩
  · intro c hc; exact core_modCore_other a f hc
  · rw [core_modCore_same]; exact h _

theorem beyondMembers_each {x : Ix} (a : State) (f : Nat → Warp → Warp) (hn : x.members.Nodup) :
    beyondMembers x a (x.each a f) := by
  refine ⟨?_, ?_, ?_, ?_, ?_⟩
  · have := congrArg (fun z : State => { z with cores := a.cores }) (each_rest x a f)
    exact this
  · intro c k hk h1 h2
    apply block?_each_other
    intro e
    apply hk
    simp only [State.blockKey] at e
    have hc : c = x.core := by omega
    have hs : k = x.slot := by omega
    rw [hc, hs]
  · intro b hb
    obtain ⟨b', h1, h2, h3⟩ := block?_each_same x a f b hb
    refine ⟨b', h1, h2, h3, ?_⟩
    intro m hm
    have := warp?_each a f hn m
    rw [if_neg hm] at this
    simpa [State.warp?, h1, hb] using this
  · intro c _; exact core_each x a f c
  · rw [core_each]

/-! ### Passing the word -/

theorem pmCount_core (s : State) (c asid code n : Nat) :
    ∃ f : Core → Core, pmCount s c asid code n = s.modCore c f
      ∧ ∀ k, { f k with lastIssue := k.lastIssue, pmcnt := k.pmcnt, pmwrap := k.pmwrap } = k := by
  refine ⟨_, rfl, ?_⟩
  intro k
  generalize List.range 8 = l
  suffices ∀ (l : List Nat) (y k : Core), { y with lastIssue := k.lastIssue, pmcnt := k.pmcnt, pmwrap := k.pmwrap } = k →
      { l.foldl (fun x k =>
        let ctl := x.pmctl.getD k 0#64
        if bit ctl 19 && bits ctl 0 8 == code && (!bit ctl 18 || bits ctl 8 10 == asid) then
          let v := (x.pmcnt.getD k 0#48).toNat + n
          { x with
            pmcnt := setAt x.pmcnt k (BitVec.ofNat 48 v)
            pmwrap := if 2 ^ 48 ≤ v && bit ctl 20 && bit ctl 18 then x.pmwrap ++ [k] else x.pmwrap }
        else x) y with lastIssue := k.lastIssue, pmcnt := k.pmcnt, pmwrap := k.pmwrap } = k from this l k k rfl
  intro l
  induction l with
  | nil => intro y k h; exact h
  | cons a r ih =>
    intro y k h
    simp only [List.foldl_cons]
    apply ih
    split
    · exact h
    · exact h

theorem beyondMembers_pmCount (x : Ix) (a : State) (asid code n : Nat) :
    beyondMembers x a (pmCount a x.core asid code n) := by
  obtain ⟨f, e, h⟩ := pmCount_core a x.core asid code n
  rw [e]
  exact beyondMembers_modCore x a f h

@[simp] theorem warp?_pmCount (s : State) (c asid code n d k m : Nat) :
    (pmCount s c asid code n).warp? d k m = s.warp? d k m := rfl

@[simp] theorem block?_pmCount (s : State) (c asid code n d k : Nat) :
    (pmCount s c asid code n).block? d k = s.block? d k := rfl

/-- What operand delivery counts for the instance. -/
def counted (m : Meta) (x : Ix) (a : State) : State := countOperands m x.core (x.asid a) ((x.warps a).map (·.2)) a

theorem countOperands_law (m : Meta) (x : Ix) (asid : Nat) (ws : List Warp) (s : State) :
    beyondMembers x s (countOperands m x.core asid ws s) ∧ (countOperands m x.core asid ws s).blocks = s.blocks := by
  unfold countOperands
  dsimp only
  constructor
  · split
    · split
      · exact beyondMembers_pmCount _ _ _ _ _
      · exact beyondMembers_refl _ _
    · split
      · exact beyondMembers_trans (beyondMembers_pmCount _ _ _ _ _) (beyondMembers_pmCount _ _ _ _ _)
      · exact beyondMembers_pmCount _ _ _ _ _
  · split <;> split <;> rfl

theorem counted_law (m : Meta) (x : Ix) (a : State) :
    beyondMembers x a (counted m x a) ∧ (counted m x a).blocks = a.blocks := countOperands_law m x _ _ a

theorem warp?_of_blocks {s t : State} (h : s.blocks = t.blocks) (c k m : Nat) : s.warp? c k m = t.warp? c k m := by
  simp only [State.warp?, State.block?, h]

/-- A member after it has passed the word. -/
theorem warp?_advance {m : Meta} {x : Ix} (a : State) (hn : x.members.Nodup) (k : Nat) :
    (advance m x a).warp? x.core x.slot k
      = if k ∈ x.members then (a.warp? x.core x.slot k).map (passWord m x (counted m x a).cycle.toNat)
        else a.warp? x.core x.slot k := by
  unfold advance
  change (x.each (counted m x a) fun _ w => passWord m x (counted m x a).cycle.toNat w).warp? x.core x.slot k = _
  rw [warp?_each _ _ hn, warp?_of_blocks (counted_law m x a).2]

theorem beyondMembers_advance {m : Meta} {x : Ix} (a : State) (hn : x.members.Nodup) : beyondMembers x a (advance m x a) := by
  refine beyondMembers_trans (counted_law m x a).1 (beyondMembers_trans (beyondMembers_each _ _ hn)
    (beyondMembers_trans (beyondMembers_modCore x _ _ ?_) (beyondMembers_pmCount x _ _ _ _)))
  intro k; rfl

theorem applySched_fields (w : Warp) (hs : List Word) (cycle : Nat) :
    ∃ k f, applySched w hs cycle = { w with keepUntil := k, swapFirst := f } := by
  unfold applySched
  split
  · split
    · exact ⟨_, w.swapFirst, rfl⟩
    · split
      · exact ⟨w.keepUntil, _, rfl⟩
      · exact ⟨w.keepUntil, w.swapFirst, rfl⟩
  · exact ⟨w.keepUntil, w.swapFirst, rfl⟩

theorem splits_passWord (m : Meta) (x : Ix) (cycle : Nat) (w : Warp) :
    (passWord m x cycle w).splits = modAt w.splits x.split (Split.passed m x cycle w) := by
  unfold passWord
  obtain ⟨k, f, e⟩ := applySched_fields { w with
    lastIssue := cycle
    swapFirst := false
    yielded := false
    splits := modAt w.splits x.split (Split.passed m x cycle w) } x.hints cycle
  rw [e]

/-- A member that has passed the word differs in its issuing split and in what every issue writes. -/
theorem passWord_law (m : Meta) (x : Ix) (cycle : Nat) (w : Warp) :
    passedWord x w (passWord m x cycle w) ∧ unissued w (passWord m x cycle w) = w := by
  refine ⟨⟨?_, ?_⟩, ?_⟩
  · intro j hj
    rw [splits_passWord]
    simp [modAt, Ne.symm hj]
  · intro p hp
    refine ⟨Split.passed m x cycle w p, ?_, rfl, rfl, rfl, rfl, rfl⟩
    rw [splits_passWord]
    simp [modAt, hp]
  · unfold passWord
    obtain ⟨k, f, e⟩ := applySched_fields { w with
      lastIssue := cycle
      swapFirst := false
      yielded := false
      splits := modAt w.splits x.split (Split.passed m x cycle w) } x.hints cycle
    rw [e]
    rfl

theorem em_passWord (m : Meta) (x : Ix) (cycle : Nat) (w : Warp) : x.em (passWord m x cycle w) = x.em w := by
  unfold Ix.em
  rw [splits_passWord]
  simp only [modAt, List.getElem?_modify_eq]
  cases w.splits[x.split]? <;> rfl

/-! ### The members of an instance -/

theorem leadRange (s : State) (c k : Nat) (r : Reissue) : ((redoMembers s c k r).map (·.1)).Nodup := by
  unfold redoMembers
  split
  · simp
  · rename_i b hb
    refine List.Pairwise.map _ (R := fun p q : Nat × Split => p.1 ≠ q.1) (fun _ _ h => h) ?_
    refine List.Pairwise.filterMap _ (R := fun a b : Nat => a ≠ b) ?_ List.nodup_range
    intro a a' h p hp q hq
    have key : ∀ (i : Nat) (p : Nat × Split), p ∈ (if (!r.members.contains i) = true then none else
        match b.warps[i]? with
        | none => none
        | some w => match w.splits[0]? with
          | none => none
          | some q => if (!w.retired && q.redo == some r) = true then some (i, q) else none : Option (Nat × Split)) → p.1 = i := by
      intro i p hp
      split at hp
      · cases hp
      · split at hp
        · cases hp
        · split at hp
          · cases hp
          · split at hp
            · cases hp; rfl
            · cases hp
    rw [key a p hp, key a' q hq]
    exact h

theorem members_nodup {i : Instr} {m : Meta} {extra : Block → Split → Bool} {uni : Ix → State → Option Nat} {s a : State}
    {x : Ix} (h : issuesAs i m extra uni s = some (x, a)) : x.members.Nodup := by
  have hm : ∀ {m : Meta} {s a : State} {y x : Ix} {r : Reissue}, membersAs m uni s y r = some (x, a) → x.members.Nodup := by
    intro m s a y x r h
    unfold membersAs at h
    dsimp only at h
    split at h
    · cases h
    · split at h
      · cases h
      · split at h
        · simp only [Option.some.injEq, Prod.mk.injEq] at h
          obtain ⟨rfl, rfl⟩ := h
          exact leadRange _ _ _ _
        · cases h
  unfold issuesAs at h
  split at h
  · dsimp only at h
    split at h
    · cases h
    · split at h
      · obtain ⟨-, rfl, -⟩ := issueAlone_aloneAs (eff := fun _ s => .done s) h
        split
        · split <;> simp [portInstance]
        · simp [portInstance]
      · unfold arrivesAs at h
        split at h
        · split at h
          · exact hm h
          · cases h
        · split at h
          · cases h
          · dsimp only at h
            split at h
            · cases h
            · split at h
              · exact hm h
              · cases h
  · cases h

end Sys2Proof.Laws
end

