-- ==== Sys2Proof/Laws/Lanes.lean ====
section
/-! SUPPORT. What writing an operand in the lanes of a warp does, and the results of element-wise and scalar instructions. -/

namespace Sys2Proof.Laws

open Sys2Proof Sys2Proof.Machine

@[simp] theorem lane_of (f : Nat → Word) {l : Nat} (h : l < 64) : (Vec.of f).lane l = f l := by
  simp [Vec.lane, Vec.of, h]

/-- Writing an operand changes the vector registers alone. -/
theorem putOp_rest (w : Warp) (o : VOp) (out : Nat → Option Nat) : { w.putOp o out with vregs := w.vregs } = w := by
  unfold Warp.putOp
  split <;> rfl

theorem putOp_splits (w : Warp) (o : VOp) (out : Nat → Option Nat) : (w.putOp o out).splits = w.splits := by
  unfold Warp.putOp
  split <;> rfl

theorem getElem?_modAt {α : Type} (l : List α) (i n : Nat) (h : α → α) :
    (modAt l i h)[n]? = (l[n]?).map fun v => if i = n then h v else v := by
  unfold modAt
  rw [List.getElem?_modify]
  by_cases e : i = n <;> simp [e]

/-- The registers of a direct operand, written one after another. -/
theorem foldl_modAt (g : Nat → Vec → Vec) (f : Nat) (n : Nat) : ∀ (k : Nat) (rs : List Vec),
    ((List.range k).foldl (fun rs i => modAt rs (f + i) (g i)) rs)[n]?
      = (rs[n]?).map fun v => if f ≤ n ∧ n < f + k then g (n - f) v else v := by
  intro k
  induction k with
  | zero =>
    intro rs
    have : ∀ v : Vec, (if f ≤ n ∧ n < f + 0 then g (n - f) v else v) = v := by
      intro v; rw [if_neg]; omega
    simp only [this]
    exact Option.map_id'.symm ▸ rfl
  | succ k ih =>
    intro rs
    rw [List.range_succ, List.foldl_append, List.foldl_cons, List.foldl_nil, getElem?_modAt, ih]
    cases rs[n]? with
    | none => rfl
    | some v =>
      simp only [Option.map_some, Option.some.injEq]
      by_cases h : f + k = n
      · subst h
        have h1 : ¬ (f ≤ f + k ∧ f + k < f + k) := by omega
        have h2 : f ≤ f + k ∧ f + k < f + (k + 1) := by omega
        have h3 : f + k - f = k := by omega
        rw [if_pos rfl, if_neg h1, if_pos h2, h3]
      · rw [if_neg h]
        by_cases h1 : f ≤ n ∧ n < f + k
        · rw [if_pos h1, if_pos (by omega)]
        · rw [if_neg h1, if_neg (by omega)]

theorem foldl_modAt_length (g : Nat → Vec → Vec) (f : Nat) : ∀ (k : Nat) (rs : List Vec),
    ((List.range k).foldl (fun rs i => modAt rs (f + i) (g i)) rs).length = rs.length := by
  intro k
  induction k with
  | zero => intro rs; rfl
  | succ k ih =>
    intro rs
    rw [List.range_succ, List.foldl_append, List.foldl_cons, List.foldl_nil]
    unfold modAt
    rw [List.length_modify]
    exact ih rs

theorem putOp_length (w : Warp) (o : VOp) (out : Nat → Option Nat) : (w.putOp o out).vregs.length = w.vregs.length := by
  unfold Warp.putOp
  split
  · exact foldl_modAt_length _ _ _ _
  · simp

theorem v_eq (w : Warp) {n : Nat} (h : n < w.vregs.length) (l : Nat) : w.v n l = (w.vregs[n]'h).lane l := by
  simp [Warp.v, List.getD, h]

/-- A register of a warp after an operand is written in its lanes. -/
theorem v_putOp (w : Warp) (o : VOp) (out : Nat → Option Nat) {n l : Nat} (hn : n < w.vregs.length) (hl : l < 64) :
    (w.putOp o out).v n l = (match resolve w o l with
      | .ok k => (match out l with
        | some a => if k ≤ n ∧ n < k + o.w then word32 a (n - k) else w.v n l
        | none => w.v n l)
      | .error _ => w.v n l) := by
  have hn' : n < (w.putOp o out).vregs.length := by rw [putOp_length]; exact hn
  rw [v_eq _ hn', v_eq _ hn]
  apply Option.some.inj
  by_cases hd : o.direct
  · have hr : resolve w o l = .ok o.f := by simp [resolve, hd]
    have hv : ((w.putOp o out).vregs[n]?) = some ((fun v : Vec => if o.f ≤ n ∧ n < o.f + o.w then
        Vec.of (fun l => match out l with
          | some a => word32 a (n - o.f)
          | none => v.lane l) else v) (w.vregs[n]'hn)) := by
      unfold Warp.putOp
      rw [if_pos hd]
      refine (foldl_modAt (fun i v => Vec.of fun l => match out l with
          | some a => word32 a i
          | none => v.lane l) o.f n o.w w.vregs).trans ?_
      rw [List.getElem?_eq_getElem hn]
      rfl
    rw [List.getElem?_eq_getElem hn'] at hv
    rw [Option.some.inj hv, hr]
    dsimp only
    congr 1
    by_cases hc : o.f ≤ n ∧ n < o.f + o.w
    · rw [if_pos hc, lane_of _ hl]
      cases out l with
      | none => rfl
      | some a => simp [hc]
    · rw [if_neg hc]
      cases out l with
      | none => rfl
      | some a => simp [hc]
  · have hv : ((w.putOp o out).vregs[n]?) = some (Vec.of fun l =>
        match out l, resolve w o l with
        | some a, .ok k => if k ≤ n ∧ n < k + o.w then word32 a (n - k) else (w.vregs[n]'hn).lane l
        | _, _ => (w.vregs[n]'hn).lane l) := by
      unfold Warp.putOp
      rw [if_neg hd]
      dsimp only
      rw [List.getElem?_map, List.getElem?_zipIdx, List.getElem?_eq_getElem hn]
      rw [Option.map_some, Option.map_some, Nat.zero_add]
      all_goals rfl
    rw [List.getElem?_eq_getElem hn'] at hv
    rw [Option.some.inj hv, lane_of _ hl]
    cases out l <;> cases resolve w o l <;> rfl

/-! ### The word does not change what operands are -/

theorem passWord_fields (m : Meta) (x : Ix) (cycle : Nat) (w : Warp) :
    (passWord m x cycle w).vregs = w.vregs ∧ (passWord m x cycle w).xregs = w.xregs
      ∧ (passWord m x cycle w).sregs = w.sregs ∧ (passWord m x cycle w).helper = w.helper
      ∧ (passWord m x cycle w).fpm = w.fpm ∧ (passWord m x cycle w).rseed = w.rseed
      ∧ (passWord m x cycle w).fpflags = w.fpflags ∧ (passWord m x cycle w).live = w.live := by
  have h := (passWord_law m x cycle w).2
  have k {α : Type} (f : Warp → α) : f (unissued w (passWord m x cycle w)) = f w := congrArg f h
  exact ⟨k Warp.vregs, k Warp.xregs, k Warp.sregs, k Warp.helper, k Warp.fpm, k Warp.rseed, k Warp.fpflags, k Warp.live⟩

theorem resolve_congr {w w' : Warp} (h : w'.xregs = w.xregs) (o : VOp) (l : Nat) : resolve w' o l = resolve w o l := by
  unfold resolve Warp.x
  rw [h]

theorem readV_congr {w w' : Warp} (h : w'.vregs = w.vregs) (n l k : Nat) : readV w' n l k = readV w n l k := by
  induction k with
  | zero => rfl
  | succ k ih => simp only [readV, ih, Warp.v, h]

theorem readOp_congr {w w' : Warp} (h : w'.vregs = w.vregs) (hx : w'.xregs = w.xregs) (o : VOp) (l : Nat) :
    readOp w' o l = readOp w o l := by
  unfold readOp
  rw [resolve_congr hx]
  split
  · exact readV_congr h _ _ _
  · rfl

theorem laneFault_congr {w w' : Warp} (h : w'.xregs = w.xregs) (l : Nat) (ops : List VOp) :
    laneFault w' l ops = laneFault w l ops := by
  induction ops with
  | nil => rfl
  | cons o r ih => simp only [laneFault, resolve_congr h, ih]

theorem opFaults_congr {w w' : Warp} (h : w'.xregs = w.xregs) (hh : w'.helper = w.helper) (em : Mask) (ops : List VOp) :
    opFaults w' em ops = opFaults w em ops := by
  unfold opFaults Warp.lanesOn
  rw [hh]
  simp only [laneFault_congr h]

theorem warps_advance {m : Meta} {x : Ix} (a : State) (hn : x.members.Nodup) :
    x.warps (advance m x a) = (x.warps a).map fun p => (p.1, passWord m x (counted m x a).cycle.toNat p.2) := by
  unfold Ix.warps
  have : ∀ l : List Nat, (∀ k ∈ l, k ∈ x.members) →
      l.filterMap (fun k => (x.warp? (advance m x a) k).map fun w => (k, w))
        = (l.filterMap fun k => (x.warp? a k).map fun w => (k, w)).map
            fun p => (p.1, passWord m x (counted m x a).cycle.toNat p.2) := by
    intro l
    induction l with
    | nil => intro _; rfl
    | cons k r ih =>
      intro hl
      have e : x.warp? (advance m x a) k = (x.warp? a k).map (passWord m x (counted m x a).cycle.toNat) := by
        unfold Ix.warp?
        rw [warp?_advance a hn, if_pos (hl k List.mem_cons_self)]
      have ih' := ih fun j hj => hl j (List.mem_cons_of_mem _ hj)
      rw [List.filterMap_cons, List.filterMap_cons, e]
      cases x.warp? a k with
      | none => exact ih'
      | some w => simp only [Option.map_some, List.map_cons, ih']
  exact this x.members fun _ h => h

theorem operandFaults_advance {m : Meta} {x : Ix} (a : State) (hn : x.members.Nodup) (ops : List VOp) :
    x.operandFaults (advance m x a) ops = x.operandFaults a ops := by
  unfold Ix.operandFaults
  rw [warps_advance a hn]
  rw [List.flatMap_map]
  congr 1
  funext p
  obtain ⟨_, h2, _, h4, _⟩ := passWord_fields m x (counted m x a).cycle.toNat p.2
  rw [opFaults_congr h2 h4, em_passWord]

/-- The lead's scalars as they were. -/
theorem rs_advance {m : Meta} {x : Ix} (a : State) (hn : x.members.Nodup) : x.rs (advance m x a) = x.rs a := by
  funext n
  unfold Ix.rs Ix.warp?
  rw [warp?_advance a hn]
  split
  · rename_i w hw
    split at hw
    · cases hq : a.warp? x.core x.slot x.lead with
      | none => rw [hq] at hw; cases hw
      | some q =>
        rw [hq] at hw
        simp only [Option.map_some, Option.some.injEq] at hw
        subst hw
        simp only [Warp.s, (passWord_fields m x (counted m x a).cycle.toNat q).2.2.1]
    · rw [hw]
  · rename_i hw
    split at hw
    · cases hq : a.warp? x.core x.slot x.lead with
      | none => rfl
      | some q => rw [hq] at hw; cases hw
    · rw [hw]

/-- Word j of a value made register by register. -/
theorem word32_perReg (n : Nat) (g : Nat → Word) {j : Nat} (h : j < n) : word32 (perReg n g) j = g j := by
  have key : ∀ n, perReg n g < 2 ^ (32 * n) ∧ ∀ j, j < n → perReg n g / 2 ^ (32 * j) % 2 ^ 32 = (g j).toNat := by
    intro n
    induction n with
    | zero => exact ⟨by simp [perReg], fun j hj => absurd hj (by omega)⟩
    | succ n ih =>
      obtain ⟨h1, h2⟩ := ih
      have e : perReg (n + 1) g = perReg n g + (g n).toNat * 2 ^ (32 * n) := by
        simp [perReg, List.range_succ]
      have hlt := (g n).isLt
      constructor
      · rw [e]
        calc perReg n g + (g n).toNat * 2 ^ (32 * n) < 2 ^ (32 * n) + (g n).toNat * 2 ^ (32 * n) := by omega
          _ = ((g n).toNat + 1) * 2 ^ (32 * n) := by rw [Nat.add_mul]; omega
          _ ≤ 2 ^ 32 * 2 ^ (32 * n) := Nat.mul_le_mul_right _ hlt
          _ = 2 ^ (32 * (n + 1)) := by rw [← Nat.pow_add]; congr 1; omega
      · intro j hj
        rw [e]
        by_cases hjn : j = n
        · subst hjn
          rw [Nat.add_mul_div_right _ _ (Nat.two_pow_pos _), Nat.div_eq_of_lt h1, Nat.zero_add, Nat.mod_eq_of_lt hlt]
        · have hj' : j < n := by omega
          rw [← h2 j hj']
          have : (g n).toNat * 2 ^ (32 * n) = ((g n).toNat * 2 ^ (32 * (n - j - 1))) * 2 ^ 32 * 2 ^ (32 * j) := by
            rw [Nat.mul_assoc, Nat.mul_assoc, ← Nat.pow_add, ← Nat.pow_add]; congr 2; omega
          rw [this, Nat.add_mul_div_right _ _ (Nat.two_pow_pos _), Nat.add_mul_mod_self_right]
  unfold word32
  apply BitVec.eq_of_toNat_eq
  rw [BitVec.toNat_ofNat]
  exact (key n).2 j h

/-! ### Results -/

/-- A further change of the members after the word, which leaves their splits. -/
theorem onMembers_each {m : Meta} {x : Ix} (a : State) (hn : x.members.Nodup) (f : Nat → Warp → Warp)
    (hs : ∀ k w, (f k w).splits = w.splits) {Q : Nat → Warp → Warp → Prop}
    (hQ : ∀ k w, a.warp? x.core x.slot k = some w → Q k w (f k (passWord m x (counted m x a).cycle.toNat w))) :
    onMembers x a (x.each (advance m x a) f) Q := by
  refine ⟨beyondMembers_trans (beyondMembers_advance a hn) (beyondMembers_each _ _ hn), ?_⟩
  intro k hk w hw
  refine ⟨f k (passWord m x (counted m x a).cycle.toNat w), ?_, ?_, hQ k w hw⟩
  · rw [warp?_each _ _ hn, if_pos hk, warp?_advance a hn, if_pos hk, hw]
    rfl
  · obtain ⟨⟨h1, h2⟩, _⟩ := passWord_law m x (counted m x a).cycle.toNat w
    exact ⟨fun j hj => by rw [hs]; exact h1 j hj, fun p hp => by rw [hs]; exact h2 p hp⟩

theorem withStamp_none {m : Meta} (h : m.stamp = false) (hs : List Word) : m.withStamp hs = m := by
  unfold Meta.withStamp
  split
  · simp [h]
  · rfl

/-- An element-wise instruction writes its result in every active lane, and nothing else. -/
theorem lanewise_result {i : Instr} {m : Meta} {dst : VOp} {srcs : List VOp} {f : Ix → Warp → Nat → Nat}
    {g : Ix → Warp → Nat → Nat → Word}
    (hi : ∀ s, exec i s = .next (issue i m noExtra noUniform (fun x s => lanewise dst srcs (f x) x s) s))
    (hm : m.stamp = false)
    (hx : ∀ (x : Ix) sv w l, f { x with saved := sv } w l = f x w l)
    (hf : ∀ x w w', w'.vregs = w.vregs → w'.xregs = w.xregs → ∀ l, f x w' l = f x w l)
    (hg : ∀ x w l j, j < dst.w → word32 (f x w l) j = g x w l j) : LaneResult i m dst srcs g := by
  intro s x a h hop
  have hn := members_nodup h
  rw [hi s, issue_issuesAs h, withStamp_none hm]
  refine ⟨x.each (advance m x a) fun _ w => w.putOp dst fun l => if inMask (x.em w) l then some (f x w l) else none, ?_, ?_⟩
  · congr 1
    apply perform_done
    unfold lanewise withOperands
    have : Ix.operandFaults { x with saved := savedSplits x a } (advance m x a) (srcs ++ [dst])
        = x.operandFaults (advance m x a) (srcs ++ [dst]) := rfl
    dsimp only
    rw [this, operandFaults_advance a hn, hop]
    simp only [List.isEmpty_nil, if_true]
    have e : f { x with saved := savedSplits x a } = f x := by funext w l; exact hx x _ w l
    rw [e]
    rfl
  · refine onMembers_each a hn _ (fun k w => putOp_splits _ _ _) ?_
    intro k w _
    generalize hc : (counted m x a).cycle.toNat = c
    obtain ⟨hv, hxr, _⟩ := passWord_fields m x c w
    refine ⟨?_, ?_, ?_⟩
    · have h1 := (passWord_law m x c w).2
      have h2 := putOp_rest (passWord m x c w) dst fun l =>
        if inMask (x.em (passWord m x c w)) l then some (f x (passWord m x c w) l) else none
      have h3 := congrArg (fun z : Warp => { unissued w z with vregs := w.vregs }) h2
      have h4 := congrArg (fun z : Warp => { z with vregs := w.vregs }) h1
      exact Eq.trans h3 h4
    · rw [putOp_length, hv]
    · intro n l hn' hl
      rw [v_putOp _ _ _ (by rw [hv]; exact hn') hl, resolve_congr hxr, em_passWord]
      have hvv : (passWord m x c w).v n l = w.v n l := by unfold Warp.v; rw [hv]
      cases resolve w dst l with
      | error e => exact hvv
      | ok k' =>
        dsimp only
        by_cases hl' : inMask (x.em w) l
        · simp only [hl', if_true, true_and]
          rw [hf x w _ hv hxr l, hvv]
          split
          · rename_i hk
            exact hg x w l _ (by omega)
          · rfl
        · simp only [Bool.not_eq_true] at hl'
          simp only [hl', Bool.false_eq_true, false_and, if_false]
          exact hvv

theorem s_setS (w : Warp) (d n : Nat) (v : DWord) (h : n < w.sregs.length) :
    (w.setS d v).s n = if n = d then v else w.s n := by
  unfold Warp.setS Warp.s setAt
  by_cases e : n = d
  · subst e; simp [List.getD, h]
  · simp [List.getD, e, Ne.symm e]

/-- A scalar instruction writes its register in every member, and nothing else. -/
theorem scalar_result {i : Instr} {m : Meta} {d : BitVec 6} {f : Ix → (Nat → DWord) → DWord}
    (hi : ∀ s, exec i s = .next (issue i m noExtra noUniform (fun x s => .done (x.ws s d.toNat (f x (x.rs s)))) s))
    (hm : m.stamp = false) (hx : ∀ (x : Ix) sv r, f { x with saved := sv } r = f x r) : ScalarResult i m d f := by
  intro s x a h _
  have hn := members_nodup h
  rw [hi s, issue_issuesAs h, withStamp_none hm]
  refine ⟨x.each (advance m x a) fun _ w => w.setS d.toNat (f x (x.rs a)), ?_, ?_⟩
  · congr 1
    apply perform_done
    congr 1
    rw [hx]
    have : Ix.rs { x with saved := savedSplits x a } (advance m x a) = x.rs (advance m x a) := rfl
    rw [this, rs_advance a hn]
    rfl
  · refine onMembers_each a hn (fun _ w => w.setS d.toNat (f x (x.rs a))) (fun k w => rfl) ?_
    intro k w _
    generalize hc : (counted m x a).cycle.toNat = c
    obtain ⟨_, _, hsr, _⟩ := passWord_fields m x c w
    refine ⟨?_, ?_, ?_⟩
    · have h1 := (passWord_law m x c w).2
      exact congrArg (fun z : Warp => { z with sregs := w.sregs }) h1
    · simp [Warp.setS, setAt, hsr]
    · intro n hn'
      rw [s_setS _ _ _ _ (by rw [hsr]; exact hn')]
      split
      · rfl
      · unfold Warp.s; rw [hsr]

end Sys2Proof.Laws
end

