-- ==== Sys2Proof/Laws/Arith.lean ====
section
/-! SUPPORT. The results of the integer, bit, immediate and scalar families: one lemma per shape of meaning. -/

namespace Sys2Proof.Laws

open Sys2Proof Sys2Proof.Machine

theorem word_result {i : Instr} {c w : BitVec 2} {d a b : BitVec 6} {dist : Nat} {readD : Bool}
    {f g : Word → Word → Word → Word} (hi : ∀ s, exec i s = .next (int32 i c w d a b dist readD f s))
    (hg : ∀ x y z, f x y z = g x y z) : WordResult i c w d a b dist readD g := by
  refine lanewise_result (f := fun _ q l => perReg (wdWidth w) fun k =>
      f (word32 (readOp q (vop a (wdWidth w)) l) k) (word32 (readOp q (vop b (wdWidth w)) l) k)
        (word32 (readOp q (vop d (wdWidth w)) l) k)) hi rfl (fun _ _ _ _ => rfl) ?_ ?_
  · intro x w w' hv hx l
    simp only [readOp_congr hv hx]
  · intro x q l j hj
    rw [word32_perReg _ _ (show j < wdWidth w from hj), hg]
    rfl

theorem unary_result {i : Instr} {c : BitVec 2} {n : Nat} {d a : BitVec 6} {f g : Word → Word}
    (hi : ∀ s, exec i s = .next (unary32 i c n d a f s)) (hg : ∀ x, f x = g x) : UnaryResult i c n d a g := by
  refine lanewise_result (f := fun _ q l => perReg n fun k => f (word32 (readOp q (vop a n) l) k)) hi rfl
    (fun _ _ _ _ => rfl) ?_ ?_
  · intro x w w' hv hx l
    simp only [readOp_congr hv hx]
  · intro x q l j hj
    rw [word32_perReg _ _ (show j < n from hj), hg]
    rfl

theorem pair_result {i : Instr} {c : BitVec 2} {d a b : BitVec 6} {dist : Nat} {readD : Bool}
    {f g : DWord → DWord → DWord → DWord} (hi : ∀ s, exec i s = .next (int64 i c d a b dist readD f s))
    (hg : ∀ x y z, f x y z = g x y z) : PairResult i c d a b dist readD g := by
  refine lanewise_result (f := fun _ q l =>
      (f (BitVec.ofNat 64 (readOp q (vop a 2) l)) (BitVec.ofNat 64 (readOp q (vop b 2) l))
        (BitVec.ofNat 64 (readOp q (vop d 2) l))).toNat) hi rfl (fun _ _ _ _ => rfl) ?_ ?_
  · intro x w w' hv hx l
    simp only [readOp_congr hv hx]
  · intro x q l j _
    rw [hg]
    rfl

theorem imm_result {i : Instr} {c w : BitVec 2} {d : BitVec 6} {imm : BitVec 12} {dist : Nat} {readD : Bool}
    {f g : Word → Word → Word} (hi : ∀ s, exec i s = .next (immVec i c w d imm dist readD f s))
    (hg : ∀ x y, f x y = g x y) : ImmediateResult i c w d imm dist readD g := by
  refine lanewise_result (f := fun x q l => perReg (wdWidth w) fun k =>
      f (word32 (readOp q (vop d (wdWidth w)) l) k) (BitVec.ofInt 32 (immExt x.hints imm.toNat 12))) hi rfl
    (fun _ _ _ _ => rfl) ?_ ?_
  · intro x w w' hv hx l
    simp only [readOp_congr hv hx]
  · intro x q l j hj
    rw [word32_perReg _ _ (show j < wdWidth w from hj), hg]
    rfl

theorem scalar2_result {i : Instr} {c : BitVec 2} {d a b : BitVec 6} {dist : Nat} {f g : DWord → DWord → DWord}
    (hi : ∀ s, exec i s = .next (scalar2 i c d a b dist f s)) (hg : ∀ x y, f x y = g x y) : Scalar2Result i c d a b dist g := by
  have e : f = g := by funext x y; exact hg x y
  subst e
  exact scalar_result hi rfl fun _ _ _ => rfl

theorem scalarImm_result {i : Instr} {c : BitVec 2} {d : BitVec 6} {imm : BitVec 12} {dist : Nat} {readD : Bool}
    {f g : DWord → DWord → DWord} (hi : ∀ s, exec i s = .next (scalarImm i c d imm dist readD f s))
    (hg : ∀ x y, f x y = g x y) : ScalarImmResult i c d imm dist readD g := by
  have e : f = g := by funext x y; exact hg x y
  subst e
  exact scalar_result hi rfl fun _ _ _ => rfl

end Sys2Proof.Laws
end

