-- ==== Sys2Proof/Laws/Floats.lean ====
section
/-! SUPPORT. The results of vector compares and of floating-point instructions: one lemma per shape of meaning. -/

namespace Sys2Proof.Laws

open Sys2Proof Sys2Proof.Machine

/-! ### Changing the members one by one -/

theorem beyondMembers_mono {x y : Ix} {a t : State} (hc : y.core = x.core) (hs : y.slot = x.slot)
    (hm : ∀ k ∈ y.members, k ∈ x.members) (h : beyondMembers y a t) : beyondMembers x a t := by
  obtain ⟨h1, h2, h3, h4, h5⟩ := h
  rw [hc] at h2 h3 h4 h5
  rw [hs] at h2 h3
  refine ⟨h1, h2, ?_, h4, h5⟩
  intro b hb
  obtain ⟨b', e1, e2, e3, e4⟩ := h3 b hb
  exact ⟨b', e1, e2, e3, fun m hm' => e4 m fun hk => hm' (hm m hk)⟩

theorem beyondMembers_modWarp {x : Ix} (a : State) {k : Nat} (hk : k ∈ x.members) (f : Warp → Warp) :
    beyondMembers x a (a.modWarp x.core x.slot k f) := by
  have h : beyondMembers { x with members := [k] } a (Ix.each { x with members := [k] } a fun _ => f) :=
    beyondMembers_each a _ (by simp)
  refine beyondMembers_mono (y := { x with members := [k] }) (x := x) rfl rfl (fun j hj => ?_) h
  have e : j = k := List.mem_singleton.mp hj
  exact e ▸ hk

/-- Changing members of a list, each once. -/
theorem fold_members {β : Type} {x : Ix} (l : List (Nat × β)) (f : β → Warp → Warp) (hn : (l.map (·.1)).Nodup)
    (hm : ∀ p ∈ l, p.1 ∈ x.members) (s : State) :
    beyondMembers x s (l.foldl (fun t p => t.modWarp x.core x.slot p.1 (f p.2)) s)
      ∧ (∀ k, k ∉ l.map (·.1) →
          (l.foldl (fun t p => t.modWarp x.core x.slot p.1 (f p.2)) s).warp? x.core x.slot k = s.warp? x.core x.slot k)
      ∧ ∀ p ∈ l, (l.foldl (fun t p => t.modWarp x.core x.slot p.1 (f p.2)) s).warp? x.core x.slot p.1
          = (s.warp? x.core x.slot p.1).map (f p.2) := by
  induction l generalizing s with
  | nil => exact ⟨beyondMembers_refl _ _, fun _ _ => rfl, fun p hp => absurd hp (by simp)⟩
  | cons q r ih =>
    simp only [List.map_cons, List.nodup_cons] at hn
    obtain ⟨h1, h2, h3⟩ := ih hn.2 (fun p hp => hm p (List.mem_cons_of_mem _ hp)) (s.modWarp x.core x.slot q.1 (f q.2))
    simp only [List.foldl_cons]
    refine ⟨beyondMembers_trans (beyondMembers_modWarp s (hm q List.mem_cons_self) _) h1, ?_, ?_⟩
    · intro k hk
      simp only [List.map_cons, List.mem_cons, not_or] at hk
      rw [h2 k hk.2, warp?_modWarp_other _ _ hk.1]
    · intro p hp
      rcases List.mem_cons.mp hp with rfl | hp
      · rw [h2 p.1 hn.1]
        simp
      · rw [h3 p hp, warp?_modWarp_other]
        intro e
        exact hn.1 (e ▸ List.mem_map_of_mem hp)

/-- A further change of members that leaves their splits. -/
theorem onMembers_of {x : Ix} {a t u : State} {Q R : Nat → Warp → Warp → Prop} (h : onMembers x a t Q)
    (hb : beyondMembers x t u)
    (hu : ∀ k ∈ x.members, ∀ w w', a.warp? x.core x.slot k = some w → t.warp? x.core x.slot k = some w' → Q k w w' →
      ∃ w'', u.warp? x.core x.slot k = some w'' ∧ w''.splits = w'.splits ∧ R k w w'') : onMembers x a u R := by
  refine ⟨beyondMembers_trans h.1 hb, ?_⟩
  intro k hk w hw
  obtain ⟨w', e1, e2, e3⟩ := h.2 k hk w hw
  obtain ⟨w'', g1, g2, g3⟩ := hu k hk w w' hw e1 e3
  refine ⟨w'', g1, ?_, g3⟩
  obtain ⟨p1, p2⟩ := e2
  exact ⟨fun j hj => by rw [g2]; exact p1 j hj, fun p hp => by rw [g2]; exact p2 p hp⟩

theorem warps_nodup {x : Ix} (a : State) (hn : x.members.Nodup) : ((x.warps a).map (·.1)).Nodup := by
  unfold Ix.warps
  have : ∀ l : List Nat, l.Nodup → (List.map (·.1) (l.filterMap fun m => (x.warp? a m).map fun w => (m, w))).Sublist l := by
    intro l
    induction l with
    | nil => intro _; exact List.Sublist.slnil
    | cons k r ih =>
      intro h
      rw [List.filterMap_cons]
      cases x.warp? a k with
      | none => exact (ih (List.nodup_cons.mp h).2).cons _
      | some w => exact (ih (List.nodup_cons.mp h).2).cons_cons _
  exact (this _ hn).nodup hn

theorem mem_warps {x : Ix} {a : State} {p : Nat × Warp} :
    p ∈ x.warps a ↔ p.1 ∈ x.members ∧ a.warp? x.core x.slot p.1 = some p.2 := by
  unfold Ix.warps Ix.warp?
  rw [List.mem_filterMap]
  constructor
  · rintro ⟨k, hk, e⟩
    cases hw : a.warp? x.core x.slot k with
    | none => rw [hw] at e; cases e
    | some w =>
      rw [hw] at e
      simp only [Option.map_some, Option.some.injEq] at e
      subst e
      exact ⟨hk, hw⟩
  · rintro ⟨h1, h2⟩
    exact ⟨p.1, h1, by rw [h2]; rfl⟩

/-! ### Flags -/

theorem bit_flagBits (l : LaneFlags) (k : Nat) : bit (flagBits l) k = l.any fun p => bit p.2.toBits k := by
  unfold flagBits bit
  have : ∀ (r : BitVec 8), (l.foldl (fun r p => r ||| p.2.toBits) r).getLsbD k
      = (r.getLsbD k || l.any fun p => p.2.toBits.getLsbD k) := by
    induction l with
    | nil => intro r; simp
    | cons a t ih => intro r; simp only [List.foldl_cons, ih, BitVec.getLsbD_or, List.any_cons, Bool.or_assoc]
  rw [this]
  simp

/-- Accruing flags of which none is enabled: the members' fpflags take them, and nothing is trapped. -/
theorem accrue_done {x : Ix} {s : State} {before : List (Nat × LaneFlags)}
    (h : ∀ p ∈ before, ∀ q ∈ p.2, q.2.toBits &&& ((x.fpm s >>> 3) &&& 0x1F#8) = 0#8) :
    accrue x before s = .done (before.foldl (fun t p =>
      t.modWarp x.core x.slot p.1 fun w => { w with fpflags := w.fpflags ||| flagBits p.2 }) s) := by
  unfold accrue
  have e : ((before.map fun p => (p.1, raisers p.2 ((x.fpm s >>> 3) &&& 0x1F#8))).filter fun p => !p.2.isEmpty) = [] := by
    rw [List.filter_eq_nil_iff]
    intro p hp
    rw [List.mem_map] at hp
    obtain ⟨q, hq, rfl⟩ := hp
    have : raisers q.2 ((x.fpm s >>> 3) &&& 0x1F#8) = [] := by
      unfold raisers
      rw [List.filter_eq_nil_iff]
      intro r hr
      simp [h q hq r hr]
    simp [this]
  dsimp only
  rw [e]

theorem em_of {x : Ix} {w w' : Warp} (h : w'.splits = w.splits) : x.em w' = x.em w := by
  unfold Ix.em; rw [h]

theorem lanesOn_of {w w' : Warp} (h : w'.helper = w.helper) (em : Mask) : w'.lanesOn em = w.lanesOn em := by
  unfold Warp.lanesOn; rw [h]

/-- The flags of the members, whatever changes of them leave what the flags are computed from. -/
theorem laneFlags_advance {m : Meta} {x : Ix} (a : State) (hn : x.members.Nodup) (f : Warp → Nat → Flags)
    (hf : ∀ c w l, f (passWord m x c w) l = f w l) :
    x.laneFlags (advance m x a) f = x.laneFlags a f := by
  unfold Ix.laneFlags
  rw [warps_advance a hn, List.map_map]
  apply List.map_congr_left
  intro p _
  obtain ⟨_, _, _, h4, _⟩ := passWord_fields m x (counted m x a).cycle.toNat p.2
  simp only [Function.comp, em_passWord, lanesOn_of h4, hf]

theorem fpm_advance {m : Meta} {x : Ix} (a : State) (hn : x.members.Nodup) : x.fpm (advance m x a) = x.fpm a := by
  unfold Ix.fpm Ix.warp?
  rw [warp?_advance a hn]
  by_cases hl : x.lead ∈ x.members
  · rw [if_pos hl]
    cases a.warp? x.core x.slot x.lead with
    | none => rfl
    | some w => exact (passWord_fields m x (counted m x a).cycle.toNat w).2.2.2.2.1
  · rw [if_neg hl]

theorem fpm_each {x : Ix} (s : State) (hn : x.members.Nodup) (f : Nat → Warp → Warp) (hf : ∀ k w, (f k w).fpm = w.fpm) :
    x.fpm (x.each s f) = x.fpm s := by
  unfold Ix.fpm Ix.warp?
  rw [warp?_each s f hn]
  by_cases hl : x.lead ∈ x.members
  · rw [if_pos hl]
    cases s.warp? x.core x.slot x.lead with
    | none => rfl
    | some w => exact hf _ w
  · rw [if_neg hl]

/-- The settings of an instance once its members have passed the word. -/
theorem fset_advance {m : Meta} (x : Ix) (sv : List (Nat × Split)) (a : State) (hn : x.members.Nodup) :
    Ix.fset { x with saved := sv } (advance m x a) = x.fset a := by
  have h : Ix.fpm { x with saved := sv } (advance m x a) = x.fpm a := fpm_advance a hn
  unfold Ix.fset
  rw [h]

/-- The members after their flags have accrued. -/
theorem onMembers_accrue {x : Ix} {a t : State} (hn : x.members.Nodup) (fl : Warp → Nat → Flags)
    {Q R : Nat → Warp → Warp → Prop} (h : onMembers x a t Q)
    (hQ : ∀ k w w', Q k w w' → R k w { w' with fpflags := w'.fpflags ||| flagBits ((w.lanesOn (x.em w)).map fun l => (l, fl w l)) }) :
    onMembers x a ((x.laneFlags a fl).foldl (fun t p =>
      t.modWarp x.core x.slot p.1 fun w => { w with fpflags := w.fpflags ||| flagBits p.2 }) t) R := by
  have hk : (x.laneFlags a fl).map (·.1) = (x.warps a).map (·.1) := by simp [Ix.laneFlags]
  obtain ⟨h1, h2, h3⟩ := fold_members (x := x) (x.laneFlags a fl)
    (fun (p : LaneFlags) (w : Warp) => { w with fpflags := w.fpflags ||| flagBits p }) (by rw [hk]; exact warps_nodup a hn) (by
    intro p hp
    have : p.1 ∈ (x.warps a).map (·.1) := hk ▸ List.mem_map_of_mem hp
    rw [List.mem_map] at this
    obtain ⟨q, hq, e⟩ := this
    rw [← e]; exact (mem_warps.mp hq).1) t
  refine onMembers_of h h1 ?_
  intro k hkm w w' hw hw' hq
  have hp : (k, (w.lanesOn (x.em w)).map fun l => (l, fl w l)) ∈ x.laneFlags a fl := by
    unfold Ix.laneFlags
    rw [List.mem_map]
    exact ⟨(k, w), mem_warps.mpr ⟨hkm, hw⟩, rfl⟩
  have := h3 _ hp
  dsimp only at this
  rw [hw'] at this
  exact ⟨_, this, rfl, hQ k w w' hq⟩

theorem flags_or {w : Warp} {x : Ix} (r : BitVec 8) (fl : Warp → Nat → Flags) (k : Nat) :
    bit (r ||| flagBits ((w.lanesOn (x.em w)).map fun l => (l, fl w l))) k
      = (bit r k || (w.lanesOn (x.em w)).any fun l => bit (fl w l).toBits k) := by
  have : bit (r ||| flagBits ((w.lanesOn (x.em w)).map fun l => (l, fl w l))) k
      = (bit r k || bit (flagBits ((w.lanesOn (x.em w)).map fun l => (l, fl w l))) k) := by
    unfold bit; rw [BitVec.getLsbD_or]
  rw [this, bit_flagBits, List.any_map]
  rfl

/-! ### Masks -/

theorem lanesMask_bit (p : Nat → Bool) {l : Nat} (hl : l < 64) (em : Mask) :
    (lanesMask ((maskLanes em).filter p)).getLsbD l = (inMask em l && p l) := by
  have hm : ∀ (ls : List Nat) (r : Mask), (ls.foldl (fun m l => m ||| laneBit l) r).getLsbD l
      = (r.getLsbD l || ls.any fun k => decide (k = l)) := by
    intro ls
    induction ls with
    | nil => intro r; simp
    | cons k t ih =>
      intro r
      simp only [List.foldl_cons, ih, BitVec.getLsbD_or, List.any_cons, Bool.or_assoc]
      congr 1
      congr 1
      unfold laneBit
      rw [BitVec.getLsbD_shiftLeft]
      by_cases e : k = l
      · subst e; simp [hl]
      · simp only [hl, decide_true, Bool.true_and, e, decide_false]
        rcases Nat.lt_or_ge l k with h | h
        · simp [h]
        · simp only [Nat.not_lt.mpr h, decide_false, Bool.not_false, Bool.true_and, BitVec.getLsbD_one]
          simp only [Nat.reduceLT, decide_true, Bool.true_and, decide_eq_false_iff_not]
          omega
  unfold lanesMask
  rw [hm]
  simp only [BitVec.getLsbD_zero, Bool.false_or]
  rw [Bool.eq_iff_iff]
  simp only [List.any_eq_true, List.mem_filter, decide_eq_true_eq, Bool.and_eq_true, maskLanes, lanes, List.mem_range, inMask]
  constructor
  · rintro ⟨k, ⟨⟨h1, h2⟩, h3⟩, rfl⟩; exact ⟨h2, h3⟩
  · rintro ⟨h1, h2⟩; exact ⟨l, ⟨⟨hl, h1⟩, h2⟩, rfl⟩

/-- What a compare leaves in the members. -/
theorem onMembers_compare {m : Meta} {x : Ix} (a : State) (hn : x.members.Nodup) (n : Nat) (f : Warp → Nat → Bool)
    (hf : ∀ c w l, f (passWord m x c w) l = f w l) :
    onMembers x a (compareMask x (advance m x a) n f) fun _ w w' =>
      { unissued w w' with sregs := w.sregs } = w ∧ w'.sregs.length = w.sregs.length
      ∧ (∀ k, k < w.sregs.length → k ≠ n → w'.s k = w.s k)
      ∧ (n < w.sregs.length → ∀ l, l < 64 → (w'.s n).getLsbD l = (inMask (x.em w) l && f w l)) := by
  refine onMembers_each a hn (fun _ w => w.setS n (lanesMask ((maskLanes (x.em w)).filter (f w)))) (fun _ _ => rfl) ?_
  intro k w _
  generalize hc : (counted m x a).cycle.toNat = c
  obtain ⟨_, _, hsr, _⟩ := passWord_fields m x c w
  refine ⟨?_, ?_, ?_, ?_⟩
  · exact congrArg (fun z : Warp => { z with sregs := w.sregs }) (passWord_law m x c w).2
  · simp [Warp.setS, setAt, hsr]
  · intro j hj hne
    rw [s_setS _ _ _ _ (by rw [hsr]; exact hj), if_neg hne]
    unfold Warp.s; rw [hsr]
  · intro hd l hl
    rw [s_setS _ _ _ _ (by rw [hsr]; exact hd), if_pos rfl, em_passWord, lanesMask_bit _ hl]
    rw [hf]

/-- A vector compare that raises no flag. -/
theorem mask_result {i : Instr} {m : Meta} {srcs : List VOp} {d : BitVec 6} {f : Warp → Nat → Bool}
    (hi : ∀ s, exec i s = .next (issue i m noExtra noUniform
      (withOperands srcs fun x s => .done (compareMask x s d.toNat f)) s))
    (hm : m.stamp = false) (hf : ∀ w w', w'.vregs = w.vregs → w'.xregs = w.xregs → ∀ l, f w' l = f w l) :
    MaskResult i m srcs d f := by
  intro s x a h hop
  have hn := members_nodup h
  rw [hi s, issue_issuesAs h, withStamp_none hm]
  refine ⟨compareMask x (advance m x a) d.toNat f, ?_, ?_⟩
  · congr 1
    apply perform_done
    unfold withOperands
    have : Ix.operandFaults { x with saved := savedSplits x a } (advance m x a) srcs
        = x.operandFaults (advance m x a) srcs := rfl
    dsimp only
    rw [this, operandFaults_advance a hn, hop]
    rfl
  · refine onMembers_compare a hn d.toNat f ?_
    intro c w l
    obtain ⟨hv, hx, _⟩ := passWord_fields m x c w
    exact hf _ _ hv hx l

/-- A floating-point vector compare. -/
theorem compare_result {i : Instr} {m : Meta} {srcs : List VOp} {d : BitVec 6} {g : FSet → Warp → Nat → Bool × Flags}
    (hi : ∀ s, exec i s = .next (issue i m noExtra noUniform
      (withOperands srcs fun x s =>
        accrue x (x.laneFlags s fun q l => (g (x.fset s) q l).2) (compareMask x s d.toNat fun q l => (g (x.fset s) q l).1)) s))
    (hm : m.stamp = false) (hf : ∀ e w w', w'.vregs = w.vregs → w'.xregs = w.xregs → ∀ l, g e w' l = g e w l) :
    CompareResult i m srcs d g := by
  intro s x a h ⟨hop, hen⟩
  have hn := members_nodup h
  have hfp := fpm_advance (m := m) a hn
  have hfs : x.fset (advance m x a) = x.fset a := by unfold Ix.fset; rw [hfp]
  have hg : ∀ e c w l, g e (passWord m x c w) l = g e w l := by
    intro e c w l
    obtain ⟨hv, hx, _⟩ := passWord_fields m x c w
    exact hf e _ _ hv hx l
  rw [hi s, issue_issuesAs h, withStamp_none hm]
  refine ⟨(x.laneFlags a fun q l => (g (x.fset a) q l).2).foldl (fun t p =>
      t.modWarp x.core x.slot p.1 fun w => { w with fpflags := w.fpflags ||| flagBits p.2 })
      (compareMask x (advance m x a) d.toNat fun q l => (g (x.fset a) q l).1), ?_, ?_⟩
  · congr 1
    apply perform_done
    unfold withOperands
    have : Ix.operandFaults { x with saved := savedSplits x a } (advance m x a) srcs
        = x.operandFaults (advance m x a) srcs := rfl
    dsimp only
    rw [this, operandFaults_advance a hn, hop]
    simp only [List.isEmpty_nil, if_true]
    change accrue _ (x.laneFlags (advance m x a) fun q l => (g (x.fset (advance m x a)) q l).2)
      (compareMask x (advance m x a) d.toNat fun q l => (g (x.fset (advance m x a)) q l).1) = _
    rw [hfs, laneFlags_advance a hn _ (fun c w l => by rw [hg])]
    apply accrue_done
    intro p hp q hq
    have e : Ix.fpm { x with saved := savedSplits x a }
        (compareMask x (advance m x a) d.toNat fun q l => (g (x.fset a) q l).1) = x.fpm a := by
      rw [← hfp]
      exact fpm_each _ hn _ (fun _ _ => rfl)
    rw [e]
    unfold Ix.laneFlags at hp
    rw [List.mem_map] at hp
    obtain ⟨y, hy, rfl⟩ := hp
    rw [List.mem_map] at hq
    obtain ⟨l, hl, rfl⟩ := hq
    exact hen y hy l hl
  · refine onMembers_accrue hn _ (onMembers_compare a hn d.toNat _ (fun c w l => by rw [hg])) ?_
    rintro k w w' ⟨h1, h2, h3, h4⟩
    refine ⟨?_, h2, h3, h4, ?_⟩
    · exact congrArg (fun z : Warp => { z with fpflags := w.fpflags }) h1
    · intro j _
      have e1 : w'.fpflags = w.fpflags := (congrArg Warp.fpflags h1 :)
      dsimp only
      rw [e1, flags_or w.fpflags (fun w l => (g (x.fset a) w l).2) j]

/-! ### Values -/

theorem lanesWritten_put {m : Meta} {x : Ix} {dst : VOp} (c : Nat) (w : Warp) (f : Warp → Nat → Nat)
    (hf : ∀ l, f (passWord m x c w) l = f w l) :
    lanesWritten x dst (fun l j => word32 (f w l) j) w ((passWord m x c w).putOp dst fun l =>
      if inMask (x.em (passWord m x c w)) l then some (f (passWord m x c w) l) else none) := by
  obtain ⟨hv, hxr, _⟩ := passWord_fields m x c w
  refine ⟨by rw [putOp_length, hv], ?_⟩
  intro n l hn' hl
  rw [v_putOp _ _ _ (by rw [hv]; exact hn') hl, resolve_congr hxr, em_passWord]
  have hvv : (passWord m x c w).v n l = w.v n l := by unfold Warp.v; rw [hv]
  cases resolve w dst l with
  | error e => exact hvv
  | ok k' =>
    dsimp only
    by_cases hl' : inMask (x.em w) l
    · simp only [hl', if_true, true_and]
      rw [hf l, hvv]
    · simp only [Bool.not_eq_true] at hl'
      simp only [hl', Bool.false_eq_true, false_and, if_false]
      exact hvv

/-- A floating-point element-wise instruction. -/
theorem float_result {fs : Ix → State → FSet} {i : Instr} {m : Meta} {dst : VOp} {srcs : List VOp} {draws : Nat}
    {g : FSet → (Nat → Nat) → Warp → Nat → Nat × Flags}
    (hi : ∀ s, exec i s = .next (issue i m noExtra noUniform
      (withOperands (srcs ++ [dst]) fun x s =>
        let e := fs x s
        let h (w : Warp) (l : Nat) : Nat × Flags := g e (srDraw w l) w l
        let fl := x.laneFlags s fun w l => (h w l).2
        let t := x.putLanes s dst fun _ w l => (h w l).1
        let t := if e.sr then x.each t fun _ w => w.advanceSeed (x.em w) draws else t
        accrue x fl t) s))
    (hm : m.stamp = false)
    (hs : ∀ (x : Ix) sv a, x.members.Nodup → fs { x with saved := sv } (advance m x a) = fs x a)
    (hf : ∀ e r w w', w'.vregs = w.vregs → w'.xregs = w.xregs → ∀ l, g e r w' l = g e r w l) :
    FloatResultBy fs i m dst srcs draws g := by
  intro s x a h ⟨hop, hen⟩
  have hn := members_nodup h
  have hfp := fpm_advance (m := m) a hn
  have hg : ∀ e c w l, g e (srDraw (passWord m x c w) l) (passWord m x c w) l = g e (srDraw w l) w l := by
    intro e c w l
    obtain ⟨hv, hx, _, _, _, hr, _⟩ := passWord_fields m x c w
    have : srDraw (passWord m x c w) l = srDraw w l := by funext i; unfold srDraw; rw [hr]
    rw [this]
    exact hf e _ _ _ hv hx l
  generalize he : fs x a = e at hen
  have hput : onMembers x a (x.putLanes (advance m x a) dst fun _ w l => (g e (srDraw w l) w l).1) fun _ w w' =>
      { unissued w w' with vregs := w.vregs } = w ∧ lanesWritten x dst (fun l j => word32 (g e (srDraw w l) w l).1 j) w w'
      ∧ w'.rseed = w.rseed := by
    refine onMembers_each a hn (fun _ w => w.putOp dst fun l =>
      if inMask (x.em w) l then some (g e (srDraw w l) w l).1 else none) (fun _ w => putOp_splits _ _ _) ?_
    intro k w _
    generalize hc : (counted m x a).cycle.toNat = c
    refine ⟨?_, lanesWritten_put c w (fun w l => (g e (srDraw w l) w l).1) (fun l => by rw [hg]), ?_⟩
    · have h1 := (passWord_law m x c w).2
      have h2 := putOp_rest (passWord m x c w) dst fun l =>
        if inMask (x.em (passWord m x c w)) l then some (g e (srDraw (passWord m x c w) l) (passWord m x c w) l).1 else none
      have h3 := congrArg (fun z : Warp => { unissued w z with vregs := w.vregs }) h2
      have h4 := congrArg (fun z : Warp => { z with vregs := w.vregs }) h1
      exact Eq.trans h3 h4
    · have h2 := congrArg Warp.rseed (putOp_rest (passWord m x c w) dst fun l =>
        if inMask (x.em (passWord m x c w)) l then some (g e (srDraw (passWord m x c w) l) (passWord m x c w) l).1 else none)
      exact h2.trans (passWord_fields m x c w).2.2.2.2.2.1
  have hem : ∀ k w, x.em (w.advanceSeed k draws) = x.em w := fun _ _ => rfl
  have hseed : onMembers x a (if e.sr then x.each (x.putLanes (advance m x a) dst fun _ w l => (g e (srDraw w l) w l).1)
      (fun _ w => w.advanceSeed (x.em w) draws) else x.putLanes (advance m x a) dst fun _ w l => (g e (srDraw w l) w l).1)
      fun _ w w' => { unissued w w' with vregs := w.vregs, rseed := w.rseed } = w
        ∧ lanesWritten x dst (fun l j => word32 (g e (srDraw w l) w l).1 j) w w'
        ∧ ∀ l, l < 64 → w'.rseed.lane l
            = if e.sr && inMask (x.em w) l then srAfter (w.rseed.lane l) draws else w.rseed.lane l := by
    by_cases hsr : e.sr
    · rw [if_pos hsr]
      refine onMembers_of hput (beyondMembers_each _ _ hn) ?_
      intro k hk w w' hw hw' ⟨h1, h2, h3⟩
      refine ⟨w'.advanceSeed (x.em w') draws, ?_, rfl, ?_, h2, ?_⟩
      · rw [warp?_each _ _ hn, if_pos hk, hw']; rfl
      · exact congrArg (fun z : Warp => { z with rseed := w.rseed }) h1
      · intro l hl
        have hsp : x.em w' = x.em w := by
          obtain ⟨w1, e1, ⟨q1, q2⟩, _⟩ := hput.2 k hk w hw
          rw [hw'] at e1
          cases e1
          unfold Ix.em
          cases hq : w.splits[x.split]? with
          | none =>
            have hlen : w'.splits[x.split]? = none := by
              have hadv := warp?_each (x := x) (advance m x a) (fun _ w => w.putOp dst fun l =>
                if inMask (x.em w) l then some (g e (srDraw w l) w l).1 else none) hn k
              rw [if_pos hk, warp?_advance a hn, if_pos hk, hw] at hadv
              have e2 := hw'.symm.trans hadv
              simp only [Option.map_some, Option.some.injEq] at e2
              rw [e2, putOp_splits, splits_passWord]
              simp [modAt, hq]
            rw [hlen]
          | some p =>
            obtain ⟨p', hp', _, _, _, _, hp⟩ := q2 p hq
            rw [hp']
            exact (congrArg Split.em hp :)
        unfold Warp.advanceSeed
        dsimp only
        rw [lane_of _ hl, hsp, h3, hsr]
        rfl
    · rw [if_neg hsr]
      refine ⟨hput.1, ?_⟩
      intro k hk w hw
      obtain ⟨w', e1, e2, h1, h2, h3⟩ := hput.2 k hk w hw
      refine ⟨w', e1, e2, ?_, h2, ?_⟩
      · exact congrArg (fun z : Warp => { z with rseed := w.rseed }) h1
      · intro l _
        rw [h3]; simp [hsr]
  rw [hi s, issue_issuesAs h, withStamp_none hm]
  refine ⟨(x.laneFlags a fun w l => (g e (srDraw w l) w l).2).foldl (fun t p =>
      t.modWarp x.core x.slot p.1 fun w => { w with fpflags := w.fpflags ||| flagBits p.2 })
      (if e.sr then x.each (x.putLanes (advance m x a) dst fun _ w l => (g e (srDraw w l) w l).1)
      (fun _ w => w.advanceSeed (x.em w) draws) else x.putLanes (advance m x a) dst fun _ w l => (g e (srDraw w l) w l).1),
      ?_, ?_⟩
  · congr 1
    apply perform_done
    unfold withOperands
    have : Ix.operandFaults { x with saved := savedSplits x a } (advance m x a) (srcs ++ [dst])
        = x.operandFaults (advance m x a) (srcs ++ [dst]) := rfl
    dsimp only
    rw [this, operandFaults_advance a hn, hop, hs x _ a hn, he]
    simp only [List.isEmpty_nil, if_true]
    change accrue _ (x.laneFlags (advance m x a) fun w l => (g e (srDraw w l) w l).2) _ = _
    rw [laneFlags_advance a hn _ (fun c w l => by rw [hg])]
    refine Eq.trans (accrue_done ?_) rfl
    intro p hp q hq
    have e' : x.fpm
        (if e.sr then x.each (x.putLanes (advance m x a) dst fun _ w l => (g e (srDraw w l) w l).1)
          (fun _ w => w.advanceSeed (x.em w) draws)
          else x.putLanes (advance m x a) dst fun _ w l => (g e (srDraw w l) w l).1) = x.fpm a := by
      have hp1 : ∀ (k : Nat) (w : Warp), (w.putOp dst fun l =>
          if inMask (x.em w) l then some (g e (srDraw w l) w l).1 else none).fpm = w.fpm :=
        fun _ w => (congrArg Warp.fpm (putOp_rest w dst _) :)
      have h1 : x.fpm (x.putLanes (advance m x a) dst fun _ w l => (g e (srDraw w l) w l).1) = x.fpm a := by
        rw [← hfp]
        exact fpm_each _ hn _ hp1
      split
      · rw [← h1]
        exact fpm_each _ hn _ (fun _ _ => rfl)
      · exact h1
    change q.2.toBits &&& ((x.fpm (if e.sr then x.each (x.putLanes (advance m x a) dst fun _ w l => (g e (srDraw w l) w l).1)
          (fun _ w => w.advanceSeed (x.em w) draws)
          else x.putLanes (advance m x a) dst fun _ w l => (g e (srDraw w l) w l).1) >>> 3) &&& 0x1F#8) = 0#8
    rw [e']
    unfold Ix.laneFlags at hp
    rw [List.mem_map] at hp
    obtain ⟨y, hy, rfl⟩ := hp
    rw [List.mem_map] at hq
    obtain ⟨l, hl, rfl⟩ := hq
    exact hen y hy l hl
  · simp only [he]
    refine onMembers_accrue hn _ hseed ?_
    rintro k w w' ⟨h1, h2, h3⟩
    refine ⟨?_, h2, ?_, h3⟩
    · exact congrArg (fun z : Warp => { z with fpflags := w.fpflags }) h1
    · intro j _
      have e1 : w'.fpflags = w.fpflags := (congrArg Warp.fpflags h1 :)
      dsimp only
      rw [e1, flags_or w.fpflags (fun w l => (g e (srDraw w l) w l).2) j]

theorem arith_result {i : Instr} {c : BitVec 2} {n : Nat} {d a b : BitVec 6} {fmt : Fmt} {dist : Nat}
    {useB useD rounds : Bool} {f : FEnv → Nat → Nat → Nat → Nat × Flags}
    (hi : ∀ s, exec i s = .next (floatArith i c n d a b fmt dist useB useD rounds f s)) :
    ArithResult i c n d a b fmt dist useB useD rounds f := by
  refine float_result (fs := Ix.fset) hi rfl (fun x sv a h => fset_advance x sv a h) ?_
  intro e r w w' hv hx l
  simp only [floatElems, readOp_congr hv hx]

theorem trans_result {i : Instr} {c w : BitVec 2} {d a : BitVec 6} {f : FEnv → Nat → Nat × Flags}
    (hi : ∀ s, exec i s = .next (transOp i c w d a f s)) : TransResult i c w d a f := by
  refine float_result (fs := Ix.fset) (draws := 0)
    (g := fun e _ q l => perElem 32 (wdWidth w) fun j => f (e.env 0) (elemAt 32 (readOp q (vop a (wdWidth w)) l) j)) hi rfl (fun x sv a h => fset_advance x sv a h) ?_
  intro e r w w' hv hx l
  simp only [readOp_congr hv hx]

end Sys2Proof.Laws
end

