-- ==== Sys2Proof/Laws/Memory.lean ====
section
/-! SUPPORT. The laws of byte memories: a read after a write, and that every operation keeps the canonical form. -/

namespace Sys2Proof.Laws

open Sys2Proof Sys2Proof.Machine

theorem wfFrom_mono {m : Mem} {a b : Nat} (h : a ≤ b) (hw : Mem.wfFrom b m = true) : Mem.wfFrom a m = true := by
  cases m with
  | nil => rfl
  | cons c r =>
    obtain ⟨x, v⟩ := c
    simp only [Mem.wfFrom, Bool.and_eq_true, decide_eq_true_eq] at hw ⊢
    exact ⟨⟨Nat.le_trans h hw.1.1, hw.1.2⟩, hw.2⟩

theorem wfFrom_cons {m : Mem} {lo a : Nat} {b : Byte} (h : lo ≤ a) (hw : Mem.wfFrom (a + 1) m = true) :
    Mem.wfFrom lo (Mem.cons a b m) = true := by
  unfold Mem.cons
  split
  · exact wfFrom_mono (by omega) hw
  · rename_i hb
    simp [Mem.wfFrom, h, hb, hw]

theorem wfFrom_write {m : Mem} {lo x : Nat} {v : Byte} (h : lo ≤ x) (hw : Mem.wfFrom lo m = true) :
    Mem.wfFrom lo (Mem.write m x v) = true := by
  induction m generalizing lo with
  | nil => exact wfFrom_cons h rfl
  | cons c r ih =>
    obtain ⟨a, b⟩ := c
    have hw' := hw
    simp only [Mem.wfFrom, Bool.and_eq_true, decide_eq_true_eq] at hw
    unfold Mem.write
    by_cases h1 : a = x
    · subst h1
      rw [if_pos rfl]
      exact wfFrom_cons h hw.2
    · rw [if_neg h1]
      by_cases h2 : x < a
      · rw [if_pos h2]
        refine wfFrom_cons h ?_
        simp only [Mem.wfFrom, Bool.and_eq_true, decide_eq_true_eq]
        exact ⟨⟨by omega, hw.1.2⟩, hw.2⟩
      · rw [if_neg h2]
        simp only [Mem.wfFrom, Bool.and_eq_true, decide_eq_true_eq]
        exact ⟨hw.1, ih (by omega) hw.2⟩

/-- A write keeps the canonical form. -/
theorem wf_write {m : Mem} (x : Nat) (v : Byte) (hw : Mem.wf m = true) : Mem.wf (m.write x v) = true :=
  wfFrom_write (Nat.zero_le x) hw

/-- A write of several bytes keeps the canonical form. -/
theorem wf_writeN {m : Mem} (x : Nat) (bs : List Byte) (hw : Mem.wf m = true) : Mem.wf (m.writeN x bs) = true := by
  induction bs generalizing m x with
  | nil => exact hw
  | cons b r ih => exact ih _ (wf_write x b hw)

/-- A store keeps the canonical form. -/
theorem wf_store {m : Mem} (x n v : Nat) (hw : Mem.wf m = true) : Mem.wf (m.store x n v) = true := wf_writeN _ _ hw

/-- The memory after reset has the canonical form. -/
theorem wf_reset : Mem.wf State.reset.mem = true := rfl

theorem read_below {m : Mem} {lo x : Nat} (h : x < lo) (hw : Mem.wfFrom lo m = true) : Mem.read m x = Mem.blank := by
  cases m with
  | nil => rfl
  | cons c r =>
    obtain ⟨a, b⟩ := c
    simp only [Mem.wfFrom, Bool.and_eq_true, decide_eq_true_eq] at hw
    unfold Mem.read
    rw [if_neg (by omega), if_pos (by omega)]

theorem read_cons {m : Mem} {a : Nat} {b : Byte} (hw : Mem.wfFrom (a + 1) m = true) (x : Nat) :
    Mem.read (Mem.cons a b m) x = if x = a then b else Mem.read m x := by
  unfold Mem.cons
  split
  · rename_i hb
    by_cases h : x = a
    · subst h
      rw [if_pos rfl, hb]
      exact read_below (by omega) hw
    · rw [if_neg h]
  · by_cases h : x = a
    · subst h; simp [Mem.read]
    · rw [if_neg h]
      by_cases h2 : x < a
      · rw [read_below (lo := a + 1) (by omega) hw]
        simp [Mem.read, Ne.symm h, h2]
      · simp [Mem.read, Ne.symm h, h2]

theorem read_writeFrom {m : Mem} {lo x : Nat} (v : Byte) (hw : Mem.wfFrom lo m = true) (y : Nat) :
    Mem.read (m.write x v) y = if y = x then v else Mem.read m y := by
  induction m generalizing lo with
  | nil => exact read_cons rfl y
  | cons c r ih =>
    obtain ⟨a, b⟩ := c
    have hw' := hw
    simp only [Mem.wfFrom, Bool.and_eq_true, decide_eq_true_eq] at hw
    unfold Mem.write
    by_cases h1 : a = x
    · subst h1
      rw [if_pos rfl, read_cons hw.2]
      by_cases h : y = a
      · rw [if_pos h, if_pos h]
      · rw [if_neg h, if_neg h]
        by_cases h2 : y < a
        · rw [read_below (lo := a + 1) (by omega) hw.2]
          simp [Mem.read, Ne.symm h, h2]
        · simp [Mem.read, Ne.symm h, h2]
    · rw [if_neg h1]
      by_cases h2 : x < a
      · rw [if_pos h2]
        refine read_cons ?_ y
        simp only [Mem.wfFrom, Bool.and_eq_true, decide_eq_true_eq]
        exact ⟨⟨by omega, hw.1.2⟩, hw.2⟩
      · rw [if_neg h2]
        unfold Mem.read
        by_cases h3 : a = y
        · subst h3
          simp [h1]
        · simp only [h3, if_false]
          by_cases h4 : y < a
          · simp only [h4, if_true]
            rw [if_neg (by omega)]
          · simp only [h4, if_false]
            exact ih hw.2

/-- A read after a write: the byte written, or the byte as it was. -/
theorem read_write {m : Mem} (x : Nat) (v : Byte) (hw : Mem.wf m = true) (y : Nat) :
    (m.write x v).read y = if y = x then v else m.read y := read_writeFrom v hw y

/-- A read after a write of several bytes. -/
theorem read_writeN {m : Mem} (x : Nat) (bs : List Byte) (hw : Mem.wf m = true) (y : Nat) :
    (m.writeN x bs).read y = if x ≤ y ∧ y < x + bs.length then bs.getD (y - x) 0#8 else m.read y := by
  induction bs generalizing m x with
  | nil =>
    have : ¬ (x ≤ y ∧ y < x + ([] : List Byte).length) := by simp
    rw [if_neg this]; rfl
  | cons b r ih =>
    change Mem.read (Mem.writeN (m.write x b) (x + 1) r) y = _
    rw [ih (x + 1) (wf_write x b hw), read_write x b hw]
    simp only [List.length_cons]
    by_cases h : x + 1 ≤ y ∧ y < x + 1 + r.length
    · rw [if_pos h, if_pos (by omega)]
      have : y - x = (y - (x + 1)) + 1 := by omega
      rw [this, List.getD_cons_succ]
    · rw [if_neg h]
      by_cases h2 : y = x
      · subst h2
        rw [if_pos rfl, if_pos (by omega)]
        simp
      · rw [if_neg h2, if_neg (by omega)]

end Sys2Proof.Laws
end

