-- ==== Sys2Proof/Laws/PerInstr.lean ====
section
/-! SUPPORT. Per-instruction facts about the syntax: how many bytes an instruction's encoding has. -/

namespace Sys2Proof.Laws

open Sys2Proof

namespace Encoding

/-- The encoding of the instruction, if it has one, is four bytes (17 R301). -/
def Statement (i : Instr) : Prop := ∀ bs, encode i = some bs → bs.length = 4

theorem all (i : Instr) : Statement i := by
  intro bs h
  unfold encode at h
  cases he : encodeWord i with
  | none => simp [he] at h
  | some w => simp [he] at h; simp [← h]

theorem iadd32 (c : BitVec 2) (w : BitVec 2) (d : BitVec 6) (a : BitVec 6) (b : BitVec 6) : Statement (.iadd32 c w d a b) := all _
theorem isub32 (c : BitVec 2) (w : BitVec 2) (d : BitVec 6) (a : BitVec 6) (b : BitVec 6) : Statement (.isub32 c w d a b) := all _
theorem imul32 (c : BitVec 2) (w : BitVec 2) (d : BitVec 6) (a : BitVec 6) (b : BitVec 6) : Statement (.imul32 c w d a b) := all _
theorem imulhI32 (c : BitVec 2) (w : BitVec 2) (d : BitVec 6) (a : BitVec 6) (b : BitVec 6) : Statement (.imulhI32 c w d a b) := all _
theorem imulhN32 (c : BitVec 2) (w : BitVec 2) (d : BitVec 6) (a : BitVec 6) (b : BitVec 6) : Statement (.imulhN32 c w d a b) := all _
theorem imad32 (c : BitVec 2) (w : BitVec 2) (d : BitVec 6) (a : BitVec 6) (b : BitVec 6) : Statement (.imad32 c w d a b) := all _
theorem iminI32 (c : BitVec 2) (w : BitVec 2) (d : BitVec 6) (a : BitVec 6) (b : BitVec 6) : Statement (.iminI32 c w d a b) := all _
theorem iminN32 (c : BitVec 2) (w : BitVec 2) (d : BitVec 6) (a : BitVec 6) (b : BitVec 6) : Statement (.iminN32 c w d a b) := all _
theorem imaxI32 (c : BitVec 2) (w : BitVec 2) (d : BitVec 6) (a : BitVec 6) (b : BitVec 6) : Statement (.imaxI32 c w d a b) := all _
theorem imaxN32 (c : BitVec 2) (w : BitVec 2) (d : BitVec 6) (a : BitVec 6) (b : BitVec 6) : Statement (.imaxN32 c w d a b) := all _
theorem iabs32 (c : BitVec 2) (w : BitVec 2) (d : BitVec 6) (a : BitVec 6) : Statement (.iabs32 c w d a) := all _
theorem iaddsI32 (c : BitVec 2) (w : BitVec 2) (d : BitVec 6) (a : BitVec 6) (b : BitVec 6) : Statement (.iaddsI32 c w d a b) := all _
theorem iaddsN32 (c : BitVec 2) (w : BitVec 2) (d : BitVec 6) (a : BitVec 6) (b : BitVec 6) : Statement (.iaddsN32 c w d a b) := all _
theorem isubsI32 (c : BitVec 2) (w : BitVec 2) (d : BitVec 6) (a : BitVec 6) (b : BitVec 6) : Statement (.isubsI32 c w d a b) := all _
theorem isubsN32 (c : BitVec 2) (w : BitVec 2) (d : BitVec 6) (a : BitVec 6) (b : BitVec 6) : Statement (.isubsN32 c w d a b) := all _
theorem iadd64 (c : BitVec 2) (d : BitVec 6) (a : BitVec 6) (b : BitVec 6) : Statement (.iadd64 c d a b) := all _
theorem isub64 (c : BitVec 2) (d : BitVec 6) (a : BitVec 6) (b : BitVec 6) : Statement (.isub64 c d a b) := all _
theorem imul64 (c : BitVec 2) (d : BitVec 6) (a : BitVec 6) (b : BitVec 6) : Statement (.imul64 c d a b) := all _
theorem imulhI64 (c : BitVec 2) (d : BitVec 6) (a : BitVec 6) (b : BitVec 6) : Statement (.imulhI64 c d a b) := all _
theorem imulhN64 (c : BitVec 2) (d : BitVec 6) (a : BitVec 6) (b : BitVec 6) : Statement (.imulhN64 c d a b) := all _
theorem imad64 (c : BitVec 2) (d : BitVec 6) (a : BitVec 6) (b : BitVec 6) : Statement (.imad64 c d a b) := all _
theorem iminI64 (c : BitVec 2) (d : BitVec 6) (a : BitVec 6) (b : BitVec 6) : Statement (.iminI64 c d a b) := all _
theorem iminN64 (c : BitVec 2) (d : BitVec 6) (a : BitVec 6) (b : BitVec 6) : Statement (.iminN64 c d a b) := all _
theorem imaxI64 (c : BitVec 2) (d : BitVec 6) (a : BitVec 6) (b : BitVec 6) : Statement (.imaxI64 c d a b) := all _
theorem imaxN64 (c : BitVec 2) (d : BitVec 6) (a : BitVec 6) (b : BitVec 6) : Statement (.imaxN64 c d a b) := all _
theorem iabs64 (c : BitVec 2) (d : BitVec 6) (a : BitVec 6) : Statement (.iabs64 c d a) := all _
theorem iaddsI64 (c : BitVec 2) (d : BitVec 6) (a : BitVec 6) (b : BitVec 6) : Statement (.iaddsI64 c d a b) := all _
theorem iaddsN64 (c : BitVec 2) (d : BitVec 6) (a : BitVec 6) (b : BitVec 6) : Statement (.iaddsN64 c d a b) := all _
theorem isubsI64 (c : BitVec 2) (d : BitVec 6) (a : BitVec 6) (b : BitVec 6) : Statement (.isubsI64 c d a b) := all _
theorem isubsN64 (c : BitVec 2) (d : BitVec 6) (a : BitVec 6) (b : BitVec 6) : Statement (.isubsN64 c d a b) := all _
theorem and (c : BitVec 2) (w : BitVec 2) (d : BitVec 6) (a : BitVec 6) (b : BitVec 6) : Statement (.and c w d a b) := all _
theorem or (c : BitVec 2) (w : BitVec 2) (d : BitVec 6) (a : BitVec 6) (b : BitVec 6) : Statement (.or c w d a b) := all _
theorem xor (c : BitVec 2) (w : BitVec 2) (d : BitVec 6) (a : BitVec 6) (b : BitVec 6) : Statement (.xor c w d a b) := all _
theorem andn (c : BitVec 2) (w : BitVec 2) (d : BitVec 6) (a : BitVec 6) (b : BitVec 6) : Statement (.andn c w d a b) := all _
theorem shl (c : BitVec 2) (d : BitVec 6) (a : BitVec 6) (b : BitVec 6) : Statement (.shl c d a b) := all _
theorem shrN (c : BitVec 2) (d : BitVec 6) (a : BitVec 6) (b : BitVec 6) : Statement (.shrN c d a b) := all _
theorem shrI (c : BitVec 2) (d : BitVec 6) (a : BitVec 6) (b : BitVec 6) : Statement (.shrI c d a b) := all _
theorem rot (c : BitVec 2) (d : BitVec 6) (a : BitVec 6) (b : BitVec 6) : Statement (.rot c d a b) := all _
theorem popc (c : BitVec 2) (d : BitVec 6) (a : BitVec 6) : Statement (.popc c d a) := all _
theorem clz (c : BitVec 2) (d : BitVec 6) (a : BitVec 6) : Statement (.clz c d a) := all _
theorem brev (c : BitVec 2) (d : BitVec 6) (a : BitVec 6) : Statement (.brev c d a) := all _
theorem bfxN (c : BitVec 2) (d : BitVec 6) (a : BitVec 6) (b : BitVec 6) : Statement (.bfxN c d a b) := all _
theorem bfxI (c : BitVec 2) (d : BitVec 6) (a : BitVec 6) (b : BitVec 6) : Statement (.bfxI c d a b) := all _
theorem bfi (c : BitVec 2) (d : BitVec 6) (a : BitVec 6) (b : BitVec 6) : Statement (.bfi c d a b) := all _
theorem vsel (c : BitVec 2) (w : BitVec 2) (d : BitVec 6) (a : BitVec 6) (b : BitVec 6) : Statement (.vsel c w d a b) := all _
theorem iaddi (c : BitVec 2) (w : BitVec 2) (d : BitVec 6) (i : BitVec 12) : Statement (.iaddi c w d i) := all _
theorem andi (c : BitVec 2) (w : BitVec 2) (d : BitVec 6) (i : BitVec 12) : Statement (.andi c w d i) := all _
theorem ori (c : BitVec 2) (w : BitVec 2) (d : BitVec 6) (i : BitVec 12) : Statement (.ori c w d i) := all _
theorem xori (c : BitVec 2) (w : BitVec 2) (d : BitVec 6) (i : BitVec 12) : Statement (.xori c w d i) := all _
theorem shli (c : BitVec 2) (w : BitVec 2) (d : BitVec 6) (i : BitVec 12) : Statement (.shli c w d i) := all _
theorem shriN (c : BitVec 2) (w : BitVec 2) (d : BitVec 6) (i : BitVec 12) : Statement (.shriN c w d i) := all _
theorem shriI (c : BitVec 2) (w : BitVec 2) (d : BitVec 6) (i : BitVec 12) : Statement (.shriI c w d i) := all _
theorem vmovi (c : BitVec 2) (w : BitVec 2) (d : BitVec 6) (i : BitVec 12) : Statement (.vmovi c w d i) := all _
theorem imuli (c : BitVec 2) (w : BitVec 2) (d : BitVec 6) (i : BitVec 12) : Statement (.imuli c w d i) := all _
theorem faddF32 (c : BitVec 2) (w : BitVec 2) (d : BitVec 6) (a : BitVec 6) (b : BitVec 6) : Statement (.faddF32 c w d a b) := all _
theorem fsubF32 (c : BitVec 2) (w : BitVec 2) (d : BitVec 6) (a : BitVec 6) (b : BitVec 6) : Statement (.fsubF32 c w d a b) := all _
theorem fmulF32 (c : BitVec 2) (w : BitVec 2) (d : BitVec 6) (a : BitVec 6) (b : BitVec 6) : Statement (.fmulF32 c w d a b) := all _
theorem ffmaF32 (c : BitVec 2) (w : BitVec 2) (d : BitVec 6) (a : BitVec 6) (b : BitVec 6) : Statement (.ffmaF32 c w d a b) := all _
theorem fminF32 (c : BitVec 2) (w : BitVec 2) (d : BitVec 6) (a : BitVec 6) (b : BitVec 6) : Statement (.fminF32 c w d a b) := all _
theorem fmaxF32 (c : BitVec 2) (w : BitVec 2) (d : BitVec 6) (a : BitVec 6) (b : BitVec 6) : Statement (.fmaxF32 c w d a b) := all _
theorem fabsF32 (c : BitVec 2) (w : BitVec 2) (d : BitVec 6) (a : BitVec 6) : Statement (.fabsF32 c w d a) := all _
theorem fnegF32 (c : BitVec 2) (w : BitVec 2) (d : BitVec 6) (a : BitVec 6) : Statement (.fnegF32 c w d a) := all _
theorem fscaleF32 (c : BitVec 2) (w : BitVec 2) (d : BitVec 6) (a : BitVec 6) (b : BitVec 6) : Statement (.fscaleF32 c w d a b) := all _
theorem fdivF32 (c : BitVec 2) (w : BitVec 2) (d : BitVec 6) (a : BitVec 6) (b : BitVec 6) : Statement (.fdivF32 c w d a b) := all _
theorem fclassF32 (c : BitVec 2) (w : BitVec 2) (d : BitVec 6) (a : BitVec 6) : Statement (.fclassF32 c w d a) := all _
theorem frndF32 (c : BitVec 2) (w : BitVec 2) (d : BitVec 6) (a : BitVec 6) : Statement (.frndF32 c w d a) := all _
theorem faddF64 (c : BitVec 2) (d : BitVec 6) (a : BitVec 6) (b : BitVec 6) : Statement (.faddF64 c d a b) := all _
theorem fsubF64 (c : BitVec 2) (d : BitVec 6) (a : BitVec 6) (b : BitVec 6) : Statement (.fsubF64 c d a b) := all _
theorem fmulF64 (c : BitVec 2) (d : BitVec 6) (a : BitVec 6) (b : BitVec 6) : Statement (.fmulF64 c d a b) := all _
theorem ffmaF64 (c : BitVec 2) (d : BitVec 6) (a : BitVec 6) (b : BitVec 6) : Statement (.ffmaF64 c d a b) := all _
theorem fminF64 (c : BitVec 2) (d : BitVec 6) (a : BitVec 6) (b : BitVec 6) : Statement (.fminF64 c d a b) := all _
theorem fmaxF64 (c : BitVec 2) (d : BitVec 6) (a : BitVec 6) (b : BitVec 6) : Statement (.fmaxF64 c d a b) := all _
theorem fabsF64 (c : BitVec 2) (d : BitVec 6) (a : BitVec 6) : Statement (.fabsF64 c d a) := all _
theorem fnegF64 (c : BitVec 2) (d : BitVec 6) (a : BitVec 6) : Statement (.fnegF64 c d a) := all _
theorem fscaleF64 (c : BitVec 2) (d : BitVec 6) (a : BitVec 6) (b : BitVec 6) : Statement (.fscaleF64 c d a b) := all _
theorem fdivF64 (c : BitVec 2) (d : BitVec 6) (a : BitVec 6) (b : BitVec 6) : Statement (.fdivF64 c d a b) := all _
theorem fclassF64 (c : BitVec 2) (d : BitVec 6) (a : BitVec 6) : Statement (.fclassF64 c d a) := all _
theorem frndF64 (c : BitVec 2) (d : BitVec 6) (a : BitVec 6) : Statement (.frndF64 c d a) := all _
theorem faddF16x2 (c : BitVec 2) (w : BitVec 2) (d : BitVec 6) (a : BitVec 6) (b : BitVec 6) : Statement (.faddF16x2 c w d a b) := all _
theorem fsubF16x2 (c : BitVec 2) (w : BitVec 2) (d : BitVec 6) (a : BitVec 6) (b : BitVec 6) : Statement (.fsubF16x2 c w d a b) := all _
theorem fmulF16x2 (c : BitVec 2) (w : BitVec 2) (d : BitVec 6) (a : BitVec 6) (b : BitVec 6) : Statement (.fmulF16x2 c w d a b) := all _
theorem ffmaF16x2 (c : BitVec 2) (w : BitVec 2) (d : BitVec 6) (a : BitVec 6) (b : BitVec 6) : Statement (.ffmaF16x2 c w d a b) := all _
theorem fminF16x2 (c : BitVec 2) (w : BitVec 2) (d : BitVec 6) (a : BitVec 6) (b : BitVec 6) : Statement (.fminF16x2 c w d a b) := all _
theorem fmaxF16x2 (c : BitVec 2) (w : BitVec 2) (d : BitVec 6) (a : BitVec 6) (b : BitVec 6) : Statement (.fmaxF16x2 c w d a b) := all _
theorem fabsF16x2 (c : BitVec 2) (w : BitVec 2) (d : BitVec 6) (a : BitVec 6) : Statement (.fabsF16x2 c w d a) := all _
theorem fnegF16x2 (c : BitVec 2) (w : BitVec 2) (d : BitVec 6) (a : BitVec 6) : Statement (.fnegF16x2 c w d a) := all _
theorem faddBf16x2 (c : BitVec 2) (w : BitVec 2) (d : BitVec 6) (a : BitVec 6) (b : BitVec 6) : Statement (.faddBf16x2 c w d a b) := all _
theorem fsubBf16x2 (c : BitVec 2) (w : BitVec 2) (d : BitVec 6) (a : BitVec 6) (b : BitVec 6) : Statement (.fsubBf16x2 c w d a b) := all _
theorem fmulBf16x2 (c : BitVec 2) (w : BitVec 2) (d : BitVec 6) (a : BitVec 6) (b : BitVec 6) : Statement (.fmulBf16x2 c w d a b) := all _
theorem ffmaBf16x2 (c : BitVec 2) (w : BitVec 2) (d : BitVec 6) (a : BitVec 6) (b : BitVec 6) : Statement (.ffmaBf16x2 c w d a b) := all _
theorem fminBf16x2 (c : BitVec 2) (w : BitVec 2) (d : BitVec 6) (a : BitVec 6) (b : BitVec 6) : Statement (.fminBf16x2 c w d a b) := all _
theorem fmaxBf16x2 (c : BitVec 2) (w : BitVec 2) (d : BitVec 6) (a : BitVec 6) (b : BitVec 6) : Statement (.fmaxBf16x2 c w d a b) := all _
theorem fabsBf16x2 (c : BitVec 2) (w : BitVec 2) (d : BitVec 6) (a : BitVec 6) : Statement (.fabsBf16x2 c w d a) := all _
theorem fnegBf16x2 (c : BitVec 2) (w : BitVec 2) (d : BitVec 6) (a : BitVec 6) : Statement (.fnegBf16x2 c w d a) := all _
theorem frcp (c : BitVec 2) (w : BitVec 2) (d : BitVec 6) (a : BitVec 6) : Statement (.frcp c w d a) := all _
theorem frsq (c : BitVec 2) (w : BitVec 2) (d : BitVec 6) (a : BitVec 6) : Statement (.frsq c w d a) := all _
theorem fsqrt (c : BitVec 2) (w : BitVec 2) (d : BitVec 6) (a : BitVec 6) : Statement (.fsqrt c w d a) := all _
theorem fexp2 (c : BitVec 2) (w : BitVec 2) (d : BitVec 6) (a : BitVec 6) : Statement (.fexp2 c w d a) := all _
theorem flog2 (c : BitVec 2) (w : BitVec 2) (d : BitVec 6) (a : BitVec 6) : Statement (.flog2 c w d a) := all _
theorem fsin (c : BitVec 2) (w : BitVec 2) (d : BitVec 6) (a : BitVec 6) : Statement (.fsin c w d a) := all _
theorem fcos (c : BitVec 2) (w : BitVec 2) (d : BitVec 6) (a : BitVec 6) : Statement (.fcos c w d a) := all _
theorem ftanh (c : BitVec 2) (w : BitVec 2) (d : BitVec 6) (a : BitVec 6) : Statement (.ftanh c w d a) := all _
theorem fsigm (c : BitVec 2) (w : BitVec 2) (d : BitVec 6) (a : BitVec 6) : Statement (.fsigm c w d a) := all _
theorem icmp (c : BitVec 2) (w : BitVec 2) (k : BitVec 4) (s : BitVec 6) (a : BitVec 6) (b : BitVec 6) : Statement (.icmp c w k s a b) := all _
theorem fcmpF32 (c : BitVec 2) (k : BitVec 4) (s : BitVec 6) (a : BitVec 6) (b : BitVec 6) : Statement (.fcmpF32 c k s a b) := all _
theorem fcmpF64 (c : BitVec 2) (k : BitVec 4) (s : BitVec 6) (a : BitVec 6) (b : BitVec 6) : Statement (.fcmpF64 c k s a b) := all _
theorem fcvt (c : BitVec 2) (n : BitVec 2) (m : BitVec 2) (g : BitVec 1) (e : BitVec 1) (d : BitVec 6) (a : BitVec 6) (x : BitVec 3) (y : BitVec 3) : Statement (.fcvt c n m g e d a x y) := all _
theorem vpackB (c : BitVec 2) (d : BitVec 6) (a : BitVec 6) (b : BitVec 6) : Statement (.vpackB c d a b) := all _
theorem vpackH (c : BitVec 2) (d : BitVec 6) (a : BitVec 6) (b : BitVec 6) : Statement (.vpackH c d a b) := all _
theorem vunpkB (c : BitVec 2) (d : BitVec 6) (a : BitVec 6) (b : BitVec 6) : Statement (.vunpkB c d a b) := all _
theorem vunpkH (c : BitVec 2) (d : BitVec 6) (a : BitVec 6) (b : BitVec 6) : Statement (.vunpkH c d a b) := all _
theorem vmov (c : BitVec 2) (w : BitVec 2) (d : BitVec 6) (a : BitVec 6) : Statement (.vmov c w d a) := all _
theorem vmovs (c : BitVec 2) (d : BitVec 6) (a : BitVec 6) : Statement (.vmovs c d a) := all _
theorem vget (c : BitVec 2) (d : BitVec 6) (a : BitVec 6) (b : BitVec 6) : Statement (.vget c d a b) := all _
theorem vsetl (c : BitVec 2) (d : BitVec 6) (a : BitVec 6) (b : BitVec 6) : Statement (.vsetl c d a b) := all _
theorem mfsVector (c : BitVec 2) (d : BitVec 6) (a : BitVec 6) : Statement (.mfsVector c d a) := all _
theorem xset (c : BitVec 2) (d : BitVec 6) (a : BitVec 6) : Statement (.xset c d a) := all _
theorem xidx (c : BitVec 2) (d : BitVec 6) (a : BitVec 6) : Statement (.xidx c d a) := all _
theorem xadd (c : BitVec 2) (d : BitVec 6) (a : BitVec 6) : Statement (.xadd c d a) := all _
theorem xget (c : BitVec 2) (d : BitVec 6) (a : BitVec 6) : Statement (.xget c d a) := all _
theorem trd (c : BitVec 2) (r : BitVec 1) (t : BitVec 3) (v : BitVec 6) (s : BitVec 6) (i : BitVec 4) : Statement (.trd c r t v s i) := all _
theorem twr (c : BitVec 2) (r : BitVec 1) (t : BitVec 3) (v : BitVec 6) (s : BitVec 6) (i : BitVec 4) : Statement (.twr c r t v s i) := all _
theorem tacc (c : BitVec 2) (r : BitVec 1) (t : BitVec 3) (v : BitVec 6) (s : BitVec 6) (i : BitVec 4) : Statement (.tacc c r t v s i) := all _
theorem tzero (c : BitVec 2) (r : BitVec 1) (t : BitVec 3) (s : BitVec 6) (i : BitVec 4) : Statement (.tzero c r t s i) := all _
theorem shfl (c : BitVec 2) (w : BitVec 2) (d : BitVec 6) (a : BitVec 6) (b : BitVec 6) : Statement (.shfl c w d a b) := all _
theorem shflx (c : BitVec 2) (w : BitVec 2) (d : BitVec 6) (a : BitVec 6) (b : BitVec 6) : Statement (.shflx c w d a b) := all _
theorem bcast (c : BitVec 2) (w : BitVec 2) (d : BitVec 6) (a : BitVec 6) (b : BitVec 6) : Statement (.bcast c w d a b) := all _
theorem qxch (c : BitVec 2) (w : BitVec 2) (d : BitVec 6) (a : BitVec 6) (b : BitVec 6) : Statement (.qxch c w d a b) := all _
theorem scan (c : BitVec 2) (w : BitVec 2) (d : BitVec 6) (a : BitVec 6) (b : BitVec 6) : Statement (.scan c w d a b) := all _
theorem reduce (c : BitVec 2) (w : BitVec 2) (d : BitVec 6) (a : BitVec 6) (b : BitVec 6) : Statement (.reduce c w d a b) := all _
theorem vote (c : BitVec 2) (d : BitVec 6) (a : BitVec 6) (b : BitVec 6) : Statement (.vote c d a b) := all _
theorem xshuf (l : BitVec 4) (w : BitVec 2) (d : BitVec 6) (a : BitVec 6) (s : BitVec 6) : Statement (.xshuf l w d a s) := all _
theorem sadd (c : BitVec 2) (d : BitVec 6) (a : BitVec 6) (b : BitVec 6) : Statement (.sadd c d a b) := all _
theorem ssub (c : BitVec 2) (d : BitVec 6) (a : BitVec 6) (b : BitVec 6) : Statement (.ssub c d a b) := all _
theorem smul (c : BitVec 2) (d : BitVec 6) (a : BitVec 6) (b : BitVec 6) : Statement (.smul c d a b) := all _
theorem sand (c : BitVec 2) (d : BitVec 6) (a : BitVec 6) (b : BitVec 6) : Statement (.sand c d a b) := all _
theorem sor (c : BitVec 2) (d : BitVec 6) (a : BitVec 6) (b : BitVec 6) : Statement (.sor c d a b) := all _
theorem sxor (c : BitVec 2) (d : BitVec 6) (a : BitVec 6) (b : BitVec 6) : Statement (.sxor c d a b) := all _
theorem sandn (c : BitVec 2) (d : BitVec 6) (a : BitVec 6) (b : BitVec 6) : Statement (.sandn c d a b) := all _
theorem sshl (c : BitVec 2) (d : BitVec 6) (a : BitVec 6) (b : BitVec 6) : Statement (.sshl c d a b) := all _
theorem sshrN (c : BitVec 2) (d : BitVec 6) (a : BitVec 6) (b : BitVec 6) : Statement (.sshrN c d a b) := all _
theorem sshrI (c : BitVec 2) (d : BitVec 6) (a : BitVec 6) (b : BitVec 6) : Statement (.sshrI c d a b) := all _
theorem sminI (c : BitVec 2) (d : BitVec 6) (a : BitVec 6) (b : BitVec 6) : Statement (.sminI c d a b) := all _
theorem sminN (c : BitVec 2) (d : BitVec 6) (a : BitVec 6) (b : BitVec 6) : Statement (.sminN c d a b) := all _
theorem smaxI (c : BitVec 2) (d : BitVec 6) (a : BitVec 6) (b : BitVec 6) : Statement (.smaxI c d a b) := all _
theorem smaxN (c : BitVec 2) (d : BitVec 6) (a : BitVec 6) (b : BitVec 6) : Statement (.smaxN c d a b) := all _
theorem spopc (c : BitVec 2) (d : BitVec 6) (a : BitVec 6) : Statement (.spopc c d a) := all _
theorem sffs (c : BitVec 2) (d : BitVec 6) (a : BitVec 6) : Statement (.sffs c d a) := all _
theorem saddi (c : BitVec 2) (d : BitVec 6) (i : BitVec 12) : Statement (.saddi c d i) := all _
theorem sandi (c : BitVec 2) (d : BitVec 6) (i : BitVec 12) : Statement (.sandi c d i) := all _
theorem sori (c : BitVec 2) (d : BitVec 6) (i : BitVec 12) : Statement (.sori c d i) := all _
theorem sxori (c : BitVec 2) (d : BitVec 6) (i : BitVec 12) : Statement (.sxori c d i) := all _
theorem sshli (c : BitVec 2) (d : BitVec 6) (i : BitVec 12) : Statement (.sshli c d i) := all _
theorem sshriN (c : BitVec 2) (d : BitVec 6) (i : BitVec 12) : Statement (.sshriN c d i) := all _
theorem sshriI (c : BitVec 2) (d : BitVec 6) (i : BitVec 12) : Statement (.sshriI c d i) := all _
theorem smovi (c : BitVec 2) (d : BitVec 6) (i : BitVec 12) : Statement (.smovi c d i) := all _
theorem smuli (c : BitVec 2) (d : BitVec 6) (i : BitVec 12) : Statement (.smuli c d i) := all _
theorem scmp (c : BitVec 2) (k : BitVec 4) (s : BitVec 6) (a : BitVec 6) (b : BitVec 6) : Statement (.scmp c k s a b) := all _
theorem smov (c : BitVec 2) (d : BitVec 6) (a : BitVec 6) : Statement (.smov c d a) := all _
theorem ssel (c : BitVec 2) (d : BitVec 6) (a : BitVec 6) (b : BitVec 6) : Statement (.ssel c d a b) := all _
theorem mfsScalar (c : BitVec 2) (d : BitVec 6) (a : BitVec 6) : Statement (.mfsScalar c d a) := all _
theorem mts (c : BitVec 2) (d : BitVec 6) (a : BitVec 6) : Statement (.mts c d a) := all _
theorem bra (c : BitVec 2) (o : BitVec 14) : Statement (.bra c o) := all _
theorem brz (c : BitVec 2) (s : BitVec 6) (o : BitVec 14) : Statement (.brz c s o) := all _
theorem brnz (c : BitVec 2) (s : BitVec 6) (o : BitVec 14) : Statement (.brnz c s o) := all _
theorem brx (s : BitVec 6) (o : BitVec 14) : Statement (.brx s o) := all _
theorem call (c : BitVec 2) (s : BitVec 6) (o : BitVec 14) : Statement (.call c s o) := all _
theorem ret (c : BitVec 2) (s : BitVec 6) : Statement (.ret c s) := all _
theorem join (s : BitVec 6) : Statement (.join s) := all _
theorem exit (c : BitVec 2) : Statement (.exit c) := all _
theorem exitl (s : BitVec 6) : Statement (.exitl s) := all _
theorem refill (s : BitVec 6) : Statement (.refill s) := all _
theorem refillWarp (s : BitVec 6) : Statement (.refillWarp s) := all _
theorem refillBlock (s : BitVec 6) : Statement (.refillBlock s) := all _
theorem yield (c : BitVec 2) : Statement (.yield c) := all _
theorem bar (v : BitVec 1) : Statement (.bar v) := all _
theorem bara (v : BitVec 1) : Statement (.bara v) := all _
theorem barw (v : BitVec 1) : Statement (.barw v) := all _
theorem setdef (s : BitVec 6) (n : BitVec 3) : Statement (.setdef s n) := all _
theorem nop (c : BitVec 2) : Statement (.nop c) := all _
theorem bpt : Statement (.bpt) := all _
theorem trap (c : BitVec 2) (n : BitVec 4) : Statement (.trap c n) := all _
theorem grow (c : BitVec 2) (s : BitVec 6) : Statement (.grow c s) := all _
theorem region (g : BitVec 14) : Statement (.region g) := all _
theorem ld (c : BitVec 2) (l : BitVec 4) (w : BitVec 2) (p : BitVec 2) (d : BitVec 6) (a : BitVec 6) (s : BitVec 4) : Statement (.ld c l w p d a s) := all _
theorem st (c : BitVec 2) (w : BitVec 2) (p : BitVec 2) (d : BitVec 6) (a : BitVec 6) (s : BitVec 4) : Statement (.st c w p d a s) := all _
theorem lds (c : BitVec 2) (l : BitVec 4) (w : BitVec 2) (p : BitVec 2) (d : BitVec 6) (a : BitVec 6) (s : BitVec 4) : Statement (.lds c l w p d a s) := all _
theorem sts (c : BitVec 2) (w : BitVec 2) (p : BitVec 2) (d : BitVec 6) (a : BitVec 6) (s : BitVec 4) : Statement (.sts c w p d a s) := all _
theorem atom (c : BitVec 2) (l : BitVec 4) (u : BitVec 4) (d : BitVec 6) (a : BitVec 6) (s : BitVec 4) : Statement (.atom c l u d a s) := all _
theorem atoml (c : BitVec 2) (l : BitVec 4) (u : BitVec 4) (d : BitVec 6) (a : BitVec 6) (s : BitVec 4) : Statement (.atoml c l u d a s) := all _
theorem fence (c : BitVec 2) : Statement (.fence c) := all _
theorem pref (c : BitVec 2) (a : BitVec 6) : Statement (.pref c a) := all _
theorem disc (c : BitVec 2) (a : BitVec 6) (b : BitVec 6) : Statement (.disc c a b) := all _
theorem cflush (c : BitVec 2) (a : BitVec 6) (b : BitVec 6) : Statement (.cflush c a b) := all _
theorem qopen (c : BitVec 2) (q : BitVec 3) (a : BitVec 6) : Statement (.qopen c q a) := all _
theorem qrsv (c : BitVec 2) (l : BitVec 4) (q : BitVec 3) (d : BitVec 6) : Statement (.qrsv c l q d) := all _
theorem qcmt (c : BitVec 2) (q : BitVec 3) (d : BitVec 6) (a : BitVec 6) : Statement (.qcmt c q d a) := all _
theorem qpop (c : BitVec 2) (l : BitVec 4) (q : BitVec 3) (d : BitVec 6) : Statement (.qpop c l q d) := all _
theorem qrel (c : BitVec 2) (q : BitVec 3) (a : BitVec 6) : Statement (.qrel c q a) := all _
theorem qstat (c : BitVec 2) (l : BitVec 4) (q : BitVec 3) (d : BitVec 6) : Statement (.qstat c l q d) := all _
theorem qstamp (c : BitVec 2) (l : BitVec 4) (q : BitVec 3) (d : BitVec 6) (a : BitVec 6) : Statement (.qstamp c l q d a) := all _
theorem qclose (c : BitVec 2) (q : BitVec 3) : Statement (.qclose c q) := all _
theorem cpy (c : BitVec 2) (h : BitVec 4) (a : BitVec 6) : Statement (.cpy c h a) := all _
theorem xfer (c : BitVec 2) (h : BitVec 4) (a : BitVec 6) : Statement (.xfer c h a) := all _
theorem gath (c : BitVec 2) (h : BitVec 4) (a : BitVec 6) : Statement (.gath c h a) := all _
theorem mmk (c : BitVec 2) (h : BitVec 4) (a : BitVec 6) (b : BitVec 6) : Statement (.mmk c h a b) := all _
theorem mmj (c : BitVec 2) (h : BitVec 4) (a : BitVec 6) : Statement (.mmj c h a) := all _
theorem htest (c : BitVec 2) (l : BitVec 4) (h : BitVec 4) (a : BitVec 6) (b : BitVec 6) : Statement (.htest c l h a b) := all _
theorem hcancel (c : BitVec 2) (h : BitVec 4) : Statement (.hcancel c h) := all _
theorem hmovs (c : BitVec 2) (l : BitVec 4) (h : BitVec 4) (a : BitVec 6) : Statement (.hmovs c l h a) := all _
theorem smovh (c : BitVec 2) (h : BitVec 4) (a : BitVec 6) : Statement (.smovh c h a) := all _
theorem batch (c : BitVec 2) (l : BitVec 4) (a : BitVec 6) : Statement (.batch c l a) := all _
theorem waitbBatch (c : BitVec 2) (a : BitVec 6) : Statement (.waitbBatch c a) := all _
theorem waitbHandle (c : BitVec 2) (h : BitVec 4) (b : BitVec 6) : Statement (.waitbHandle c h b) := all _
theorem npost (c : BitVec 2) (a : BitVec 6) (b : BitVec 6) : Statement (.npost c a b) := all _
theorem nsend (c : BitVec 2) (a : BitVec 6) : Statement (.nsend c a) := all _
theorem tcadd (c : BitVec 2) (a : BitVec 6) (b : BitVec 6) : Statement (.tcadd c a b) := all _
theorem tcrd (c : BitVec 2) (l : BitVec 4) (a : BitVec 6) (b : BitVec 6) : Statement (.tcrd c l a b) := all _
theorem tcarm (c : BitVec 2) (a : BitVec 6) (b : BitVec 6) : Statement (.tcarm c a b) := all _
theorem tcset (c : BitVec 2) (a : BitVec 6) (b : BitVec 6) : Statement (.tcset c a b) := all _
theorem rft : Statement (.rft) := all _
theorem csave (h : BitVec 4) (a : BitVec 6) (b : BitVec 6) : Statement (.csave h a b) := all _
theorem crest (h : BitVec 4) (a : BitVec 6) (b : BitVec 6) : Statement (.crest h a b) := all _
theorem tlbi (a : BitVec 6) (b : BitVec 6) : Statement (.tlbi a b) := all _
theorem harv (a : BitVec 6) : Statement (.harv a) := all _
theorem haltc (h : BitVec 4) (a : BitVec 6) : Statement (.haltc h a) := all _
theorem hintImm (p : BitVec 22) : Statement (.hintImm p) := all _
theorem hintSched (n : BitVec 1) (m : BitVec 2) : Statement (.hintSched n m) := all _
theorem hintMemord (e : BitVec 2) (u : BitVec 1) (s : BitVec 3) (o : BitVec 2) : Statement (.hintMemord e u s o) := all _
theorem hintArith (g : BitVec 1) (f : BitVec 1) (u : BitVec 1) (t : BitVec 1) (e : BitVec 1) (m : BitVec 2) : Statement (.hintArith g f u t e m) := all _
theorem hintStamp (s : BitVec 6) : Statement (.hintStamp s) := all _
theorem hintTrace (p : BitVec 22) : Statement (.hintTrace p) := all _
theorem hintRemote (c : BitVec 10) : Statement (.hintRemote c) := all _
theorem powerOn (key : List (BitVec 8)) (images : List (List (BitVec 8))) (sigs : List (List (BitVec 8))) : Statement (.powerOn key images sigs) := all _
theorem attestationRequest (nonce : List (BitVec 8)) : Statement (.attestationRequest nonce) := all _
theorem sessionEncapsulation (ciphertext : List (BitVec 8)) : Statement (.sessionEncapsulation ciphertext) := all _
theorem sessionIdleTimeout : Statement (.sessionIdleTimeout) := all _
theorem commandDatagram (port : Nat) (bytes : List (BitVec 8)) : Statement (.commandDatagram port bytes) := all _
theorem powerControl (port : Nat) (bytes : List (BitVec 8)) : Statement (.powerControl port bytes) := all _
theorem packetFetch : Statement (.packetFetch) := all _
theorem packetStart (pkt : Nat) : Statement (.packetStart pkt) := all _
theorem launchGrid (pkt : Nat) : Statement (.launchGrid pkt) := all _
theorem launchAlmanac (pkt : Nat) : Statement (.launchAlmanac pkt) := all _
theorem writeMemory (pkt : Nat) : Statement (.writeMemory pkt) := all _
theorem readMemory (pkt : Nat) : Statement (.readMemory pkt) := all _
theorem fencePacket (pkt : Nat) : Statement (.fencePacket pkt) := all _
theorem signal (pkt : Nat) : Statement (.signal pkt) := all _
theorem drain (pkt : Nat) : Statement (.drain pkt) := all _
theorem resize (pkt : Nat) : Statement (.resize pkt) := all _
theorem createRing (pkt : Nat) : Statement (.createRing pkt) := all _
theorem destroyRing (pkt : Nat) : Statement (.destroyRing pkt) := all _
theorem restartRing (pkt : Nat) : Statement (.restartRing pkt) := all _
theorem queryRing (pkt : Nat) : Statement (.queryRing pkt) := all _
theorem registerHandle (pkt : Nat) : Statement (.registerHandle pkt) := all _
theorem unregisterHandle (pkt : Nat) : Statement (.unregisterHandle pkt) := all _
theorem suspendContext (pkt : Nat) : Statement (.suspendContext pkt) := all _
theorem resumeContext (pkt : Nat) : Statement (.resumeContext pkt) := all _
theorem setRendezvousTimeout (pkt : Nat) : Statement (.setRendezvousTimeout pkt) := all _
theorem cancel (pkt : Nat) : Statement (.cancel pkt) := all _
theorem packetComplete (pkt : Nat) : Statement (.packetComplete pkt) := all _
theorem fenceTimeout (pkt : Nat) : Statement (.fenceTimeout pkt) := all _
theorem blockPlacement (grid : Nat) : Statement (.blockPlacement grid) := all _
theorem gangPlacement (grid : Nat) : Statement (.gangPlacement grid) := all _
theorem prologueCopyComplete (core : Nat) (slot : Nat) : Statement (.prologueCopyComplete core slot) := all _
theorem warpStart (core : Nat) (slot : Nat) (warp : Nat) : Statement (.warpStart core slot warp) := all _
theorem blockRetire (core : Nat) (slot : Nat) : Statement (.blockRetire core slot) := all _
theorem stageRecordWrite (alm : Nat) : Statement (.stageRecordWrite alm) := all _
theorem refillWake (core : Nat) (slot : Nat) (warp : Nat) : Statement (.refillWake core slot warp) := all _
theorem refillReconverge (core : Nat) (slot : Nat) (warp : Nat) : Statement (.refillReconverge core slot warp) := all _
theorem warpSwap (core : Nat) (quarter : Nat) : Statement (.warpSwap core quarter) := all _
theorem restageDone (core : Nat) (slot : Nat) (warp : Nat) : Statement (.restageDone core slot warp) := all _
theorem leaveGrant (die : Nat) : Statement (.leaveGrant die) := all _
theorem leaveAgeing (die : Nat) : Statement (.leaveAgeing die) := all _
theorem rendezvousComplete (core : Nat) (slot : Nat) (inst : Nat) : Statement (.rendezvousComplete core slot inst) := all _
theorem rendezvousTimeout (core : Nat) (slot : Nat) (inst : Nat) : Statement (.rendezvousTimeout core slot inst) := all _
theorem joinComplete (core : Nat) (slot : Nat) (warp : Nat) : Statement (.joinComplete core slot warp) := all _
theorem joinTimeout (core : Nat) (slot : Nat) (warp : Nat) (split : Nat) : Statement (.joinTimeout core slot warp split) := all _
theorem gangPhaseComplete (grid : Nat) (gang : Nat) : Statement (.gangPhaseComplete grid gang) := all _
theorem grantRequest (core : Nat) (pipe : Nat) : Statement (.grantRequest core pipe) := all _
theorem grantBlockArrival (core : Nat) (pipe : Nat) : Statement (.grantBlockArrival core pipe) := all _
theorem grantReturnTimeout (core : Nat) (pipe : Nat) : Statement (.grantReturnTimeout core pipe) := all _
theorem freeReport (pipe : Nat) : Statement (.freeReport pipe) := all _
theorem freeReportFlush (core : Nat) (pipe : Nat) : Statement (.freeReportFlush core pipe) := all _
theorem commitAtHome (pipe : Nat) : Statement (.commitAtHome pipe) := all _
theorem eosHeader (pipe : Nat) : Statement (.eosHeader pipe) := all _
theorem retainedSlotRewrite (pipe : Nat) (seq : Nat) (header : List (BitVec 8)) : Statement (.retainedSlotRewrite pipe seq header) := all _
theorem retainedSlotDiscard (pipe : Nat) (seq : Nat) : Statement (.retainedSlotDiscard pipe seq) := all _
theorem spillWrite (pipe : Nat) (seq : Nat) : Statement (.spillWrite pipe seq) := all _
theorem spillFetch (pipe : Nat) (seq : Nat) : Statement (.spillFetch pipe seq) := all _
theorem mirrorTransfer (pipe : Nat) (header : List (BitVec 8)) (data : List (BitVec 8)) : Statement (.mirrorTransfer pipe header data) := all _
theorem mirrorFree (pipe : Nat) (count : Nat) : Statement (.mirrorFree pipe count) := all _
theorem peerMatchTimeout (pipe : Nat) : Statement (.peerMatchTimeout pipe) := all _
theorem pipePeerLost (pipe : Nat) : Statement (.pipePeerLost pipe) := all _
theorem balancerSample : Statement (.balancerSample) := all _
theorem handoffComplete (core : Nat) : Statement (.handoffComplete core) := all _
theorem handoffTimeout (core : Nat) : Statement (.handoffTimeout core) := all _
theorem deadlockDetected (alm : Nat) : Statement (.deadlockDetected alm) := all _
theorem fillResponse (core : Nat) (line : Nat) : Statement (.fillResponse core line) := all _
theorem dirtyWriteHome (core : Nat) (line : Nat) (words : BitVec 32) : Statement (.dirtyWriteHome core line words) := all _
theorem homeRead (src : Nat) (line : Nat) : Statement (.homeRead src line) := all _
theorem homeWrite (src : Nat) (line : Nat) : Statement (.homeWrite src line) := all _
theorem homeAtomic (src : Nat) (line : Nat) : Statement (.homeAtomic src line) := all _
theorem ptsSelfExpiry (core : Nat) : Statement (.ptsSelfExpiry core) := all _
theorem rebase : Statement (.rebase) := all _
theorem multicastForward (slice : Nat) : Statement (.multicastForward slice) := all _
theorem multicastDelivery (core : Nat) : Statement (.multicastDelivery core) := all _
theorem podRemoteAccess (rank : Nat) (tag : Nat) (kind : Nat) (addr : Nat) (data : List (BitVec 8)) : Statement (.podRemoteAccess rank tag kind addr data) := all _
theorem linkRetry (link : Nat) : Statement (.linkRetry link) := all _
theorem oplogReplay (core : Nat) (quarter : Nat) (entry : Nat) : Statement (.oplogReplay core quarter entry) := all _
theorem oplogDeliver (core : Nat) (quarter : Nat) (entry : Nat) : Statement (.oplogDeliver core quarter entry) := all _
theorem oplogFail (core : Nat) (quarter : Nat) (entry : Nat) : Statement (.oplogFail core quarter entry) := all _
theorem recordReplay (core : Nat) (quarter : Nat) (rseq : Nat) : Statement (.recordReplay core quarter rseq) := all _
theorem recordDeliver (core : Nat) (quarter : Nat) (rseq : Nat) : Statement (.recordDeliver core quarter rseq) := all _
theorem recordFail (core : Nat) (quarter : Nat) (rseq : Nat) : Statement (.recordFail core quarter rseq) := all _
theorem dirtyFlagTimeout (core : Nat) (tlbent : Nat) : Statement (.dirtyFlagTimeout core tlbent) := all _
theorem matrixAccept (core : Nat) : Statement (.matrixAccept core) := all _
theorem kStep (core : Nat) : Statement (.kStep core) := all _
theorem epilogue (core : Nat) : Statement (.epilogue core) := all _
theorem matrixFaultResume (core : Nat) (rseq : Nat) : Statement (.matrixFaultResume core rseq) := all _
theorem engineAccept (core : Nat) (entry : Nat) : Statement (.engineAccept core entry) := all _
theorem copyComplete (core : Nat) (entry : Nat) : Statement (.copyComplete core entry) := all _
theorem gatherGroup (core : Nat) (entry : Nat) : Statement (.gatherGroup core entry) := all _
theorem engineFaultResume (core : Nat) (rseq : Nat) : Statement (.engineFaultResume core rseq) := all _
theorem engineFaultDeliver (core : Nat) (rseq : Nat) : Statement (.engineFaultDeliver core rseq) := all _
theorem triggerFlit (idx : Nat) : Statement (.triggerFlit idx) := all _
theorem vigilStart : Statement (.vigilStart) := all _
theorem vigilComplete (vslot : Nat) : Statement (.vigilComplete vslot) := all _
theorem chunkSend (core : Nat) (entry : Nat) : Statement (.chunkSend core entry) := all _
theorem chunkArrival (tag : Nat) (source : Nat) (header : List (BitVec 8)) (data : List (BitVec 8)) : Statement (.chunkArrival tag source header data) := all _
theorem chunkAck (tag : Nat) (status : Nat) : Statement (.chunkAck tag status) := all _
theorem nsendArrival (source : Nat) (ptag : Nat) (descriptor : List (BitVec 8)) : Statement (.nsendArrival source ptag descriptor) := all _
theorem xshufPair (core : Nat) (slot : Nat) (warp : Nat) : Statement (.xshufPair core slot warp) := all _
theorem xshufDataArrival (core : Nat) (slot : Nat) (warp : Nat) : Statement (.xshufDataArrival core slot warp) := all _
theorem holidayPause (coll : Nat) (source : Nat) (hseq : Nat) : Statement (.holidayPause coll source hseq) := all _
theorem holidayStop (coll : Nat) (source : Nat) (hseq : Nat) (chunk : Nat) : Statement (.holidayStop coll source hseq chunk) := all _
theorem holidayHold (coll : Nat) (source : Nat) (hseq : Nat) : Statement (.holidayHold coll source hseq) := all _
theorem holidayResume (coll : Nat) (source : Nat) (hseq : Nat) : Statement (.holidayResume coll source hseq) := all _
theorem holidayReply (coll : Nat) (source : Nat) (hseq : Nat) (stepno : Nat) (chunk : Option Nat) : Statement (.holidayReply coll source hseq stepno chunk) := all _
theorem holidayTimeout (coll : Nat) : Statement (.holidayTimeout coll) := all _
theorem collectivePeerLost (rank : Nat) : Statement (.collectivePeerLost rank) := all _
theorem faultQueueTailWrite (asid : Nat) (tail : BitVec 32) : Statement (.faultQueueTailWrite asid tail) := all _
theorem errorDetected (unit : Nat) (place : Nat) (correctable : Bool) : Statement (.errorDetected unit place correctable) := all _
theorem scrub : Statement (.scrub) := all _
theorem coreStallTimeout (core : Nat) : Statement (.coreStallTimeout core) := all _
theorem coreSelfTestFail (core : Nat) : Statement (.coreSelfTestFail core) := all _
theorem debugStop (core : Nat) (slot : Nat) : Statement (.debugStop core slot) := all _
theorem debugResume (core : Nat) (slot : Nat) : Statement (.debugResume core slot) := all _
theorem stallSample (core : Nat) (quarter : Nat) : Statement (.stallSample core quarter) := all _
theorem pmcWrap (core : Nat) (counter : Nat) : Statement (.pmcWrap core counter) := all _
theorem ptpMessage (rateppm : Int) : Statement (.ptpMessage rateppm) := all _
theorem ualinkTimingMessage (source : Nat) (rateppm : Int) : Statement (.ualinkTimingMessage source rateppm) := all _
theorem powerStateDecision (die : Nat) : Statement (.powerStateDecision die) := all _
theorem powerSample (watts : Nat) (limit : Nat) (celsius : List Nat) : Statement (.powerSample watts limit celsius) := all _
theorem thermalTrip (celsius : Nat) : Statement (.thermalTrip celsius) := all _
theorem moduleWake : Statement (.moduleWake) := all _
theorem registerWrite (reg : Nat) (index : Nat) (value : BitVec 64) : Statement (.registerWrite reg index value) := all _
theorem pipePeerMatch (pipe : Nat) (declaration : List (BitVec 8)) : Statement (.pipePeerMatch pipe declaration) := all _
theorem ualinkCompletion (tag : Nat) (status : Nat) (data : List (BitVec 8)) : Statement (.ualinkCompletion tag status data) := all _

end Encoding

end Sys2Proof.Laws
end

