-- ==== Sys2Proof/Laws/Puts.lean ====
section
/-! SUPPORT. Results that depend on the whole instance: what an instance reads is the same once its members have passed the
word, and one lemma per shape of meaning. -/

namespace Sys2Proof.Laws

open Sys2Proof Sys2Proof.Machine

/-! ### What an instance reads -/

theorem beyondMembers_block {x : Ix} {a t : State} (h : beyondMembers x a t) {b : Block} (hb : a.block? x.core x.slot = some b) :
    ∃ b', t.block? x.core x.slot = some b' ∧ { b' with warps := b.warps } = b ∧ b'.warps.length = b.warps.length := by
  obtain ⟨b', e1, e2, e3, _⟩ := h.2.2.1 b hb
  exact ⟨b', e1, e2, e3⟩

theorem block?_advance_none {m : Meta} {x : Ix} (a : State) (h : a.block? x.core x.slot = none) :
    (advance m x a).block? x.core x.slot = none := by
  unfold advance
  change (x.each (counted m x a) fun _ w => passWord m x (counted m x a).cycle.toNat w).block? x.core x.slot = none
  have hc : (counted m x a).block? x.core x.slot = none := by
    unfold State.block?; rw [(counted_law m x a).2]; exact h
  unfold Ix.each
  generalize x.members = l
  generalize (fun (_ : Nat) (w : Warp) => passWord m x (counted m x a).cycle.toNat w) = f
  generalize counted m x a = s at hc
  induction l generalizing s with
  | nil => exact hc
  | cons k r ih =>
    simp only [List.foldl_cons]
    apply ih
    simp [State.modWarp, hc]

theorem setOf_congr {b b' : Block} (h : b'.sets = b.sets) (k : Nat) : Machine.setOf b' k = Machine.setOf b k := by
  unfold Machine.setOf; rw [h]

/-- The members that set-lane numbers count do not change with the word. -/
theorem places_advance {m : Meta} {x : Ix} (a : State) (hn : x.members.Nodup) : x.places (advance m x a) = x.places a := by
  unfold Ix.places Ix.block?
  split
  · rfl
  · cases hb : a.block? x.core x.slot with
    | none => rw [block?_advance_none a hb]
    | some b =>
      obtain ⟨b', e1, e2, e3⟩ := beyondMembers_block (beyondMembers_advance (m := m) a hn) hb
      rw [e1]
      have hs : b'.sets = b.sets := (congrArg Block.sets e2 :)
      dsimp only
      rw [setOf_congr hs, hs, e3]

theorem position_advance {m : Meta} {x : Ix} (a : State) (hn : x.members.Nodup) (k l : Nat) :
    x.position (advance m x a) k l = x.position a k l := by
  unfold Ix.position
  rw [places_advance a hn]

theorem warp?_advance' {m : Meta} {x : Ix} (a : State) (hn : x.members.Nodup) (k : Nat) :
    x.warp? (advance m x a) k
      = if k ∈ x.members then (x.warp? a k).map (passWord m x (counted m x a).cycle.toNat) else x.warp? a k :=
  warp?_advance a hn k

/-- An active lane at a set-lane number stays one, in a warp that has passed the word. -/
theorem activeAt_advance {m : Meta} {x : Ix} (a : State) (hn : x.members.Nodup) (p : Nat) :
    x.activeAt (advance m x a) p = (x.activeAt a p).map fun q => (passWord m x (counted m x a).cycle.toNat q.1, q.2) := by
  unfold Ix.activeAt
  rw [places_advance a hn]
  cases (x.places a)[p / 64]? with
  | none => rfl
  | some k =>
    dsimp only
    by_cases hk : x.members.contains k
    · rw [if_pos hk, if_pos hk, warp?_advance' a hn, if_pos (by simpa using hk)]
      cases x.warp? a k with
      | none => rfl
      | some w =>
        simp only [Option.map_some, em_passWord]
        split <;> rfl
    · rw [if_neg hk, if_neg hk]
      rfl

theorem activeValue_advance {m : Meta} {x : Ix} (a : State) (hn : x.members.Nodup) (va : VOp) (p : Nat) :
    activeValue x (advance m x a) va p = activeValue x a va p := by
  unfold activeValue
  rw [activeAt_advance a hn]
  cases x.activeAt a p with
  | none => rfl
  | some q =>
    obtain ⟨hv, hx, _⟩ := passWord_fields m x (counted m x a).cycle.toNat q.1
    exact readOp_congr hv hx _ _

theorem contribution_advance {m : Meta} {x : Ix} (a : State) (hn : x.members.Nodup) (va : VOp) (op p : Nat) :
    contribution x (advance m x a) va op p = contribution x a va op p := by
  unfold contribution
  rw [activeAt_advance a hn]
  cases x.activeAt a p with
  | none => rfl
  | some q =>
    obtain ⟨hv, hx, _, hh, _⟩ := passWord_fields m x (counted m x a).cycle.toNat q.1
    simp only [Option.map_some, hh, readOp_congr hv hx]

/-! ### Results -/

/-- An instruction that writes an operand in the active lanes, its value from the whole instance. -/
theorem lanePut_result {i : Instr} {m : Meta} {uni : Ix → State → Option Nat} {ops : List VOp} {dst : VOp}
    {f : Ix → State → Nat → Warp → Nat → Nat} {g : Ix → State → Nat → Warp → Nat → Nat → Word}
    (hi : ∀ s, exec i s = .next (issue i m noExtra uni
      (withOperands (ops ++ [dst]) fun x s => .done (x.putLanes s dst (f x s))) s))
    (hm : m.stamp = false)
    (hg : ∀ (x : Ix) sv a k w l j, x.members.Nodup → a.warp? x.core x.slot k = some w → j < dst.w →
      word32 (f { x with saved := sv } (advance m x a) k (passWord m x (counted m x a).cycle.toNat w) l) j = g x a k w l j) :
    LanePut i m uni ops dst g := by
  intro s x a h hop
  have hn := members_nodup h
  rw [hi s, issue_issuesAs h, withStamp_none hm]
  refine ⟨x.putLanes (advance m x a) dst (f { x with saved := savedSplits x a } (advance m x a)), ?_, ?_⟩
  · congr 1
    apply perform_done
    unfold withOperands
    have : Ix.operandFaults { x with saved := savedSplits x a } (advance m x a) (ops ++ [dst])
        = x.operandFaults (advance m x a) (ops ++ [dst]) := rfl
    dsimp only
    rw [this, operandFaults_advance a hn, hop]
    rfl
  · refine onMembers_each a hn _ (fun k w => putOp_splits _ _ _) ?_
    intro k w hw
    generalize hc : (counted m x a).cycle.toNat = c
    obtain ⟨hv, hxr, _⟩ := passWord_fields m x c w
    refine ⟨?_, ?_, ?_⟩
    · have h1 := (passWord_law m x c w).2
      have h2 := putOp_rest (passWord m x c w) dst fun l =>
        if inMask (x.em (passWord m x c w)) l then
          some (f { x with saved := savedSplits x a } (advance m x a) k (passWord m x c w) l) else none
      have h3 := congrArg (fun z : Warp => { unissued w z with vregs := w.vregs }) h2
      have h4 := congrArg (fun z : Warp => { z with vregs := w.vregs }) h1
      exact Eq.trans h3 h4
    · rw [putOp_length, hv]
    · intro n l hn' hl
      rw [v_putOp _ _ _ (by rw [hv]; exact hn') hl, resolve_congr hxr, em_passWord]
      have hvv : (passWord m x c w).v n l = w.v n l := by unfold Warp.v; rw [hv]
      cases resolve w dst l with
      | error e => exact hvv
      | ok k' =>
        dsimp only
        by_cases hl' : inMask (x.em w) l
        · simp only [hl', if_true, true_and]
          rw [hvv]
          split
          · rename_i hk
            rw [← hc]
            exact hg x _ a k w l _ hn hw (by omega)
          · rfl
        · simp only [Bool.not_eq_true] at hl'
          simp only [hl', Bool.false_eq_true, false_and, if_false]
          exact hvv

/-- A scalar register of every member, its value from the whole instance. -/
theorem onMembers_scalars {m : Meta} {x : Ix} (a : State) (hn : x.members.Nodup) (d : Nat) (v : Nat → Warp → DWord)
    (g : Nat → Warp → DWord)
    (hv : ∀ k w, a.warp? x.core x.slot k = some w → v k (passWord m x (counted m x a).cycle.toNat w) = g k w) :
    onMembers x a (x.each (advance m x a) fun k w => w.setS d (v k w)) fun k w w' =>
      { unissued w w' with sregs := w.sregs } = w ∧ scalarWritten d (g k w) w w' := by
  refine onMembers_each a hn (fun k w => w.setS d (v k w)) (fun _ _ => rfl) ?_
  intro k w hw
  obtain ⟨_, _, hsr, _⟩ := passWord_fields m x (counted m x a).cycle.toNat w
  refine ⟨?_, ?_, ?_⟩
  · exact congrArg (fun z : Warp => { z with sregs := w.sregs }) (passWord_law m x _ w).2
  · simp [Warp.setS, setAt, hsr]
  · intro n hn'
    rw [s_setS _ _ _ _ (by rw [hsr]; exact hn'), hv k w hw]
    split
    · rfl
    · unfold Warp.s; rw [hsr]

/-- An effect that is performed under its hypotheses. -/
theorem makes_of {i : Instr} {m : Meta} {extra : Block → Split → Bool} {uni : Ix → State → Option Nat}
    {eff : Ix → State → Res} {H : Ix → State → Prop} {f : Ix → State → State}
    (hi : ∀ s, exec i s = .next (issue i m extra uni eff s)) (hf : ∀ x s, H x s → eff x s = .done (f x s)) :
    Makes i m extra uni H f := by
  intro s x a h hH
  rw [hi s, issue_issuesAs h]
  congr 1
  exact perform_done (hf _ _ hH)

/-- An instruction that is performed, and of whose effect something is known. -/
theorem performs_of {i : Instr} {m : Meta} {extra : Block → Split → Bool} {uni : Ix → State → Option Nat}
    {eff : Ix → State → Res} {H : Ix → State → Prop} {P : Ix → State → State → Prop} {f : Ix → State → State}
    (hi : ∀ s, exec i s = .next (issue i m extra uni eff s))
    (hf : ∀ x a, x.members.Nodup → H x a → eff (begun m x a).1 (begun m x a).2 = .done (f x a) ∧ P x a (f x a)) :
    Performs i m extra uni H P := by
  intro s x a h hH
  obtain ⟨h1, h2⟩ := hf x a (members_nodup h) hH
  rw [hi s, issue_issuesAs h]
  refine ⟨f x a, ?_, h2⟩
  congr 1
  exact perform_done h1

end Sys2Proof.Laws
end

