-- ==== Sys2Proof/Tests/Slice0.lean ====
section
/-! SUPPORT. Tests: what WellFormed refuses; every constructor's word decoded, written from the encoding tables (17 Tables 17.1
and 17.2, opcode_table.json) or from the reference's example words; one step of worked examples of the specification; and for
every statement with hypotheses a state that meets them. -/

namespace Sys2Proof.Tests

open Sys2Proof Sys2Proof.Machine

set_option Elab.async false

/-! ### WellFormed refuses -/

theorem test_wf_refuses : ([
    .iadd32 0 1 3 2 4,          -- a direct register number that is no multiple of the width (05 R101)
    .iadd64 0 2 3 4,            -- an odd pair
    .sadd 0 1 2 3,              -- SC 00 of a scalar instruction (06 R116)
    .icmp 1 0 12 1 2 3,         -- a reserved CC
    .icmp 1 2 0 1 4 8,          -- WD 10 of ICMP
    .fcmpF32 1 14 1 2 3,        -- a reserved CC of FCMP
    .fcvt 0 0 0 0 0 1 2 3 3,      -- FCVT from a type to itself (07 R146)
    .vpackB 0 1 4 3,            -- a reserved pack mode
    .xset 0 8 1,                -- an index register beyond x7
    .trd 0 0 1 3 0 0,           -- an odd pair of a tile slice
    .qxch 1 0 1 2 4,            -- a reserved exchange
    .scan 1 1 2 4 1,            -- an operator of another width (17 Table 17.5)
    .vote 1 1 2 4,              -- a reserved vote
    .region 0x3FFF,             -- more than 8 groups (05 R102)
    .ld 0 0 2 0 6 0 0,          -- an unaligned group of four
    .sts 0 2 1 4 0 0,           -- a reserved size
    .atom 0 0 13 5 0 0,         -- an unaligned pair
    .mmk 1 1 5 0,               -- A no multiple of 4
    .htest 1 0 1 2 3,           -- a reserved test
    .waitbHandle 1 0 0,         -- h0, which is the other WAITB
    .exit 0, .fence 0, .qclose 0 1, .npost 0 1 2] : List Instr).all (fun i => !i.wf) = true := by decide +kernel

theorem test_wf_admits : ([.iadd32 0 1 2 4 6, .iadd32 0 1 58 57 6, .sadd 1 1 2 3, .fcvt 0 0 0 0 0 1 2 0 4, .region 0x00FF,
    .exitl 4, .brx 1 2, .waitbHandle 1 3 1, .ld 0 2 2 0 8 0 3] : List Instr).all Instr.wf = true := by decide +kernel

/-! ### Words -/

/-- Every word of a list decodes to the instruction beside it. -/
def decodesAll (l : List (Word × Instr)) : Bool := l.all fun p => match decodeWord p.1 with | .ok i => decide (i = p.2) | .error _ => false

theorem test_decode_major_01 : decodesAll [
    (0x0543F620#32, .iadd32 1 1 63 24 32),
    (0x07854B5B#32, .isub32 3 2 20 45 27),
    (0x07C826B5#32, .imul32 3 3 2 26 53),
    (0x07CD4873#32, .imulhI32 3 3 20 33 51),
    (0x07D13B9C#32, .imulhN32 3 3 19 46 28),
    (0x05942926#32, .imad32 1 2 2 36 38),
    (0x0559AA86#32, .iminI32 1 1 26 42 6),
    (0x075D4B16#32, .iminN32 3 1 20 44 22),
    (0x06A08305#32, .imaxI32 2 2 8 12 5),
    (0x05664C61#32, .imaxN32 1 1 36 49 33),
    (0x05EB82C0#32, .iabs32 1 3 56 11),
    (0x056DC1EC#32, .iaddsI32 1 1 28 7 44),
    (0x0570B1DC#32, .iaddsN32 1 1 11 7 28),
    (0x07B78F96#32, .isubsI32 3 2 56 62 22),
    (0x06798D13#32, .isubsN32 2 1 24 52 19)] = true := by decide +kernel

theorem test_decode_major_02 : decodesAll [
    (0x0B00FD0B#32, .iadd64 3 15 52 11),
    (0x09079E54#32, .isub64 1 57 57 20),
    (0x0A0B58A0#32, .imul64 2 53 34 32),
    (0x0A0CFA36#32, .imulhI64 2 15 40 54),
    (0x09127FC4#32, .imulhN64 1 39 63 4),
    (0x0A15288B#32, .imad64 2 18 34 11),
    (0x0A1AB789#32, .iminI64 2 43 30 9),
    (0x091FDE82#32, .iminN64 1 61 58 2),
    (0x0921B5E8#32, .imaxI64 1 27 23 40),
    (0x09265A93#32, .imaxN64 1 37 42 19),
    (0x0A29FB80#32, .iabs64 2 31 46),
    (0x092C87C7#32, .iaddsI64 1 8 31 7),
    (0x09330758#32, .iaddsN64 1 48 29 24),
    (0x0A37AFC5#32, .isubsI64 2 58 63 5),
    (0x0A395285#32, .isubsN64 2 21 10 5)] = true := by decide +kernel

theorem test_decode_major_03 : decodesAll [
    (0x0F415B0F#32, .and 3 1 21 44 15),
    (0x0D478624#32, .or 1 1 56 24 36),
    (0x0F49905A#32, .xor 3 1 25 1 26),
    (0x0F4FD977#32, .andn 3 1 61 37 55),
    (0x0D136261#32, .shl 1 54 9 33),
    (0x0F14620F#32, .shrN 3 6 8 15),
    (0x0E1AF5E4#32, .shrI 2 47 23 36),
    (0x0F1F3B8F#32, .rot 3 51 46 15),
    (0x0D20A9C0#32, .popc 1 10 39),
    (0x0D25A400#32, .clz 1 26 16),
    (0x0D293B80#32, .brev 1 19 46),
    (0x0D2DDEAE#32, .bfxN 1 29 58 46),
    (0x0D324970#32, .bfxI 1 36 37 48),
    (0x0E365991#32, .bfi 2 37 38 17),
    (0x0D790D53#32, .vsel 1 1 16 53 19)] = true := by decide +kernel

theorem test_decode_major_04 : decodesAll [
    (0x11439E61#32, .iaddi 1 1 57 3681),
    (0x11857720#32, .andi 1 2 23 1824),
    (0x1348965D#32, .ori 3 1 9 1629),
    (0x114CA021#32, .xori 1 1 10 33),
    (0x129173E8#32, .shli 2 2 23 1000),
    (0x1254A5C8#32, .shriN 2 1 10 1480),
    (0x12998CBC#32, .shriI 2 2 24 3260),
    (0x12DD7527#32, .vmovi 2 3 23 1319),
    (0x116104E8#32, .imuli 1 1 16 1256)] = true := by decide +kernel

theorem test_decode_major_05 : decodesAll [
    (0x16409FAA#32, .faddF32 2 1 9 62 42),
    (0x1544E7E8#32, .fsubF32 1 1 14 31 40),
    (0x164A8577#32, .fmulF32 2 1 40 21 55),
    (0x158EBEF8#32, .ffmaF32 1 2 43 59 56),
    (0x16514FD1#32, .fminF32 2 1 20 63 17),
    (0x1656050F#32, .fmaxF32 2 1 32 20 15),
    (0x155A0A00#32, .fabsF32 1 1 32 40),
    (0x15DDC640#32, .fnegF32 1 3 28 25),
    (0x15E1A676#32, .fscaleF32 1 3 26 25 54),
    (0x15A52790#32, .fdivF32 1 2 18 30 16),
    (0x17685EC0#32, .fclassF32 3 1 5 59),
    (0x15AC63C0#32, .frndF32 1 2 6 15)] = true := by decide +kernel

theorem test_decode_major_06 : decodesAll [
    (0x1902998B#32, .faddF64 1 41 38 11),
    (0x1907D704#32, .fsubF64 1 61 28 4),
    (0x1A0B05B0#32, .fmulF64 2 48 22 48),
    (0x1A0D1A38#32, .ffmaF64 2 17 40 56),
    (0x1B11BEE4#32, .fminF64 3 27 59 36),
    (0x1915922E#32, .fmaxF64 1 25 8 46),
    (0x1B1BA2C0#32, .fabsF64 3 58 11),
    (0x191E4840#32, .fnegF64 1 36 33),
    (0x1A23BE07#32, .fscaleF64 2 59 56 7),
    (0x19275D5D#32, .fdivF64 1 53 53 29),
    (0x1928AE00#32, .fclassF64 1 10 56),
    (0x1A2C13C0#32, .frndF64 2 1 15)] = true := by decide +kernel

theorem test_decode_major_07 : decodesAll [
    (0x1E8326A5#32, .faddF16x2 2 2 50 26 37),
    (0x1D457CF9#32, .fsubF16x2 1 1 23 51 57),
    (0x1F4AF88D#32, .fmulF16x2 3 1 47 34 13),
    (0x1DCE0441#32, .ffmaF16x2 1 3 32 17 1),
    (0x1F914A4D#32, .fminF16x2 3 2 20 41 13),
    (0x1F94F778#32, .fmaxF16x2 3 2 15 29 56),
    (0x1F595CC0#32, .fabsF16x2 3 1 21 51),
    (0x1FDCEF40#32, .fnegF16x2 3 3 14 61)] = true := by decide +kernel

theorem test_decode_major_08 : decodesAll [
    (0x2281D5F5#32, .faddBf16x2 2 2 29 23 53),
    (0x2346E62E#32, .fsubBf16x2 3 1 46 24 46),
    (0x218B4B3C#32, .fmulBf16x2 1 2 52 44 60),
    (0x224EFF99#32, .ffmaBf16x2 2 1 47 62 25),
    (0x2150E52F#32, .fminBf16x2 1 1 14 20 47),
    (0x225467CE#32, .fmaxBf16x2 2 1 6 31 14),
    (0x22DB4B40#32, .fabsBf16x2 2 3 52 45),
    (0x219E68C0#32, .fnegBf16x2 1 2 38 35)] = true := by decide +kernel

theorem test_decode_major_09 : decodesAll [
    (0x26813880#32, .frcp 2 2 19 34),
    (0x2746D240#32, .frsq 3 1 45 9),
    (0x25497080#32, .fsqrt 1 1 23 2),
    (0x254F25C0#32, .fexp2 1 1 50 23),
    (0x26521D00#32, .flog2 2 1 33 52),
    (0x2656E040#32, .fsin 2 1 46 1),
    (0x259AC580#32, .fcos 1 2 44 22),
    (0x255FAA40#32, .ftanh 1 1 58 41),
    (0x27A3D700#32, .fsigm 3 2 61 28)] = true := by decide +kernel

theorem test_decode_major_0a : decodesAll [
    (0x2A8F15E7#32, .icmp 2 2 3 49 23 39)] = true := by decide +kernel

theorem test_decode_major_0b : decodesAll [
    (0x2D29F15C#32, .fcmpF32 1 10 31 5 28)] = true := by decide +kernel

theorem test_decode_major_0c : decodesAll [
    (0x32233E34#32, .fcmpF64 2 8 51 56 52)] = true := by decide +kernel

theorem test_decode_major_0d : decodesAll [
    (0x375AF14B#32, .fcvt 3 1 1 1 0 47 5 1 3)] = true := by decide +kernel

theorem test_decode_major_0e : decodesAll [
    (0x3A8193EF#32, .vpackB 2 25 15 47),
    (0x3B44B4A3#32, .vpackH 3 11 18 35),
    (0x39895F4B#32, .vunpkB 1 21 61 11),
    (0x3B4CAB10#32, .vunpkH 3 10 44 16)] = true := by decide +kernel

theorem test_decode_major_0f : decodesAll [
    (0x3D407680#32, .vmov 1 1 7 26),
    (0x3F050240#32, .vmovs 3 16 9),
    (0x3D091BB0#32, .vget 1 17 46 48),
    (0x3D0E51D1#32, .vsetl 1 37 7 17),
    (0x3E111280#32, .mfsVector 2 17 10)] = true := by decide +kernel

theorem test_decode_major_10 : decodesAll [
    (0x4100D980#32, .xset 1 13 38),
    (0x4305ADC0#32, .xidx 3 26 55),
    (0x410AE780#32, .xadd 1 46 30),
    (0x430C5500#32, .xget 3 5 20)] = true := by decide +kernel

theorem test_decode_major_11 : decodesAll [
    (0x464EB555#32, .trd 2 1 6 45 21 5),
    (0x455C3662#32, .twr 1 1 4 13 38 2),
    (0x456453CA#32, .tacc 1 0 4 20 60 10),
    (0x4739003D#32, .tzero 3 1 1 3 13)] = true := by decide +kernel

theorem test_decode_major_12 : decodesAll [
    (0x49418938#32, .shfl 1 1 24 36 56),
    (0x49470805#32, .shflx 1 1 48 32 5),
    (0x49C8B11A#32, .bcast 1 3 11 4 26),
    (0x494CB2CA#32, .qxch 1 1 11 11 10),
    (0x49502F87#32, .scan 1 1 2 62 7),
    (0x49577481#32, .reduce 1 1 55 18 1),
    (0x491BA72B#32, .vote 1 58 28 43)] = true := by decide +kernel

theorem test_decode_major_13 : decodesAll [
    (0x4D3AD05F#32, .xshuf 3 2 45 1 31)] = true := by decide +kernel

theorem test_decode_major_14 : decodesAll [
    (0x52039581#32, .sadd 2 57 22 1),
    (0x5206B4F5#32, .ssub 2 43 19 53),
    (0x5308EC65#32, .smul 3 14 49 37),
    (0x510EA13A#32, .sand 1 42 4 58),
    (0x511370D5#32, .sor 1 55 3 21),
    (0x521625D8#32, .sxor 2 34 23 24),
    (0x521817B6#32, .sandn 2 1 30 54),
    (0x521CE767#32, .sshl 2 14 29 39),
    (0x5223DE36#32, .sshrN 2 61 56 54),
    (0x51268B85#32, .sshrI 1 40 46 5),
    (0x512AE284#32, .sminI 1 46 10 4),
    (0x532DD85B#32, .sminN 3 29 33 27),
    (0x51307A4B#32, .smaxI 1 7 41 11),
    (0x513410E3#32, .smaxN 1 1 3 35),
    (0x513A7600#32, .spopc 1 39 24),
    (0x513F3600#32, .sffs 1 51 24)] = true := by decide +kernel

theorem test_decode_major_15 : decodesAll [
    (0x55026BD6#32, .saddi 1 38 3030),
    (0x550610B1#32, .sandi 1 33 177),
    (0x560B9D4B#32, .sori 2 57 3403),
    (0x550F88B2#32, .sxori 1 56 2226),
    (0x5510FFFD#32, .sshli 1 15 4093),
    (0x55176414#32, .sshriN 1 54 1044),
    (0x551938B9#32, .sshriI 1 19 2233),
    (0x551F9CD7#32, .smovi 1 57 3287),
    (0x5623FA09#32, .smuli 2 63 2569)] = true := by decide +kernel

theorem test_decode_major_16 : decodesAll [
    (0x5B311213#32, .scmp 3 12 17 8 19)] = true := by decide +kernel

theorem test_decode_major_17 : decodesAll [
    (0x5E008580#32, .smov 2 8 22),
    (0x5E0431B1#32, .ssel 2 3 6 49),
    (0x5F0A4800#32, .mfsScalar 3 36 32),
    (0x5D0D51C0#32, .mts 1 21 7)] = true := by decide +kernel

theorem test_decode_major_18 : decodesAll [
    (0x63000517#32, .bra 3 1303),
    (0x63161DD2#32, .brz 3 24 7634),
    (0x632B906E#32, .brnz 3 46 4206),
    (0x6138F805#32, .brx 35 14341),
    (0x6345090E#32, .call 3 20 2318),
    (0x61580000#32, .ret 1 32),
    (0x616D0000#32, .join 52)] = true := by decide +kernel

theorem test_decode_major_19 : decodesAll [
    (0x65000000#32, .exit 1),
    (0x6417C000#32, .exitl 31),
    (0x6420C000#32, .refill 3),
    (0x65210000#32, .refillWarp 4),
    (0x672A4000#32, .refillBlock 41),
    (0x66300000#32, .yield 2),
    (0x65400000#32, .bar 0),
    (0x65500000#32, .bara 0),
    (0x65600001#32, .barw 1),
    (0x677FC003#32, .setdef 63 3),
    (0x65800000#32, .nop 1),
    (0x65900000#32, .bpt),
    (0x67A00005#32, .trap 3 5),
    (0x65B3C000#32, .grow 1 15),
    (0x65C002CC#32, .region 716)] = true := by decide +kernel

theorem test_decode_major_1a : decodesAll [
    (0x6976DF9E#32, .ld 1 7 1 2 55 57 14)] = true := by decide +kernel

theorem test_decode_major_1b : decodesAll [
    (0x6D055829#32, .st 1 1 1 22 2 9)] = true := by decide +kernel

theorem test_decode_major_1c : decodesAll [
    (0x714AF247#32, .lds 1 4 2 2 60 36 7)] = true := by decide +kernel

theorem test_decode_major_1d : decodesAll [
    (0x7607AB4A#32, .sts 2 1 3 42 52 10)] = true := by decide +kernel

theorem test_decode_major_1e : decodesAll [
    (0x79167D61#32, .atom 1 1 6 31 22 1)] = true := by decide +kernel

theorem test_decode_major_1f : decodesAll [
    (0x7D7A6698#32, .atoml 1 7 10 25 41 8)] = true := by decide +kernel

theorem test_decode_major_20 : decodesAll [
    (0x83000000#32, .fence 3),
    (0x81002C01#32, .pref 1 11),
    (0x8100F532#32, .disc 1 61 19),
    (0x83007FF3#32, .cflush 3 31 63)] = true := by decide +kernel

theorem test_decode_major_21 : decodesAll [
    (0x860A0360#32, .qopen 2 5 27),
    (0x87D55001#32, .qrsv 3 13 2 42),
    (0x850E8F22#32, .qcmt 1 7 17 57),
    (0x86345003#32, .qpop 2 3 2 10),
    (0x850201A4#32, .qrel 1 1 13),
    (0x871DF005#32, .qstat 3 1 6 62),
    (0x86B21086#32, .qstamp 2 11 1 2 4),
    (0x850C0007#32, .qclose 1 6)] = true := by decide +kernel

theorem test_decode_major_22 : decodesAll [
    (0x8B092400#32, .cpy 3 9 9)] = true := by decide +kernel

theorem test_decode_major_23 : decodesAll [
    (0x8D031800#32, .xfer 1 3 6)] = true := by decide +kernel

theorem test_decode_major_24 : decodesAll [
    (0x9102EC00#32, .gath 1 2 59)] = true := by decide +kernel

theorem test_decode_major_25 : decodesAll [
    (0x96080710#32, .mmk 2 8 1 49)] = true := by decide +kernel

theorem test_decode_major_26 : decodesAll [
    (0x9A09F400#32, .mmj 2 9 61)] = true := by decide +kernel

theorem test_decode_major_27 : decodesAll [
    (0x9F6F6770#32, .htest 3 6 15 25 55),
    (0x9D0A0001#32, .hcancel 1 10),
    (0x9D35F002#32, .hmovs 1 3 5 60),
    (0x9F01D403#32, .smovh 3 1 53),
    (0x9D103404#32, .batch 1 1 13),
    (0x9F002C05#32, .waitbBatch 3 11),
    (0x9D030095#32, .waitbHandle 1 3 9)] = true := by decide +kernel

theorem test_decode_major_28 : decodesAll [
    (0xA200E6D0#32, .npost 2 57 45),
    (0xA2001C01#32, .nsend 2 7),
    (0xA1001E42#32, .tcadd 1 7 36),
    (0xA3108303#32, .tcrd 3 1 32 48),
    (0xA100C074#32, .tcarm 1 48 7),
    (0xA1004A65#32, .tcset 1 18 38)] = true := by decide +kernel

theorem test_decode_major_29 : decodesAll [
    (0xA5000000#32, .rft),
    (0xA50F72C1#32, .csave 15 28 44),
    (0xA5014112#32, .crest 1 16 17),
    (0xA5000713#32, .tlbi 1 49),
    (0xA5005C04#32, .harv 23),
    (0xA5015405#32, .haltc 1 21)] = true := by decide +kernel

theorem test_decode_major_3f : decodesAll [
    (0xFC093CB7#32, .hintImm 605367),
    (0xFC400001#32, .hintSched 0 1),
    (0xFC80004D#32, .hintMemord 1 0 3 1),
    (0xFCC00013#32, .hintArith 0 0 1 0 0 3),
    (0xFD000021#32, .hintStamp 33),
    (0xFD4F8256#32, .hintTrace 1016406),
    (0xFD80025C#32, .hintRemote 604)] = true := by decide +kernel

/-- The example words of the reference (chapters 18 to 22). -/
theorem test_example_words : decodesAll [
    (0x0C004083#32, .and 0 0 4 2 3), (0x0C4C4086#32, .andn 0 1 4 2 6), (0x0C347247#32, .bfi 0 7 9 7),
    (0x10007FFF#32, .iaddi 0 0 7 0xFFF), (0x1018701F#32, .shriI 0 0 7 31), (0x18008084#32, .faddF64 0 8 2 4),
    (0x2D285083#32, .fcmpF32 1 10 5 2 3), (0x29086105#32, .icmp 1 0 2 6 4 5), (0x38888101#32, .vunpkB 0 8 4 1),
    (0x3C0C4187#32, .vsetl 0 4 6 7), (0x40081200#32, .xadd 0 1 8), (0x4461306F#32, .tacc 0 0 1 12 6 15),
    (0x49444183#32, .shflx 1 1 4 6 3), (0x4A144189#32, .reduce 2 0 4 6 9), (0x551C4ABC#32, .smovi 1 4 0xABC),
    (0x59285187#32, .scmp 1 10 5 6 7), (0x5D045187#32, .ssel 1 5 6 7), (0x612258F0#32, .brnz 1 9 0x18F0),
    (0x61450080#32, .call 1 20 0x80), (0x61624000#32, .join 9), (0x65000000#32, .exit 1), (0x65230000#32, .refillWarp 12),
    (0x65500001#32, .bara 1), (0x65800000#32, .nop 1), (0x68282003#32, .ld 0 2 2 0 8 0 3),
    (0x701D1472#32, .lds 0 1 3 1 5 7 2), (0x74051472#32, .sts 0 1 1 5 7 2), (0x7C0C2825#32, .atoml 0 0 12 10 2 5),
    (0x81001053#32, .cflush 1 4 5), (0x85067186#32, .qstamp 1 0 3 14 12), (0x89021800#32, .cpy 1 2 6),
    (0x8F055000#32, .xfer 3 5 20), (0x950320C0#32, .mmk 1 3 8 12), (0x9B043000#32, .mmj 3 4 12),
    (0x9D020015#32, .waitbHandle 1 2 1), (0x9D001005#32, .waitbBatch 1 4), (0x9D121C02#32, .hmovs 1 1 2 7),
    (0xA1001870#32, .npost 1 6 7), (0xA12024A3#32, .tcrd 1 2 9 10), (0xA5021872#32, .crest 2 6 7), (0xA5011005#32, .haltc 1 4),
    (0xFC80000D#32, .hintMemord 0 0 3 1), (0xFCC0000D#32, .hintArith 0 0 0 1 1 1), (0xFD80012C#32, .hintRemote 300)] = true := by
  decide +kernel

theorem test_reserved_words : ([0x00000000#32, 0x043C0000#32, 0x0C3C0000#32, 0x043C0001#32, 0x04280001#32, 0x61800000#32,
    0xA4000000#32, 0xFDC00000#32] : List Word).all (fun w => match decodeWord w with | .ok _ => false | _ => true) = true := by
  decide +kernel

/-! ### One step -/

/-- A warp of the block of `withFetchWord`, changed by `f`, about to issue a word. -/
def ready (w : Word) (f : Warp → Warp) : State := (State.reset.withFetchWord 32 w.toNat).modWarp 0 0 0 f

/-- The state after one step. -/
def after (s : State) : State := match step s with | .next t => t | _ => State.reset

/-- The warp. -/
def warpOf (s : State) : Warp := (s.warp? 0 0 0).getD benchWarp

/-- Its split. -/
def splitOf (s : State) : Split := (s.split? 0 0 0 0).getD Split.empty

/-- Vector registers with every lane equal. -/
def vs (l : List (Nat × Word)) (w : Warp) : Warp := l.foldl (fun w p => w.setVec p.1 (Vec.splat p.2)) w

/-- Scalar registers. -/
def ss (l : List (Nat × DWord)) (w : Warp) : Warp := l.foldl (fun w p => w.setS p.1 p.2) w

/-- Lane 5 of a vector register after one step. -/
def vOut (n : Nat) (s : State) : Word := (warpOf (after s)).v n 5

/-- A scalar register after one step. -/
def sOut (n : Nat) (s : State) : DWord := (warpOf (after s)).s n

/-- Cause of the record that the step's trap sends to firmware. -/
def causeOut (s : State) : List Nat := ((after s).ctx 1).records.map fun r => recField r.words 0 0 9

-- Table 19.9
theorem test_iadds_i32 : vOut 6 (ready 0x042C6105#32 (vs [(4, 0x7FFFFFF0), (5, 0x20)])) = 0x7FFFFFFF#32 := by decide +kernel
theorem test_iadds_n32 : vOut 6 (ready 0x04306105#32 (vs [(4, 0xFFFFFFF0), (5, 0x20)])) = 0xFFFFFFFF#32 := by decide +kernel
theorem test_isubs_n32 : vOut 6 (ready 0x04386105#32 (vs [(4, 5), (5, 7)])) = 0#32 := by decide +kernel
theorem test_imulh_i32 : vOut 6 (ready 0x040C6105#32 (vs [(4, 0xFFFFFFFE), (5, 3)])) = 0xFFFFFFFF#32 := by decide +kernel
theorem test_imulh_n32 : vOut 6 (ready 0x04106105#32 (vs [(4, 0xFFFFFFFE), (5, 3)])) = 2#32 := by decide +kernel
theorem test_imin_i32 : vOut 6 (ready 0x04186105#32 (vs [(4, 0xFFFFFFFF), (5, 1)])) = 0xFFFFFFFF#32 := by decide +kernel
theorem test_imin_n32 : vOut 6 (ready 0x041C6105#32 (vs [(4, 0xFFFFFFFF), (5, 1)])) = 1#32 := by decide +kernel
theorem test_iabs : vOut 6 (ready 0x04286100#32 (vs [(4, 0x80000000)])) = 0x80000000#32 := by decide +kernel
-- Table of R323
theorem test_bfx_n : vOut 5 (ready 0x0C2C5187#32 (vs [(6, 0x1234ABCD), (7, 0x804)])) = 0xBC#32 := by decide +kernel
theorem test_bfx_i : vOut 5 (ready 0x0C305187#32 (vs [(6, 0x1234ABCD), (7, 0x804)])) = 0xFFFFFFBC#32 := by decide +kernel
theorem test_bfx_clip : vOut 5 (ready 0x0C2C5187#32 (vs [(6, 0x1234ABCD), (7, 0x201C)])) = 1#32 := by decide +kernel
theorem test_bfi : vOut 8 (ready 0x0C348247#32 (vs [(8, 0xFFFF0000), (9, 0xA5), (7, 0x804)])) = 0xFFFF0A50#32 := by
  decide +kernel
theorem test_clz : vOut 2 (ready 0x0C2420C0#32 (vs [(3, 0x100)])) = 23#32 := by decide +kernel
theorem test_brev : vOut 2 (ready 0x0C2820C0#32 (vs [(3, 1)])) = 0x80000000#32 := by decide +kernel
theorem test_vsel : vOut 4 (ready 0x0C384187#32 (vs [(4, 0xFFFF0000), (6, 0x12345678), (7, 0x9ABCDEF0)])) = 0x1234DEF0#32 := by
  decide +kernel
-- Table 21.2
theorem test_sshr_i_mod : sOut 5 (ready (wordA 0x14 1 0 9 5 6 7) (ss [(6, 0x8000000000000000), (7, 68)]))
    = 0xF800000000000000#64 := by decide +kernel
theorem test_smin_n : sOut 5 (ready (wordA 0x14 1 0 11 5 6 7) (ss [(6, 0xFFFFFFFFFFFFFFFF), (7, 1)])) = 1#64 := by decide +kernel
theorem test_sffs : sOut 5 (ready (wordA 0x14 1 0 15 5 6 0) (ss [(6, 0xA00)])) = 9#64 := by decide +kernel
theorem test_sffs_zero : sOut 5 (ready (wordA 0x14 1 0 15 5 6 0) id) = 64#64 := by decide +kernel
theorem test_spopc : sOut 5 (ready (wordA 0x14 1 0 14 5 6 0) (ss [(6, 0xFFFF00000000000F)])) = 20#64 := by decide +kernel
-- R404
theorem test_scmp_lt_i : sOut 5 (ready 0x59085187#32 (ss [(6, 0xFFFFFFFFFFFFFFFF), (7, 1)])) = 1#64 := by decide +kernel
theorem test_scmp_lt_n : sOut 5 (ready 0x59185187#32 (ss [(6, 0xFFFFFFFFFFFFFFFF), (7, 1)])) = 0#64 := by decide +kernel
-- R412
theorem test_ssel_keeps : sOut 5 (ready 0x5D045187#32 (ss [(5, 3), (6, 9)])) = 3#64 := by decide +kernel
-- Table 19.4
theorem test_fmin_nan : vOut 4 (ready 0x14104083#32 (vs [(2, 0x7FC00001), (3, 0x3F800000)])) = 0x3F800000#32 := by decide +kernel
theorem test_fmin_snan_flag : (warpOf (after (ready 0x14104083#32 (vs [(2, 0x7F800001), (3, 0x3F800000)])))).fpflags = 1#8 := by
  decide +kernel
theorem test_fmax_zero : vOut 4 (ready 0x14144083#32 (vs [(2, 0x80000000), (3, 0)])) = 0#32 := by decide +kernel
theorem test_frnd_rne : vOut 4 (ready 0x142C4080#32 (vs [(2, 0xC0200000)])) = 0xC0000000#32 := by decide +kernel
theorem test_fscale : vOut 4 (ready 0x14204083#32 (vs [(2, 0x3FC00000), (3, 127)])) = 0x7F400000#32 := by decide +kernel
theorem test_fscale_over : vOut 4 (ready 0x14204083#32 (vs [(2, 0x3FC00000), (3, 128)])) = 0x7F800000#32 := by decide +kernel
theorem test_fclass_sub : vOut 4 (ready 0x14284080#32 (vs [(2, 1)])) = 0x20#32 := by decide +kernel
theorem test_fclass_flushed : vOut 4 (ready 0x14284080#32 (fun w => { vs [(2, 1)] w with fpm := 4 })) = 0x10#32 := by decide +kernel
theorem test_fdiv_zero : vOut 4 (ready 0x14244083#32 (vs [(2, 0x3F800000), (3, 0x80000000)])) = 0xFF800000#32 := by decide +kernel
theorem test_fadd_bf16x2 : vOut 4 (ready 0x20004083#32 (vs [(2, 0x40003F80), (3, 0x3F803B80)])) = 0x40403F80#32 := by decide +kernel
theorem test_fabs_nan : vOut 4 (ready 0x14184080#32 (vs [(2, 0xFFC00000)])) = 0x7FC00000#32 := by decide +kernel
theorem test_fmin_traps : causeOut (ready 0x14104083#32 (fun w => { vs [(2, 0x7F800001), (3, 0x3F800000)] w with fpm := 8 }))
    = [0x1C0] := by decide +kernel
-- The examples of R438 (.regs 16, 20, 0 stands for the bench's 56 and 16 registers: base + limit is within both)
theorem test_xset_xget : ((warpOf (after (ready 0x40001180#32 (vs [(6, 0x00031410)])))).x 1 5) = 0x00031410#32 := by decide +kernel
theorem test_xadd : ((warpOf (after (ready 0x40081200#32 (fun w =>
    { vs [(8, 0xFF)] w with xregs := setAt w.xregs 1 (Vec.splat 0x00031410) })))).x 1 5) = 0x00021410#32 := by decide +kernel
theorem test_xset_beyond : causeOut (ready 0x40001180#32 (vs [(6, 0x0003FF10)])) = [0x044] := by decide +kernel
-- R340: BRNZ.warp s9 of 10,000 words back; a target beyond; a RET
theorem test_brnz_taken : (splitOf (after (ready 0x61227FFB#32 (ss [(9, 1)])))).pc = 0x2002C#64 := by decide +kernel
theorem test_brnz_falls : (splitOf (after (ready 0x61227FFB#32 id))).pc = 0x20044#64 := by decide +kernel
theorem test_call : sOut 20 (ready 0x61450080#32 id) = 0x20044#64 ∧ (splitOf (after (ready 0x61450080#32 id))).pc = 0x20240#64 := by
  decide +kernel
-- R401, R373
theorem test_iaddi : vOut 7 (ready 0x10007FFF#32 (vs [(7, 0)])) = 0xFFFFFFFF#32 := by decide +kernel
theorem test_saddi : sOut 5 (ready 0x55005FFF#32 (ss [(5, 7)])) = 6#64 := by decide +kernel
theorem test_sshri_i : sOut 5 (ready 0x5518503F#32 (ss [(5, 0x8000000000000000)])) = 0xFFFFFFFFFFFFFFFF#64 := by decide +kernel
-- Table 17.8: the all-zero word, a privileged word, set scope in no set, an operand beyond the allocation's window
theorem test_zero_word : causeOut (ready 0#32 id) = [0x001] := by decide +kernel
theorem test_privileged : causeOut (ready 0xA5001004#32 id) = [0x1E3] := by decide +kernel
theorem test_no_set : causeOut (ready 0x4A144189#32 id) = [0x182] := by decide +kernel
-- R338, R428
theorem test_bpt : causeOut (ready 0x65900000#32 id) = [0x1E1] := by decide +kernel
theorem test_trap : causeOut (ready 0x65A00005#32 id) = [0x1F5] := by decide +kernel
-- R351: EXIT.warp retires; the block's only warp
theorem test_exit : (warpOf (after (ready 0x65000000#32 id))).retired = true := by decide +kernel
-- R416, R376: STS.n16.scr writes scratch, LDS.i16.scr reads it back with its sign
theorem test_sts : ((((after (ready 0x74051472#32 (fun w => vs [(5, 0x8899AABB)] (w.setVec 7 (Vec.of fun l => BitVec.ofNat 32 (2 * l)))))).core
    0).scratch).drop 126) = [(126, 0xBB), (127, 0xAA)] := by decide +kernel
theorem test_lds_i16 : vOut 5 ((ready 0x701D1472#32 (vs [(7, 4)])).modCore 0 fun c => { c with scratch := [(4, 1), (5, 0x80)] })
    = 0xFFFF8001#32 := by decide +kernel
-- R379: MTS.warp stamp
theorem test_mts_stamp : (warpOf (after (ready 0x5D0D4140#32 (ss [(5, 77)])))).stamp = 77#64 := by decide +kernel
-- R377: MFS v1, lane
theorem test_mfs_lane : vOut 1 (ready 0x3C101800#32 id) = 5#32 := by decide +kernel
-- R408: SHFLX exchanges with the lane whose number differs by the mask
theorem test_shflx : vOut 4 (ready (wordA 0x12 1 0 1 4 6 3) (fun w => ss [(3, 4)] (w.setVec 6 (Vec.of fun l => BitVec.ofNat 32 l))))
    = 1#32 := by decide +kernel
-- R360: ICMP.lt.i of lane numbers
theorem test_icmp : sOut 6 (ready 0x29086105#32 (fun w => vs [(5, 3)] (w.setVec 4 (Vec.of fun l => BitVec.ofNat 32 l)))) = 7#64 := by
  decide +kernel
-- Table 17.5: REDUCE.warp of n32 add over 64 lanes of 1
theorem test_reduce : vOut 4 (ready (wordA 0x12 1 0 5 4 6 0) (vs [(6, 1)])) = 64#32 := by decide +kernel
-- R311
theorem test_hint_binds : (splitOf (after (ready 0xFC400001#32 id))).hints = [0xFC400001#32] := by decide +kernel

/-! ### States that meet the hypotheses of the statements about instructions -/

/-- A state that is ready to issue. -/
def bench (f : Warp → Warp) : State := ready 0x65800000#32 f

/-- In a state an instruction issues as an instance that meets `H`. -/
def issues (s : State) (i : Instr) (m : Meta) (uni : Ix → State → Option Nat) (H : Ix → State → Bool)
    (extra : Block → Split → Bool := noExtra) : Bool :=
  match issuesAs i m extra uni s with
  | some (x, a) => H x a
  | none => false

/-- In a state an instruction issues, and where its effect begins `H` holds. -/
def begins (s : State) (i : Instr) (m : Meta) (uni : Ix → State → Option Nat) (H : Ix → State → Bool)
    (extra : Block → Split → Bool := noExtra) : Bool :=
  match issuesAs i m extra uni s with
  | some (x, a) => H (begun m x a).1 (begun m x a).2
  | none => false

/-- No active lane that is not a helper lane has an operand fault. -/
def fine (ops : List VOp) (x : Ix) (a : State) : Bool := decide (x.operandFaults a ops = [])

/-- No flag of a function is enabled. -/
def quiet (fl : Warp → Nat → Flags) (x : Ix) (a : State) : Bool := (x.warps a).all fun p => (p.2.lanesOn (x.em p.2)).all fun l =>
  decide ((fl p.2 l).toBits &&& ((x.fpm a >>> 3) &&& 0x1F#8) = 0#8)

/-- Pairs of registers that are numbers: 1.0 and 2.0. -/
def floats : State := bench (vs [(2, 0x3F800000), (3, 0x40000000), (4, 0), (5, 0x3FF00000), (6, 0), (7, 0x40000000)])

theorem witness_IntegerWordResults : issues floats (.imad32 0 1 8 2 4) (laneMeta 0 3 [vop 2 2, vop 4 2, vop 8 2] (vop 8 2)) noUniform
    (fine [vop 2 2, vop 4 2, vop 8 2]) = true := by decide +kernel
theorem witness_IntegerPairResults : issues floats (.isubsI64 1 8 2 4) (laneMeta 1 2 [vop 2 2, vop 4 2] (vop 8 2)) noUniform
    (fine [vop 2 2, vop 4 2, vop 8 2]) = true := by decide +kernel
theorem witness_BitOperationResults : issues floats (.bfi 0 8 2 63) (laneMeta 0 2 [vop 2 1, vop 63 1, vop 8 1] (vop 8 1)) noUniform
    (fine [vop 2 1, vop 63 1, vop 8 1]) = false
  ∧ issues (bench fun w => { w with xregs := setAt w.xregs 7 (Vec.splat 0x00000238) }) (.bfi 0 8 2 63)
      (laneMeta 0 2 [vop 2 1, vop 63 1, vop 8 1] (vop 8 1)) noUniform (fine [vop 2 1, vop 63 1, vop 8 1]) = true := by
  decide +kernel
theorem witness_ImmediateOperandResults : issues floats (.shriI 0 3 52 31) { laneMeta 0 2 [vop 52 8] (vop 52 8) with imm := true } noUniform
    (fine [vop 52 4]) = false
  ∧ issues floats (.shriI 0 2 52 31) { laneMeta 0 2 [vop 52 4] (vop 52 4) with imm := true } noUniform (fine [vop 52 4]) = true
  ∧ issues floats (.saddi 1 63 0x800) (scalarMeta 1 2 [63] 63 true) noUniform (fun _ _ => true) = true := by decide +kernel
theorem witness_ScalarArithmeticResults : issues floats (.smul 1 0 63 63) (scalarMeta 1 3 [63, 63] 0 false) noUniform
    (fun _ _ => true) = true ∧ issues floats (.sffs 1 0 1) (scalarMeta 1 2 [1] 0 false) noUniform (fun _ _ => true) = true := by
  decide +kernel
theorem witness_ScalarCompareAndMoveResults : issues floats (.scmp 1 11 5 6 7) (scalarMeta 1 2 [6, 7] 5 false) noUniform
    (fun _ _ => true) = true ∧ issues floats (.ssel 1 5 6 7) (scalarMeta 1 2 [6, 7, 5] 5 false) noUniform (fun _ _ => true) = true := by
  decide +kernel
theorem witness_FloatArithmeticResults : (let m : Meta := { laneMeta 0 6 [vop 2 1, vop 3 1] (vop 8 1) with
      arith := some { cmp := false, sr := false } }
    issues floats (.fdivF32 0 0 8 2 3) m noUniform (fun x a => fine [vop 2 1, vop 3 1, vop 8 1] x a
      && quiet (fun w l => (floatElems .f32 1 (vop 2 1) (vop 3 1) (vop 8 1) (fdivElem .f32) (x.fset a) (srDraw w l) w l).2) x a)) = true := by
  decide +kernel
theorem witness_PackedFloatResults : (let m : Meta := { laneMeta 0 3 [vop 2 1, vop 3 1] (vop 8 1) with
      arith := some { cmp := false, sr := true } }
    issues floats (.faddBf16x2 0 0 8 2 3) m noUniform (fun x a => fine [vop 2 1, vop 3 1, vop 8 1] x a
      && quiet (fun w l => (floatElems .bf16 1 (vop 2 1) (vop 3 1) (vop 8 1) (faddElem .bf16) (x.fset a) (srDraw w l) w l).2) x a)) = true := by
  decide +kernel
theorem witness_TranscendentalResults : (let m : Meta := { laneMeta 0 6 [vop 2 1] (vop 8 1) with
      arith := some { cmp := false, sr := false } }
    issues floats (.fsqrt 0 0 8 2) m noUniform (fun x a => fine [vop 2 1, vop 8 1] x a
      && quiet (fun w l => (perElem 32 1 fun j => fsqrtElem ((x.fset a).env 0) (elemAt 32 (readOp w (vop 2 1) l) j)).2) x a)) = true := by
  decide +kernel
theorem witness_CompareResults : issues floats (.icmp 1 1 11 5 2 4) (compareMeta 1 2 5 2 4 none) noUniform (fine [vop 2 2, vop 4 2]) = true
  ∧ issues floats (.fcmpF32 1 13 5 2 3) (compareMeta 1 1 5 2 3 (some { cmp := true, sr := false })) noUniform (fun x a =>
      fine [vop 2 1, vop 3 1] x a
      && quiet (fun w l => (floatCompare .f32 (x.fset a).ftz 13 (readOp w (vop 2 1) l) (readOp w (vop 3 1) l)).2) x a) = true := by
  decide +kernel
theorem witness_ConversionResults : issues floats (.fcvt 0 0 3 1 0 8 2 0 4) (laneMeta 0 3 [vop 2 1] (vop 8 1)) noUniform (fun x a =>
      fine [vop 2 1, vop 8 1] x a && quiet (fun w l => (convert (cvtType 0 0) (cvtType 0 4)
        (FSet.env { mode := 3, ftz := bit (x.fpm a) 2, sat := true, sr := false } 0) (readOp w (vop 2 1) l)).2) x a) = true := by
  decide +kernel
theorem witness_ArithmeticTrapsAfterResults : (let m : Meta := { laneMeta 0 3 [vop 2 1, vop 3 1] (vop 8 1) with
      arith := some { cmp := false, sr := false } }
    issues (bench fun w => { vs [(2, 0x7F800001), (3, 0)] w with fpm := 8 }) (.faddF32 0 0 8 2 3) m noUniform (fun x a =>
      fine [vop 2 1, vop 3 1, vop 8 1] x a
      && !quiet (fun w l => (floatElems .f32 1 (vop 2 1) (vop 3 1) (vop 8 1) (faddElem .f32) (x.fset a) (srDraw w l) w l).2) x a)) = true := by
  decide +kernel
theorem witness_PackAndMoveResults : issues floats (.vunpkB 0 52 2 1) (laneMeta 0 2 [vop 2 1] (vop 52 4)) noUniform
    (fine [vop 2 1, vop 52 4]) = true
  ∧ issues floats (.vmovs 0 55 63) { laneMeta 0 2 [] (vop 55 1) with srcs := [.s 63] } noUniform (fine [vop 55 1]) = true := by
  decide +kernel
theorem witness_LaneAccessResults : issues floats (.vget 1 5 2 6)
    { sc := 1, dist := 2, vin := [vop 2 1], srcs := [.s 6], dsts := [.s 5] } noUniform
    (fun x s => (laneValue x s (vop 2 1) (givenPosition x s 6)).2.isEmpty) = true
  ∧ issues (bench (ss [(7, 63)])) (.vsetl 0 8 6 7) { sc := 0, dist := 2, srcs := [.s 6, .s 7], vout := [vop 8 1] } noUniform
    (fun x s => match x.activeAt s (givenPosition x s 7) with
      | some (q, l) => decide (l = 63) && (laneFault q l [vop 8 1]).isNone
      | none => false) = true := by decide +kernel
theorem witness_IndexRegisterResults : issues (bench (vs [(6, 0x00103810)])) (.xset 0 7 6)
    { sc := 0, dist := 2, vin := [vop 6 1], dsts := [.x 7] } noUniform (fun x s => fine [vop 6 1] x s && (x.warps s).all fun p =>
      (p.2.lanesOn (x.em p.2)).all fun l => decide ((wordIn p.2 (vop 6 1) l 0).toNat % 256
        + (wordIn p.2 (vop 6 1) l 0).toNat / 256 % 256 ≤ 72)) = true
  ∧ issues floats (.xadd 0 7 2) { sc := 0, dist := 2, vin := [vop 2 1], srcs := [.x 7], dsts := [.x 7] } noUniform (fine [vop 2 1]) = true
  ∧ issues floats (.xget 0 8 7) { laneMeta 0 2 [] (vop 8 1) with srcs := [.x 7] } noUniform (fine [vop 8 1]) = true := by decide +kernel
theorem witness_SpecialRegisterResults :
    issues floats (.mfsVector 0 8 37) (laneMeta 0 2 [] (vop 8 1)) (fun _ _ => none) (fine [vop 8 1]) = true
  ∧ issues floats (.mfsScalar 1 8 31) (scalarMeta 1 2 [] 8 false) (fun _ _ => none) (fun x s => (x.warp? s x.lead).isSome) = true
  ∧ ([0, 16, 17, 20, 37].all fun d => issues floats (.mts 1 d 4) { sc := 1, srcs := [.s 4] }
      (fun x s => if mayWriteSpecial d.toNat x s then none else some 0x048) (fun _ _ => true)) = true
  ∧ issues (bench fun w => { w with frozen := some (w.splits, 0) }) (.mts 1 31 4) { sc := 1, srcs := [.s 4] }
      (fun x s => if mayWriteSpecial 31 x s then none else some 0x048) (fun _ _ => true) = true := by decide +kernel
theorem witness_TileResults :
    issues floats (.trd 0 1 7 8 4 15) { sc := 0, dist := 3, srcs := [.s 4], vout := [vop 8 2] } (sliceFault 7 4 15) (fine [vop 8 2]) = true
  ∧ issues floats (.tacc 0 0 7 2 4 15) { sc := 0, dist := 3, vin := [vop 2 2], srcs := [.s 4] } (sliceFault 7 4 15) (fun x s =>
      fine [vop 2 2] x s && enables x s == 0#8 && Mem.wf (s.core x.core).tiles) = true
  ∧ issues floats (.tzero 0 0 7 4 15) { sc := 0, dist := 3, srcs := [.s 4] } (sliceFault 7 4 15) (fun x s =>
      Mem.wf (s.core x.core).tiles) = true := by decide +kernel
theorem witness_PermutationResults :
    issues floats (.shfl 1 1 8 2 4) { sc := 1, vin := [vop 2 2, vop 4 1], vout := [vop 8 2] } noUniform (fine [vop 2 2, vop 4 1, vop 8 2]) = true
  ∧ issues floats (.bcast 1 0 8 2 4) { sc := 1, vin := [vop 2 1], srcs := [.s 4], vout := [vop 8 1] } noUniform (fine [vop 2 1, vop 8 1]) = true
  ∧ issues floats (.qxch 1 0 8 2 3) { sc := 1, vin := [vop 2 1], vout := [vop 8 1] } noUniform (fine [vop 2 1, vop 8 1]) = true := by
  decide +kernel
theorem witness_CollectiveResults :
    issues floats (.scan 1 1 8 2 14) { sc := 1, vin := [vop 2 2], vout := [vop 8 2] } noUniform (fine [vop 2 2, vop 8 2]) = true
  ∧ issues floats (.vote 1 8 2 3) { sc := 1, vin := [vop 2 1], dsts := [.s 8] } noUniform (fine [vop 2 1]) = true := by decide +kernel
theorem witness_BranchResults :
    issues floats (.brz 1 4 0x3FFF) (branchMeta 1 [4]) noUniform (fun _ _ => true) = true
  ∧ issues floats (.call 1 63 0x1FFF) { branchMeta 1 [] with dsts := [.s 63] } noUniform (fun _ _ => true) = true
  ∧ issues floats (.ret 1 63) { sc := 1, dist := 2, srcs := [.s 63] } noUniform (fun _ _ => true) = true := by decide +kernel
theorem witness_DivergingBranchResults : ([0, 0xFFFFFFFFFFFFFFFF, 1] : List DWord).all (fun v =>
    issues (bench (ss [(4, v)])) (.brx 4 0x3FFF) { branchMeta 1 [4] with handler := false } (fun x s => brxFull x s 4)
      (fun x a => ((x.warp? a x.lead).bind fun w => w.splits[x.split]?).isSome)) = true := by decide +kernel
/-- A second split of the lanes 32 to 63. -/
def diverged (pc : BitVec 64) (w : Warp) : Warp :=
  let p := (w.splits.head?).getD Split.empty
  { w with splits := [{ p with lanes := 0xFFFFFFFF#64, em := 0xFFFFFFFF#64, depth := 1 },
      { p with lanes := 0xFFFFFFFF00000000#64, em := 0xFFFFFFFF00000000#64, depth := 1, pc := pc }] ++ w.splits.drop 2 }
theorem witness_JoinResults : (let m : Meta := { sc := 1, dist := 2, srcs := [.s 4], handler := false }
    issues floats (.join 4) m noUniform (fun x a => (x.warp? a x.lead).any fun w => decide (w.valid.length ≤ 1))
    && begins (bench (diverged 0x20044)) (.join 4) m noUniform (fun x a => (x.warp? a x.lead).any fun w => decide (1 < w.valid.length))) = true := by
  decide +kernel
theorem witness_JoinResults_pair : (let w := diverged 0x20040 benchWarp
    let w := { w with splits := (modAt w.splits 0 fun p => { p with jwait := true }).take 2 }
    match w.splits with
    | [p, q] => p.valid && q.valid && p.jwait && !q.jwait && p.pc == q.pc && p.depth == q.depth && decide (0 < p.depth)
    | _ => false) = true := by decide +kernel
/-- A split of the warp waits at the JOIN at which the other one issues. -/
def joining (s : State) : State := s.modWarp 0 0 0 fun w => { w with splits := modAt w.splits 1 fun p => { p with jwait := true } }
theorem witness_JoinResults_completes : issues (joining (bench (diverged 0x20040))) (.join 4)
    { sc := 1, dist := 2, srcs := [.s 4], handler := false } noUniform (fun x a => x.hints.isEmpty
      && (x.warp? a x.lead).any fun w => (w.splits[x.split]?).any fun p => decide (1 < w.valid.length)
        && w.splits.all (fun q => !q.valid || !q.jwait || decide (q.jdue < 2))
        && (List.range 8).all fun j => j == x.split || (w.splits[j]?).all fun q => !q.valid || decide (q.depth < p.depth)
          || q.inGroup x.pc p.depth) = true := by decide +kernel
theorem witness_PlainControlResults :
    issues floats (.nop 1) { sc := 1, dist := 2 } noUniform (fun _ _ => true) = true
  ∧ issues floats (.region 0xFF) { sc := 1, dist := 2, handler := false } noUniform (fun _ _ => true) = true
  ∧ issues (bench (ss [(4, 1)])) (.grow 1 4) { sc := 1, dist := 2, srcs := [.s 4], handler := false } (fun x s => growFault x s 4)
      (fun x a => (x.block? a).isSome) = true := by decide +kernel
/-- An instruction that waits for its operands, and one for which their delivery has begun. -/
theorem witness_PlainControlResults_operands :
    (let m := laneMeta 0 2 [vop 1 1, vop 60 1] (vop 3 1)
     let s (o : Option (BitVec 64 × Nat)) : State := floats.modSplit 0 0 0 0 fun q => { q with operands := o }
     let due (s : State) (d : Nat) : Bool := match s.block? 0 0, s.warp? 0 0 0, s.split? 0 0 0 0 with
       | some b, some w, some q => canIssue s s.port && !lookaheadWait q && q.redo.isNone
         && (firstCheck (.iadd32 0 0 3 1 60) m true s b 0 w q).isNone && (boundsCheck b m).isNone && (contractCheck w q m).isNone
         && operandDelay m w == d && operandsOut s w q m
       | _, _, _ => false
     due (s none) 8 && due ((s none).modWarp 0 0 0 fun w => { w with staged := 1 }) 4 && due (s (some (0x20040, 1))) 8
     && ((awaitOperands (s none) floats.port benchWarp m).split? 0 0 0 0).any fun q =>
       q.operands == some (0x20040, 8) && q.stall == .operandMiss) = true := by decide +kernel
theorem witness_SetDefinitionResults :
    begins floats (.setdef 4 7) { sc := 3, dist := 2, srcs := [.s 4], handler := false } noUniform (fun _ _ => true) = true
  ∧ 7 < benchBlock.sets.length := by decide +kernel
/-- A window of a result that has not been written. -/
def pendingWin (p : Pend) : Window := { regs := [.v 9], left := 3, pend := p, pc := 0x20000 }
/-- The warp's split with a result that another device owes. -/
def owed (p : Pend) (w : Warp) : Warp := { w with splits := modAt w.splits 0 fun q => { q with wins := [pendingWin p] } }
/-- The warp's lanes hold an item of a pipe slot, and a write of it is with another device. -/
def holding (s : State) : State := (State.modSplit { s with remPend := [(0,
    { core := 0, slot := 0, warp := 0, split := 0, lane := 0, kind := 1, dst := [], size := 4, signed := false, keep := 0, group := 0
      asid := 1, va := 0, acq := false, ins := 0 })] } 0 0 0 0 fun p => { p with rem := [0] }).modWarp 0 0 0 fun w =>
  { w with pipeItems := [(5, 0, 1#64)] }
theorem witness_ExitResults : (let held (x : Ix) (s : State) : Bool := itemsWait s x.core x.slot ((x.warps s).map fun p => (p.1, p.2.live))
    let heldLanes (x : Ix) (s : State) : Bool := (x.warp? s x.lead).any fun w =>
      itemsWait s x.core x.slot [(x.lead, w.s 4 &&& w.live &&& x.em w)]
    begins floats (.exit 1) { sc := 1, dist := 2 } noUniform (fun x s => !x.pending s && !held x s)
    && begins (holding floats) (.exit 1) { sc := 1, dist := 2 } noUniform (fun x s => !x.pending s && held x s)
    && begins (holding (bench (ss [(4, 1)]))) (.exitl 4) { sc := 0, dist := 2, srcs := [.s 4], handler := false } noUniform heldLanes
    && begins floats (.exitl 4) { sc := 0, dist := 2, srcs := [.s 4], handler := false } noUniform
      (fun x s => (x.warp? s x.lead).isSome && !heldLanes x s)) = true
  ∧ begins (bench (owed .xshuf)) (.exit 1) { sc := 1, dist := 2 } noUniform (fun x s => x.pending s) = true := by decide +kernel
/-- The bench's block stands at its refill point, of an item form. -/
def atPoint (form : Nat) (s : State) : State :=
  s.modBlock 0 0 fun b => { b with kernel := { b.kernel with items := form, refill := 1 }
                                   warps := b.warps.map fun w => { w with splits := modAt w.splits 0 fun p => { p with pc := b.kernel.addr + 0x44 } } }
theorem witness_RefillResults : (let m (sc : Nat) : Meta := { sc := sc, dist := 2, dsts := [.s 4], handler := false }
    let now (x : Ix) (s : State) : Bool := !refillBlocks x (screenSlots (x.gridKey s) takeFuel s) && (x.warps s).all fun p => !p.2.pendingResults
    let alone (x : Ix) (s : State) : Bool := (x.warp? s x.lead).any fun w => !reconverging x w
    let held (x : Ix) (s : State) : Bool := (x.warp? s x.lead).any fun w => reconverging x w
    begins (atPoint 0 floats) (.refill 4) (m 0) noUniform (fun x s => alone x s && now x s) (atRefill 0)
    && begins (atPoint 1 floats) (.refillWarp 4) (m 1) noUniform (fun x s => alone x s && now x s) (atRefill 1)
    && begins (atPoint 2 floats) (.refillBlock 4) (m 3) noUniform now (atRefill 2)
    && begins (atPoint 0 (bench (diverged 0x20080))) (.refill 4) (m 0) noUniform held (atRefill 0)
    && begins (atPoint 1 (bench (diverged 0x20080))) (.refillWarp 4) (m 1) noUniform held (atRefill 1)) = true := by decide +kernel
/-- A lone block at its refill point whose grid's range has items left; the warp's live lanes. -/
def drawing (form : Nat) (live : Mask) : State :=
  State.modWarp { atPoint form floats with grids := [(0, { benchGrid with next := 0 })] } 0 0 0 fun w => { w with live := live }
theorem witness_RefillResults_draws : (let m (sc : Nat) : Meta := { sc := sc, dist := 2, dsts := [.s 4], handler := false }
    let ready_ (x : Ix) (a : State) (H : Block → Warp → Bool) : Bool := (x.block? a).any fun b => (x.warp? a x.lead).any fun w =>
      ((a.grids.get? b.grid).any fun g => g.qpipe.isNone && g.returned.isEmpty && decide (g.next < g.stop))
      && b.blockInst.isNone && b.setInst.isEmpty && !(a.core x.core).assignsNothing && decide (0 < b.kernel.lanesN) && H b w
    let empty (x : Ix) (a : State) : Bool := (x.warps a).all fun p => p.2.live == 0#64
    issues (drawing 0 0xFF) (.refill 4) (m 0) noUniform (fun x a => ready_ x a fun b w => !reconverging x w
      && !((List.range 64).filter fun l => decide (l < b.kernel.lanesN) && !w.live.getLsbD l).isEmpty) (atRefill 0)
    && issues (drawing 1 0) (.refillWarp 4) (m 1) noUniform (fun x a => ready_ x a fun _ w => !reconverging x w && empty x a) (atRefill 1)
    && issues (drawing 2 0) (.refillBlock 4) (m 3) noUniform (fun x a => ready_ x a fun b w => empty x a && w.live == 0#64
      && b.warps.all fun q => q.retired || q.live == 0#64) (atRefill 2)) = true := by decide +kernel
/-- The bench's block with an open barrier instance at which warp 0 has arrived. -/
def barOpen (pc : BitVec 64) (l : List Nat) (s : State) : State :=
  s.modBlock 0 0 fun b => { b with blockInst := some { Inst.opened pc 4096 (some false) with arrived := l } }
theorem witness_BarrierResults : (let m : Meta := { sc := 1, dist := 2 }
    let held (x : Ix) (s : State) : Bool := (x.block? s).any fun b => b.blockInst.any fun i => i.bar.isSome && i.arrived.contains x.lead
    begins floats (.bar 0) m noUniform (fun x s => (x.block? s).isSome && !held x s)
    && begins (barOpen 0x20040 [] floats) (.bara 1) m noUniform (fun x s => !held x s && (x.block? s).any fun b =>
        b.blockInst.all fun i => i.pc == x.pc)
    && issues floats (.barw 0) m noUniform (fun x s => (x.block? s).isSome && !held x s)
    && begins (barOpen 0x20000 [0] floats) (.barw 1) m noUniform held) = true := by decide +kernel
theorem witness_TrapInstructionResults : (let m : Meta := { sc := 1, dist := 2 }
    let held (s : State) : State := { s with ctxs := modKey s.ctxs 1 fun x => { x with dbgctl := 0x440#64 } }
    begins (held floats) .bpt m noUniform (fun x s => bit (s.ctx (x.asid s)).dbgctl 10)
    && issues floats .bpt m noUniform (fun x s => !bit (s.ctx (x.asid s)).dbgctl 10)
    && issues floats (.trap 1 15) m noUniform (fun x _ => decide x.members.Nodup)) = true := by decide +kernel

/-! ### Memory, pipes, engines, handles, network, system -/

/-- A load of `n` bytes of a space, and what the contract needs of it. -/
def loadOp (n sp : Nat) : MemOp := { acc := .load, n := n, w := 1, sp := sp, signed := false, aop := 0 }
def loadMeta (sp : Nat) : Meta := memMeta 0 0 .load false sp (vop 8 1) (vop 2 1) 3 true false
def ldOf (sp : BitVec 2) : Instr := .ld 0 0 0 sp 8 2 3
/-- Lane l's offset is 4 l above a base. -/
def strided (base : DWord) (w : Warp) : Warp := ss [(3, base)] (w.setVec 2 (Vec.of fun l => BitVec.ofNat 32 (4 * l)))
def runs (op : MemOp) (x : Ix) (s : State) : Bool :=
  fine [vop 8 1, vop 2 1] x s && (x.block? s).isSome && !memHeld op (vop 8 1) (vop 2 1) 3 x s && x.deferred.isEmpty
    && (memOut op (vop 8 1) (vop 2 1) 3 x s).hits.isEmpty && (memOut op (vop 8 1) (vop 2 1) 3 x s).tags.isEmpty
    && (memOut op (vop 8 1) (vop 2 1) 3 x s).ins.isNone
/-- A rebase is in progress. -/
def rebasing (s : State) : State := { s with rebasing := true }

/-- A load of a space at a base whose lanes' results meet `H`. -/
def loads (sp base : Nat) (H : LaneOut → Bool) : Bool :=
  begins (bench (strided (BitVec.ofNat 64 base))) (ldOf (BitVec.ofNat 2 sp)) (loadMeta sp) noUniform fun x s =>
    runs (loadOp 4 sp) x s && H (memOut (loadOp 4 sp) (vop 8 1) (vop 2 1) 3 x s)
theorem witness_MemoryInstructionResults : (loads 0 0x30000 (fun o => o.trans.isEmpty && o.bad.isEmpty) && loads 1 0 (fun o => o.trans.isEmpty && o.bad.isEmpty)
    && loads 0 0x2000000000 (fun o => !o.trans.isEmpty) && loads 0 2 (fun o => o.trans.isEmpty && !o.bad.isEmpty)
    && begins (rebasing (bench (strided 0))) (ldOf 1) (loadMeta 1) noUniform (fun x s =>
        fine [vop 8 1, vop 2 1] x s && (x.block? s).isSome && memHeld (loadOp 4 1) (vop 8 1) (vop 2 1) 3 x s)) = true := by decide +kernel
/-- `plainMemory` as a test. -/
def plain (x : Ix) (s : State) : Bool := (hintOf x.hints 2).isNone && !missFull s x.core && x.todo.isEmpty && x.deferred.isEmpty
  && (x.warps s).all fun p => decide (p.2.vregs.length ≤ 1024)
/-- Every lane's access of `z` bytes lies in scratch. -/
def fits (z : Nat) (x : Ix) (s : State) : Bool := (x.block? s).any fun b => (x.warps s).all fun p =>
  (p.2.lanesOn (x.em p.2)).all fun k => scratchFits x s b z (laneOffset x s (vop 2 1) 3 p.2 k)
theorem witness_ScratchAccessResults : (issues (bench (strided 0x300)) (ldOf 1) (loadMeta 1) noUniform (fun x s => fine [vop 8 1, vop 2 1] x s && plain x s && fits 4 x s)
    && issues (bench (strided 0)) (.sts 0 1 1 8 2 3) (memMeta 0 0 .store false 1 (vop 8 1) (vop 2 1) 3 false true) noUniform
      (fun x s => fine [vop 8 1, vop 2 1] x s && plain x s && fits 2 x s && Mem.wf (s.core x.core).scratch)) = true := by decide +kernel
theorem witness_ClusterAtomicResults : issues (bench (strided 0)) (.atoml 0 0 0 8 2 3)
    (memMeta 0 0 .atomic false 0 (vop 8 1) (vop 2 1) 3 true true) noUniform (fun x s =>
      let l := (x.warps s).flatMap fun p => (p.2.lanesOn (x.em p.2)).map fun k =>
        (x.block? s).bind fun b => clusterAt x s b 4 (laneOffset x s (vop 2 1) 3 p.2 k)
      fine [vop 8 1, vop 2 1] x s && plain x s && (s.cores.all fun k => Mem.wf k.2.scratch) && l.all (·.isSome) && decide l.Nodup) = true := by
  decide +kernel
/-- A write of the bench's warp that another device has not completed. -/
def farWrite (s : State) : State :=
  State.modSplit { s with remPend := [(0, { core := 0, slot := 0, warp := 0, split := 0, lane := 0, kind := 1, dst := [], size := 4,
                                            signed := false, keep := 0, group := 0, asid := 1, va := 0, acq := false, ins := 0 })] }
    0 0 0 0 fun p => { p with rem := [0] }
theorem witness_FenceAndCacheResults : (let fence : Meta := { sc := 1, dist := 2, mem := some (.fence, false), access := true }
    let range : Meta := { sc := 1, dist := 2, srcs := [.s 4, .s 5], access := true }
    let wide : State := bench (ss [(4, 0x30000), (5, 0xFFFFFFFFD0000)])
    begins floats (.fence 1) fence noUniform (fun x s => !fenceWaits (fenceHow x.hints) x s)
    && begins (farWrite floats) (.fence 1) fence noUniform (fun x s => fenceWaits (fenceHow x.hints) x s)
    && begins floats (.pref 1 4) { sc := 1, dist := 2, srcs := [.s 4] } noUniform (fun _ _ => true)
    && begins floats (.cflush 1 4 5) range (rangeFault 4 5) (fun x s => x.rs s 5 == 0#64)
    && begins wide (.cflush 1 4 5) range (rangeFault 4 5) (fun x s => x.rs s 5 != 0#64)
    && begins wide (.disc 1 4 5) range (rangeFault 4 5) (fun _ _ => true)) = true := by decide +kernel

/-- A pipe of the bench's context, almanac 0, pipe 0, of four slots of 64 bytes. -/
def aPipe : Pipe :=
  { efmt := 0, rank := 1, scope := 1, unord := false, depth := 4, prod := 0, cons := 0, target := 0, dims := [1, 1, 1], ssize := 64
    resident := 4, slice := 0, entry := 0, array := 0x40000#64, peer := 0, peerPipe := 0, nearSide := false, nextGrant := 3, base := 0
    head := 0, slots := [(0, { Slot.blank .filled with hdr := sealHeader 5 }), (1, Slot.blank (.reserved 0 0 0)), (2, Slot.blank (.held 0 0))]
    commitQ := [], inflight := [], freeing := [], closed := false, eosSeq := none, eos := false, commits := 1, frees := 0, spills := 0
    lastStamp := 0, freeTs := [], endTs := 0, ets := 0, returned := [], matched := false, born := 0, peerLost := false, wanted := [], pins := [], spillWait := [] }
/-- Its almanac. -/
def anAlmanac : Almanac :=
  { pkt := 0, tag := 0, crec := 0, handoffTo := 2000, dlThresh := 20, mode := 0, hyst := 0, minInt := 0, maxMoves := 0, stages := [0]
    npipes := 1, draining := false, drainers := [], cycles := [] }
/-- The key of that pipe. -/
def aKey : Nat := pipeKey 1 0 0
/-- The bench's grid is stage 0 of the almanac, and stream register 2 is bound to the pipe. -/
def piped (consumer : Bool) (p : Pipe) (f : Warp → Warp) : State :=
  let s := bench fun w => f { w with qregs := setAt w.qregs 2 (some { pipe := aKey, consumer := consumer }) }
  { s with
    pipes := [(aKey, p)]
    ctxs := modKey s.ctxs 1 fun x => { x with alms := [(0, anAlmanac)] }
    grids := modKey s.grids 0 fun g => { g with alm := some 0 }
    blocks := s.blocks.map fun b => (b.1, { b.2 with held := [(aKey, 2)] })
    cores := s.cores.put 0 { s.core 0 with grants := [(aKey, { nums := [3], asked := false, coming := [], last := 0 })] } }
/-- The address of a slot of the pipe. -/
def slotAddr (n : Nat) (w : Warp) : Warp := ss [(10, aPipe.addrOf n)] w
theorem witness_PipeInstructionResults : (let m (srcs dsts : List (BitVec 6)) (st : Bool) : Meta := pipeMeta 1 none srcs dsts st
    let la (srcs dsts : List (BitVec 6)) : Meta := pipeMeta 1 (some 0) srcs dsts false
    let at_ (H : Nat → Pipe → Bool) (x : Ix) (s : State) : Bool := (pipeAt x s 2).any fun r => H r.1 r.2
    let popped (x : Ix) (s : State) (k : Nat) : Popped := (popNext s x.core x.slot k).1
    let none_ (side : Option Bool) (x : Ix) (s : State) : Option Nat := boundFault x s 2 side fun _ _ => none
    let closedAs (x : Ix) (s : State) : Option Nat := boundFault x s 2 (some false) fun _ p => if p.closed then some 0x143 else none
    let heldFault (x : Ix) (s : State) : Option Nat := boundFault x s 2 (some true) fun k p =>
      if (heldNum x s k p (x.rs s 10)).isNone then some 0x142 else none
    let stampFault (x : Ix) (s : State) : Option Nat := boundFault x s 2 none fun k p =>
      if (p.findSlot (x.rs s 10) (stampable x s k)).isNone then some 0x142 else none
    let ok (x : Ix) (s : State) : Bool := match openFault x s (x.rs s 4) with | .ok _ => true | .error _ => false
    let dry (p : Pipe) (s : State) : State :=
      { s with cores := s.cores.put 0 { s.core 0 with grants := [] }, pipes := [(aKey, p)] }
    let full : Pipe := { aPipe with nextGrant := 4, slots := aPipe.slots ++ [(3, Slot.blank (.reserved 1 0 0))] }
    let empty : Pipe := { aPipe with slots := aPipe.slots.drop 1, base := 1, head := 1 }
    begins (piped true aPipe id) (.qopen 1 7 4) (m [4] [] false)
      (fun x s => match openFault x s (x.rs s 4) with | .error e => some e | .ok _ => none) ok
    && begins (piped false aPipe id) (.qrsv 1 0 2 9) (la [] [9]) closedAs
      (fun x s => at_ (fun k _ => !(((drawGrants s x.core k).core x.core).grant k).nums.isEmpty) x s)
    && begins (dry full (piped false full id)) (.qrsv 1 0 2 9) (la [] [9]) closedAs
      (fun x s => at_ (fun k _ => (((drawGrants s x.core k).core x.core).grant k).nums.isEmpty) x s)
    && begins (piped false aPipe (slotAddr 1)) (.qcmt 1 2 11 10) (m [10, 11] [] true) (fun x s => commitFault x s 2 11 10)
      (fun x s => (x.block? s).isSome && at_ (fun _ p => !podWrites x s p && (reservedNum x p (x.rs s 10)).isSome) x s)
    && begins (farWrite (piped false { aPipe with scope := 2 } (slotAddr 1))) (.qcmt 1 2 11 10) (m [10, 11] [] true)
      (fun x s => commitFault x s 2 11 10) (fun x s => (x.block? s).isSome && (x.warp? s x.lead).isSome
        && at_ (fun _ p => podWrites x s p && (reservedNum x p (x.rs s 10)).isSome) x s)
    && begins (piped true aPipe id) (.qpop 1 0 2 9) (la [] [9]) (none_ (some true))
      (fun x s => at_ (fun k _ => match popped x s k with | .slot _ _ => true | _ => false) x s)
    && begins (piped true { aPipe with slots := [(0, { Slot.blank .filled with hdr := 5 })] } id) (.qpop 1 0 2 9) (la [] [9])
      (none_ (some true)) (fun x s => at_ (fun k _ => match popped x s k with | .corrupt _ => true | _ => false) x s)
    && begins (piped true { aPipe with eos := true, slots := [] } id) (.qpop 1 0 2 9) (la [] [9]) (none_ (some true))
      (fun x s => at_ (fun _ p => p.nextItem?.isNone && p.eos) x s)
    && begins (piped true empty id) (.qpop 1 0 2 9) (la [] [9]) (none_ (some true))
      (fun x s => at_ (fun _ p => p.nextItem?.isNone && !p.eos) x s)
    && begins (piped true aPipe (slotAddr 2)) (.qrel 1 2 10) (m [10] [] false) heldFault
      (fun x s => (x.block? s).isSome && at_ (fun k p => !podWrites x s p && (heldNum x s k p (x.rs s 10)).isSome) x s)
    && begins (farWrite (piped true { aPipe with scope := 2 } (slotAddr 2))) (.qrel 1 2 10) (m [10] [] false) heldFault
      (fun x s => at_ (fun k p => podWrites x s p && (heldNum x s k p (x.rs s 10)).isSome) x s)
    && issues (piped false aPipe id) (.qstat 1 0 2 9) (la [] [9]) (none_ none) (fun x s => (pipeAt x s 2).isSome)
    && issues (piped true aPipe (slotAddr 2)) (.qstamp 1 0 2 9 10) (la [10] [9]) stampFault
      (fun x s => at_ (fun k p => (p.findSlot (x.rs s 10) (stampable x s k)).isSome) x s)
    && begins (piped false aPipe id) (.qclose 1 2) (m [] [] false) (none_ (some false)) (fun x s => at_ (fun _ p => !podWrites x s p) x s)
    && begins (farWrite (piped false { aPipe with scope := 2 } id)) (.qclose 1 2) (m [] [] false) (none_ (some false))
      (fun x s => at_ (fun _ p => podWrites x s p) x s)) = true := by
  decide +kernel

/-- The bench's die has granted its warp's request at the word. -/
def granted (s : State) : State :=
  s.modDie (coreDie 0) fun d => { d with reqs := [{ core := 0, slot := 0, warp := 0, pc := 0x20040#64, cost := 1, prio := 0, aged := 0,
                                                    since := 0, granted := true }] }
/-- An entry of the bench's warp. -/
def anOp (kind : OpKind) : OpEntry :=
  { kind := kind, serial := 7, slot := 0, warp := 0, pc := 0x20000, asid := 1, raddr := 0x30000, raddr2 := 0, record := []
    accepted := false, consumed := false, complete := false, status := 0, hstamp := none, ets := 0, got := [], waits := false, next := 0
    pmask := 0, gdone := 0, openIn := [0], batches := [], leave := 0, asks := 0, suspended := false, idx := [], cur := 0, sused := 0
    epend := false, nestDone := false, pq := none, eseq := none, epIdx := [], epCur := 0, epOut := false, surplus := 0
    cancelled := false, image := [], recorded := false, turn := 0, late := false, acked := [], sent := [], vigil := none }
/-- The bench's core with entries, and handle 2 of the warp naming entry 0. -/
def withOps (l : List (Nat × OpEntry)) (s : State) : State :=
  (s.modCore 0 fun k => { k with ops := l }).modWarp 0 0 0 fun w => { w with hregs := setAt w.hregs 2 (.op 0 7) }
/-- Every entry is taken. -/
def noEntry (s : State) : State := withOps ((List.range 256).map fun k => (k, anOp .copy)) s
/-- The bench's block is a supervisor's. -/
def supervised (s : State) : State := s.modBlock 0 0 fun b => { b with supervisor := true }
theorem witness_EngineInstructionResults : (let m : Meta := engineMeta 1 [8] true
    let rec_ (bad align : Nat) (x : Ix) (s : State) : Option Nat := recordFault bad align (x.rs s 8)
    let a : State := bench (ss [(8, 0x30000)])
    let leave (x : Ix) (s : State) : Bool := leaveGranted s x.core x.slot x.lead x.pc
    let full (k : Core) : Core := { k with gathQ := [List.range 8, List.range 8] }
    let room (x : Ix) (s : State) : Bool := decide (((s.core x.core).gathQ.getD (gatherEngine (s.core x.core)) []).length < 8)
    let free (x : Ix) (s : State) : Bool := (freeEntryNo s x.core).isSome
    let sys : State := supervised (bench (ss [(8, 1)]))
    begins a (.cpy 1 2 8) m (rec_ 0x106 64) (fun x s => (copyEntry x 8 s).any fun r => (copyIssue x 2 r.1 r.2).1.isNone)
    && begins (bench (ss [(8, 0x2000000000)])) (.cpy 1 2 8) m (rec_ 0x106 64)
      (fun x s => (copyEntry x 8 s).any fun r => (copyIssue x 2 r.1 r.2).1 == some .faultService)
    && begins (noEntry a) (.cpy 1 2 8) m (rec_ 0x106 64) (fun x s => (copyEntry x 8 s).isNone)
    && begins (granted a) (.gath 1 2 8) m (rec_ 0x106 64) (fun x s => leave x s && room x s && free x s)
    && begins a (.gath 1 2 8) m (rec_ 0x106 64) (fun x s => !leave x s)
    && begins (noEntry (granted a)) (.gath 1 2 8) m (rec_ 0x106 64) (fun x s => leave x s && !free x s)
    && begins ((granted a).modCore 0 fun k => { k with matQ := [0, 1, 2, 3] }) (.mmj 1 2 8) m (rec_ 0x102 128)
      (fun x s => leave x s && free x s && !(decide ((s.core x.core).matQ.length < 4) && !grantedBefore s x))
    && begins ((granted sys).modCore 0 fun k => { k with copyQ := List.range 16 }) (.csave 1 8 9) (sysMeta [8, 9])
      (fun x s => csaveFault (x.rs s 8) (x.rs s 9)) (fun x s => leave x s && free x s && !decide ((s.core x.core).copyQ.length < 16))
    && begins ((granted a).modCore 0 full) (.gath 1 2 8) m (rec_ 0x106 64) (fun x s => leave x s && free x s && !room x s)
    && begins (granted a) (.xfer 1 2 8) m (rec_ 0x106 128) (fun x s => leave x s && free x s)
    && begins (granted a) (.mmj 1 2 8) m (rec_ 0x102 128) (fun x s => leave x s && free x s && decide ((s.core x.core).matQ.length < 4)
      && !grantedBefore s x)
    && begins sys (.haltc 1 8) (sysMeta [8]) (fun x s => haltFault x.core (x.rs s 8)) free
    && begins (granted sys) (.csave 1 8 9) (sysMeta [8, 9]) (fun x s => csaveFault (x.rs s 8) (x.rs s 9))
      (fun x s => leave x s && free x s && decide ((s.core x.core).copyQ.length < 16))
    && begins (granted sys) (.crest 1 8 9) (sysMeta [8, 9]) (fun x s => crestFault (x.rs s 8) (x.rs s 9))
      (fun x s => leave x s && free x s && decide ((s.core x.core).copyQ.length < 16))) = true := by decide +kernel
/-- Operands of an MMK of panels of format 4 in memory, `steps` K-steps. -/
def mmkRegs (steps : DWord) : Warp → Warp := ss [(8, 0x30000), (9, 0x40000), (10, steps), (11, 0x44), (12, 0)]
theorem witness_EngineInstructionResults_mmk : (let m : Meta := engineMeta 1 [8, 9, 10, 11, 12] false
    begins (bench (mmkRegs 0)) (.mmk 1 2 8 12) m (mmkFault 8 12) (fun x s => bits (x.rs s 10) 0 16 == 0 && (freeEntryNo s x.core).isSome)
    && begins (granted (bench (mmkRegs 1))) (.mmk 1 2 8 12) m (mmkFault 8 12) (fun x s => bits (x.rs s 10) 0 16 != 0
      && leaveGranted s x.core x.slot x.lead x.pc && (freeEntryNo s x.core).isSome && decide ((s.core x.core).matQ.length < 4)
      && !grantedBefore s x)) = true := by decide +kernel
/-- What a handle names. -/
def isEmptyH (h : Named) : Bool := match h with | .empty => true | _ => false
def isStaleH (h : Named) : Bool := match h with | .stale => true | _ => false
theorem witness_HandleInstructionResults : (let la (d : List (BitVec 6)) : Meta := handleMeta 1 (some 0) [] d
    let a : State := withOps [(0, anOp .copy)] floats
    let done : State := withOps [(0, { anOp .copy with complete := true, consumed := true, batches := [(0, 0)], openIn := [] })] floats
    let named (x : Ix) (s : State) : List OpEntry := batchOps x s ((x.rs s 4).setWidth 16)
    let early (x : Ix) (s : State) : Option Nat := match x.warp? s x.lead with
      | some w => if notClosed ((x.rs s 4).setWidth 16) w.batch then some 0x10C else none
      | none => none
    let ready (x : Ix) (s : State) : Bool := match x.handle s 2 with | .op _ o => o.complete | _ => true
    begins a (.htest 1 0 2 9 0) (la [9]) noUniform (fun _ _ => true)
    && begins floats (.hcancel 1 2) (handleMeta 1 none [] []) noUniform (fun x s => isEmptyH (x.handle s 2))
    && begins a (.hcancel 1 2) (handleMeta 1 none [] []) noUniform (fun x s => !isEmptyH (x.handle s 2) && !isStaleH (x.handle s 2))
    && issues a (.hmovs 1 0 2 9) (la [9]) noUniform (fun x s => !isStaleH (x.handle s 2))
    && begins (bench fun w => { w with hregs := setAt w.hregs 2 .stale }) (.hmovs 1 0 2 9) (la [9]) noUniform (fun x s => isStaleH (x.handle s 2))
    && begins floats (.smovh 1 3 4) (handleMeta 1 none [4] [])
      (fun x s => if badToken x.slot (x.rs s 4) then some 0x10A else none) (fun _ _ => true)
    && begins a (.batch 1 0 9) (la [9]) noUniform (fun _ _ => true)
    && begins done (.waitbBatch 1 4) (handleMeta 1 none [4] []) early (fun x s => (named x s).all (·.complete))
    && begins (withOps [(0, { anOp .copy with batches := [(0, 0)], openIn := [] })] floats) (.waitbBatch 1 4) (handleMeta 1 none [4] []) early
      (fun x s => !(named x s).all (·.complete))
    && begins done (.waitbHandle 1 2 0) (handleMeta 1 none [] []) noUniform ready
    && begins a (.waitbHandle 1 2 0) (handleMeta 1 none [] []) noUniform (fun x s => !ready x s)) = true := by decide +kernel

/-- Context 1 owns counter 5 and vigil slot 6. -/
def owner (f : Warp → Warp) : State :=
  { bench f with ctrOwner := [(5, { asid := 1, ptag := 0, valid := true })], vigOwner := [(6, { asid := 1, ptag := 0, valid := true })] }
theorem witness_NetworkInstructionResults : (let m (srcs dsts : List (BitVec 6)) : Meta := netMeta 1 none srcs dsts false
    let ctl (r : BitVec 6) (x : Ix) (s : State) : Option Nat := ctlFault s (x.asid s) (x.rs s r.toNat)
    let held (x : Ix) (s : State) : Bool := x.podHeld s (bit (x.rs s 4) 12) (bits (x.rs s 4) 13 3)
    let arm : Ix → State → Option Nat := armCheck 4 5
    let post (x : Ix) (s : State) : Option Nat := (postFault s (x.asid s) (x.rs s 4) (x.rs s 5)).or (if bit (x.rs s 5) 15 then none
      else recordCheck x s (x.rs s 4) 8 fun t ws => postCheck t (x.asid t) (bits (x.rs s 5) 0 14) ws)
    let sends (x : Ix) (s : State) : Option Nat := (netAddrFault 32 (x.rs s 4)).or
      (recordCheck x s (x.rs s 4) 4 fun t ws => if descMalformed t.rank ws then some 0x14F else none)
    let heap (s : State) : State := { s with ctxs := modKey s.ctxs 1 fun x => { x with hbase := 0x1000000, hlimit := 0x100000, hoff := 0 } }
    begins (owner (ss [(4, 5), (5, 1)])) (.tcadd 1 4 5) (m [4, 5] []) (ctl 4) (fun x s => !held x s)
    && begins (farWrite (owner (ss [(4, 0x9005)]))) (.tcset 1 4 5) (m [4, 5] []) (ctl 4) held
    && begins (owner (ss [(5, 5)])) (.tcrd 1 0 4 5) (netMeta 1 (some 0) [5] [4] false) (ctl 5) (fun _ _ => true)
    && begins (owner (ss [(5, 0x2005)])) (.tcarm 1 4 5) (m [4, 5] []) arm (fun x s => bit (x.rs s 5) 13)
    && begins (owner (ss [(5, 0x8006)])) (.npost 1 4 5) (m [4, 5] []) post (fun x s => bit (x.rs s 5) 15)
    && begins (heap (owner (ss [(4, 0x1000000), (5, 0x800005)]))) (.tcarm 1 4 5) (m [4, 5] []) arm (fun x s => !bit (x.rs s 5) 13
      && inTriple (s.ctx (x.asid s)) (x.rs s 4).toNat && (match (translate s x.core (x.asid s) (x.rs s 4).toNat .load).1 with
        | .ok { at_ := .hbm _, cached := _ } => true
        | _ => false) && decide (s.arms.length < 256))
    && begins { owner (ss [(4, 0x30000), (5, 6)]) with ctrOwner := [(0, { asid := 1, ptag := 0, valid := true })] } (.npost 1 4 5) (m [4, 5] []) post
      (fun x s => !bit (x.rs s 5) 15 && (match recordAt x s (x.rs s 4) 8 with
        | some (ws, t) => (postCheck t (x.asid t) 6 ws).isNone
        | none => false))
    && begins (owner (ss [(4, 0x30000)])) (.nsend 1 4) (netMeta 1 none [4] [] true) sends
      (fun x s => match recordAt x s (x.rs s 4) 4 with
        | some (ws, t) => !descMalformed t.rank ws && !x.podHeld t (recField ws 0 24 1 == 1) (recField ws 0 25 3)
        | none => false)
    && begins (farWrite { owner (ss [(4, 0x30000)]) with mem := Mem.store (owner id).mem 0x30000 8 0x9000000 }) (.nsend 1 4)
      (netMeta 1 none [4] [] true) sends (fun x s => match recordAt x s (x.rs s 4) 4 with
        | some (ws, t) => !descMalformed t.rank ws && x.podHeld t (recField ws 0 24 1 == 1) (recField ws 0 25 3)
        | none => false)) = true := by decide +kernel
theorem witness_SystemInstructionResults : (let sys : State := supervised (bench (ss [(8, 0x401)]))
    let frozen (f : Warp → Warp) : State := bench fun w => f { w with frozen := some (w.splits, 0) }
    let none_ (x : Ix) (s : State) : Option Nat :=
      match x.warp? s x.lead with | some w => if w.frozen.isNone then some 0x1E3 else none | none => none
    let bad (x : Ix) (s : State) : Option Nat := tlbiFault (x.rs s 8) (x.rs s 9)
    let awaits (x : Ix) (s : State) : Option (List Nat) := (s.split? x.core x.slot x.lead x.split).bind (·.await)
    let waiting (s : State) : State := s.modSplit 0 0 0 0 fun q => { q with await := some [0] }
    begins sys (.tlbi 8 9) (sysMeta [8, 9]) bad (fun x s => (awaits x s).isNone && (tlbiOpen (x.rs s 8) (x.rs s 9) s).isEmpty)
    && begins (farWrite sys) (.tlbi 8 9) (sysMeta [8, 9]) bad (fun x s => (awaits x s).isNone
      && !(tlbiOpen (x.rs s 8) (x.rs s 9) s).isEmpty)
    && begins (waiting (farWrite sys)) (.tlbi 8 9) (sysMeta [8, 9]) bad (fun x s => (awaits x s).any fun l => l.any s.remPend.has)
    && begins (waiting sys) (.tlbi 8 9) (sysMeta [8, 9]) bad (fun x s => (awaits x s).any fun l => !l.any s.remPend.has)
    && begins sys (.harv 8) (sysMeta [8]) (fun x s => if bits (x.rs s 8) 11 53 ≠ 0 then some 0x106 else none) (fun _ _ => true)
    && begins (frozen id) .rft { sc := 1, dist := 2 } none_ (fun x s => (x.warp? s x.lead).any handlerDone)
    && begins (frozen (owed .xshuf)) .rft { sc := 1, dist := 2 } none_ (fun x s => (x.warp? s x.lead).any fun w => !handlerDone w)) = true := by
  decide +kernel
theorem witness_HintResults : (canIssue floats floats.port && (splitOf floats).hints.isEmpty && !((splitOf floats).landed && hintAt floats 1 ((splitOf floats).pc - 4))
    && !lookaheadWait (splitOf floats)
    && (splitOf (bench fun w => { w with splits := modAt w.splits 0 fun p => { p with hints := [0xFC000001#32, 0xFC000001#32] } })).hints.length == 2) = true := by
  decide +kernel
/-- The bench's block with two warps. -/
def twoWarps (f g : Warp → Warp) : State := (bench f).modBlock 0 0 fun b => { b with warps := b.warps ++ [g benchWarp] }
/-- A waiting XSHUF that names a warp of block position 0. -/
def xwait (warp : Nat) : XWait :=
  { split := 0, pos := 0, pwarp := warp, rot := 0, width := 1, dst := 8, data := [Vec.splat 3], act := 1#64, place := [], since := 0
    limit := 4096, got := none, pc := 0x20040, la := 0 }
def xw (x : XWait) (w : Warp) : Warp := { w with xshuf := some x }
theorem witness_CrossWarpShuffleResults : (let m : Meta := { sc := 1, la := some 3, vin := [vop 2 1], vout := [vop 8 1], srcs := [.s 4] }
    issues (twoWarps (ss [(4, 0x40)]) id) (.xshuf 3 0 8 2 4) m (xshufFault 4) (fun x s => fine [vop 2 1, vop 8 1] x s
      && (x.warp? s x.lead).any fun q => q.xshuf.isNone)
    && begins (twoWarps (fun w => xw (xwait 1) (ss [(4, 0x40)] w)) id) (.xshuf 3 0 8 2 4) m (xshufFault 4) (fun x s =>
      fine [vop 2 1, vop 8 1] x s && (x.warp? s x.lead).any fun q => q.xshuf.isSome)
    && (let s := twoWarps (xw (xwait 1)) (xw (xwait 0))
      match s.block? 0 0 with
      | some b => xshufPartner s b (xwait 1) == some (0, 0, 1) && xshufMatch b 0 (xwait 1) b 1 (xwait 0)
      | none => false)
    && ((bench (xw { xwait 1 with got := some ([Vec.splat 4], 1#64) })).warp? 0 0 0).any fun w => w.xshuf.any fun x => x.got.isSome) = true := by
  decide +kernel
/-- The bench's block, whose kernel has a handler for faults. -/
def handled (s : State) : State := s.modBlock 0 0 fun b => { b with kernel := { b.kernel with trap := 0x01000010#64 } }
theorem witness_TrapEntersTheHandler : (handles 0x01000010#64 0x044 false ∧ handles 0x02000010#64 0x080 true
    ∧ handles 0x04000010#64 0x1C0 false ∧ handles 0x08000010#64 0x1F5 false ∧ handles 0x10000010#64 0x1E1 false)
    ∧ (handled floats).joint = .off ∧ ((handled floats).block? 0 0).any (fun b => b.warps.any fun w => w.frozen.isNone && (w.splits[0]?).isSome) = true
    ∧ benchBlock.asid < 1024 := by unfold handles; and_intros <;> decide +kernel
theorem witness_TrapGoesToFirmware : floats.joint = .off ∧ bits benchBlock.kernel.trap 0 24 = 0 ∧ ¬ handles 0x01000010#64 0x080 true
    ∧ (floats.ctx 1).fqFull = false ∧ (floats.ctx 1).records = [] := by unfold handles; and_intros <;> decide +kernel
theorem witness_WordChecksTrap : (let q := splitOf floats
    canIssue floats floats.port && !lookaheadWait q && !(q.landed && hintAt floats 1 (q.pc - 4)) && q.hints.isEmpty) = true
  ∧ (Instr.sadd 0 1 2 3).wf = false ∧ (encodeWord (.sadd 0 1 2 3)).isSome = true
  ∧ (encodeWord (.harv 4)).isSome = true ∧ benchBlock.supervisor = false
  ∧ (forbiddenInHandler 0x85040007#32) = true ∧ acceptsHint 0x65800000#32 0 = false
  ∧ (Instr.reduce 2 0 4 6 1).wf = true ∧ benchBlock.sets.all (·.isEmpty) = true
  ∧ hintAt (after (ready 0xFC400001#32 id)) 1 0x20040#64 = true := by decide +kernel
/-- A turn of the split at the agenda's head: the state before it, and after it. -/
def turnOf (s : State) (H : State → State → Port → Bool) : Bool := match s.agenda with
  | .issue p :: r => (match stepIssue { s with agenda := r, port := p } with
    | .next t => H { s with agenda := r, port := p } t p
    | _ => false)
  | _ => false
theorem witness_StepRunsTheDecodedWord : (let s := ready 0x04000000#32 id
    (match s.agenda with
      | .issue p :: r => (match fetchTurn { s with agenda := r, port := p } with
        | .word w _ => w == 0x04000000#32
        | .stays _ => false)
      | _ => false)
    && turnOf s (fun a t p => !waited a t p && canIssue a p && scheduled a p && (secondSplit a p).isNone && (a.warp? p.core p.slot p.warp).isSome)
    && turnOf (ready 0x04000000#32 (diverged 0x20040)) (fun a t p => !waited a t p && canIssue a p && scheduled a p && (secondSplit a p).isSome)
    && turnOf (ready 0x04000000#32 fun w => { w with mayAt := 1 }) (fun a t p => !waited a t p && canIssue a p && !scheduled a p)
    && turnOf (ready 0x04000000#32 fun w => { w with suspended := true }) (fun a _ p => !canIssue a p)) = true
  ∧ ((runnable { ready 0x04000000#32 id with agenda := [] }).find? fun p => readyAt (ready 0x04000000#32 id) p
      && scheduled (ready 0x04000000#32 id) p) = some floats.port
  ∧ nextPort (passCycles State.reset 1 1) = none ∧ ((runnable State.reset).find? fun p => readyAt State.reset p) = none
  ∧ (let rest : State := { ready 0x04000000#32 fun w => { w with mayAt := 9 } with agenda := [] }
    ((runnable rest).find? fun p => readyAt rest p && scheduled rest p).isNone && nextPort (passCycles rest 1 1) == some floats.port) = true
  ∧ arrives (.ualinkCompletion 0 0 []) State.reset = false ∧ arrives .rebase State.reset = true
  ∧ (match translate floats 0 1 0x20040 .fetch with
      | (.ok p, t) => p.at_ == .hbm 0x20040 && !poisoned t 0x20040 4 && ((t.core 0).l1i.find? fun p => p.1 == lineOf 0x20040).isNone
        && peekHbm t 0x20040 4 == toBytes 4 0x65800000
      | _ => false) = true
  ∧ (match translate (after floats) 0 1 0x20040 .fetch with
      | (.ok _, t) => ((t.core 0).l1i.find? fun p => p.1 == lineOf 0x20040).any fun p => lineNum p.2 0x40 4 == 0x65800000
      | _ => false) = true
  ∧ (match translate floats 0 1 0x2000000000 .fetch with | (.error _, _) => true | _ => false) = true := by decide +kernel
theorem witness_ResetState : memoriesCanonical State.reset = true := by decide +kernel
theorem witness_EveryStepKeepsMemoryCanonical : memoriesCanonical (ready 0x74051472#32 (vs [(5, 0x8899AABB)])) = true := by decide +kernel

/-! ### States that meet the hypotheses of the statements about events -/

/-- A ring of the bench's context, at 0x50000. -/
def ring2 : Ring :=
  { base := 0x50000, lsize := 0, prio := 0, running := true, wptr := 0, rptr := 0, erec := 0, nseq := 0, asid := 1, drops := 0 }
/-- A packet of that ring that has started, with a body and a handle list. -/
def pktOf (kind : Nat) (body : List DWord) (handles : List DWord) : Packet :=
  { ring := 2, asid := 1, kind := kind, pseq := 7, crec := 0, notify := false, barrier := false, launch := 3
    body := body.flatMap fun w => toBytes 8 w.toNat, handles := handles, st := .started, since := 0, offset := 0, downgrade := false
    moved := 0, cores := [], fault := none, got := [], waiting := false, ts := 0 }
/-- A state with packet 0. -/
def withPkt (p : Packet) (s : State) : State := { s with pkts := [(0, p)], nextPkt := 1, rings := [(2, ring2)] }
/-- `acting`, of packet 0. -/
def acts (kind : Nat) (s : State) (H : Packet → List DWord → Bool) : Bool := match s.pkts.get? 0 with
  | some p => p.kind == kind && p.st == .started && !p.waiting && H p (wordsOf (p.body.length / 8) p.body)
  | none => false
/-- A packet of a kind and a body. -/
def sent (kind : Nat) (body : List DWord) : State := withPkt (pktOf kind body []) floats
/-- `controls`, of packet 0. -/
def steers (sub : Nat) (s : State) (H : Packet → List DWord → Bool) : Bool := acts 9 s fun p ws => pf ws 0 0 8 == sub
  && ((s.rings.get? p.ring).all fun d => firstBad (ctlChecks s p.ring d (List.replicate 4 0#64 ++ ws)) == none) && H p ws
/-- A context-control packet: subcommand, the words that follow, and a change of the state. -/
def steered (sub : DWord) (body : List DWord) (f : State → State) : State :=
  f (withPkt (pktOf 9 (sub :: body ++ List.replicate (7 - body.length) 0#64) []) floats)
/-- Words in memory. -/
def stored (l : List (Nat × DWord)) (s : State) : State :=
  { s with mem := l.foldl (fun m p => Mem.store m p.1 8 p.2.toNat) s.mem }
/-- The almanac in the bench's context. -/
def withAlm (s : State) : State := { s with ctxs := modKey s.ctxs 1 fun x => { x with alms := [(0, anAlmanac)] } }
/-- A kernel object's header at 0x30000: eight registers, 64 lanes. -/
def kernelWord : DWord := BitVec.ofNat 64 (0xCA16 + 1 * 2 ^ 16 + 8 * 2 ^ 32 + 64 * 2 ^ 54)
theorem witness_PacketEvents_fetch : (let s := stored [(0x50000, 0x0000000200020105), (0x50008, 7)] { floats with rings := [(2, { ring2 with wptr := 64 })] }
    match nextRing s with
    | some (n, d) =>
      let len := pLen (wordsOf 4 (ringRead s d d.rptr.toNat 32))
      decide (d.prio < s.lastRing.length) && decide (len = 64) && ((List.range (len / 32)).all fun i => !poisoned s (d.at_ (d.rptr.toNat + 32 * i)) 32)
        && packetBad s n d (wordsOf (len / 8) (ringRead s d d.rptr.toNat len)) == none
    | none => false) = true := by decide +kernel
theorem witness_PacketEvents_start : (let p : Packet := { pktOf 3 [] [0x10004, 0x20005] with st := .fetched }
    let h : BufHandle := { base := 0x60000, length := 64, writer := 0, wvalid := false, wdone := false, readers := 0 }
    let s := withPkt p { floats with ctxs := modKey floats.ctxs 1 fun x => { x with handles := [(4, h), (5, h)] } }
    p.handles.all (entryFree (s.ctx 1)) && decide (p.handles.map entryIndex).Nodup && !p.barrier
    && p.handles.all fun e => (s.ctx 1).handles.has (entryIndex e)) = true := by decide +kernel
theorem witness_PacketEvents_launch : (let grid := sent 1 [0x30000, 0, 0, 64, 0x3F001, 0, 0, 0]
    let alm := stored [(0x40000, 0x10001), (0x40080, 0x30000)] (sent 2 [0x40000])
    acts 1 (stored [(0x30000, kernelWord)] grid) (fun p ws => match readKernel (stored [(0x30000, kernelWord)] grid) 0 p (pf ws 0 0 56) with
      | (.ok k, _) => k.d == 8
      | _ => false)
    && acts 1 grid (fun p ws => match readKernel grid 0 p (pf ws 0 0 56) with | (.broken o, _) => o == 0 | _ => false)
    && acts 2 alm fun p ws => pf ws 0 0 56 % 64 == 0 && match cpBytes alm 0 p (pf ws 0 0 56) 128 with
      | (.ok bs, u) =>
        let hs := wordsOf 16 bs
        let n := pf hs 0 16 6 + pf hs 0 24 8
        firstBad (almChecks hs) == none && match cpBytes u 0 p (pf ws 0 0 56 + 128) (64 * n) with
          | (.ok rest, v) => match readKernels v 0 p ((List.range (pf hs 0 16 6)).map (almEntry (hs ++ wordsOf (8 * n) rest))) [] with
            | (.ok ks, _) => ks.length == 1
            | _ => false
          | _ => false
      | _ => false) = true := by decide +kernel
theorem witness_PacketEvents_memory : (acts 3 (sent 3 [0x60000, 8, 0x1122334455667788]) (fun p ws =>
      let bs := (p.body.drop 16).take (pf ws 8 0 13)
      match cpWrite 0 p true (bs.length + 1) (pf ws 0 0 56 + p.moved) (bs.drop p.moved) 0 (sent 3 [0x60000, 8, 0x1122334455667788]) with
      | (n, none, _) => n == 8
      | _ => false)
    && acts 4 (sent 4 [0x60000, 8]) (fun p ws => match readReplies 0 p (pf ws 0 0 56) (pf ws 8 0 25) 2049 p.moved
        (writeBack (sent 4 [0x60000, 8]) []) with
      | (none, _) => true
      | _ => false)) = true := by decide +kernel
theorem witness_PacketEvents_fence : (let s := sent 5 [0, 0, 0, 0]
    let busy : State := { s with pkts := [(0, pktOf 6 [] []), (1, pktOf 5 [0] [])] }
    acts 5 s (fun p ws => pf ws 0 0 2 ≤ 1 && !earlier s 0 fun q => q.ring == p.ring)
    && earlier busy 1 (fun q => q.ring == 2)
    && acts 5 (sent 5 [2, 0x60000, 0, 0]) (fun p ws => 2 ≤ pf ws 0 0 2 && pf ws 8 0 64 % 8 == 0
      && match cpBytes (sent 5 [2, 0x60000, 0, 0]) 0 p (pf ws 8 0 64) 8 with
        | (.ok bs, _) => decide (pf ws 16 0 64 ≤ ofBytes bs)
        | _ => false)
    && acts 5 { sent 5 [2, 0x60000, 1, 1] with kalends := 1000 } fun p ws => pf ws 0 0 2 == 2 && pf ws 24 0 32 != 0
      && decide (1000 * pf ws 24 0 32 ≤ (1000#64 - BitVec.ofNat 64 p.since).toNat)) = true := by decide +kernel
theorem witness_PacketEvents_signal : (let s : State := { sent 6 [0x50001, 0, 1] with ctrOwner := [(5, { asid := 1, ptag := 0, valid := true })] }
    acts 6 s (fun p ws => pf ws 0 0 1 == 1 && ownsCounter s p.asid (pf ws 0 16 12))
    && acts 6 (sent 6 [0, 0x60000, 1]) fun p ws => pf ws 0 0 1 == 0 && pf ws 8 0 64 % 8 == 0
      && match cpWrite 0 p false 9 (pf ws 8 0 64) (toBytes 8 (wordAt ws 2).toNat) 0 (sent 6 [0, 0x60000, 1]) with
        | (_, none, _) => true
        | _ => false) = true := by decide +kernel
/-- Two stages of one almanac, the first with two cores to give. -/
def staged (s : State) : State :=
  let s := withAlm s
  { s with
    ctxs := modKey s.ctxs 1 fun x => { x with alms := [(0, { anAlmanac with stages := [0, 1] })] }
    grids := [(0, { benchGrid with alm := some 0, share := [0, 1], maxShare := 2 }),
              (1, { benchGrid with alm := some 0, stage := 1, share := [2], maxShare := 2 })] }
theorem witness_PacketEvents_almanac : (acts 7 (withAlm (sent 7 [0])) (fun p ws => (alm? (withAlm (sent 7 [0])) p.asid (pf ws 0 0 4)).isSome)
    && acts 8 (staged (sent 8 [0x4200, 1])) (fun p ws => (alm? (staged (sent 8 [0x4200, 1])) p.asid (pf ws 0 0 4)).any fun a =>
      match a.stages[pf ws 0 4 5]?, a.stages[pf ws 0 9 5]? with
      | some d, some r => pf ws 0 14 10 == 1 && pf ws 8 0 16 == 1 && resizable (staged (sent 8 [0x4200, 1])) d r 1
      | _, _ => false)
    && steers 10 (steered 10 [0, 0, 1] withAlm) (fun _ ws => pf ws 8 0 1 == 0 && (alm? (steered 10 [0, 0, 1] withAlm) (pf ws 0x18 0 10) 0).isSome)
    && steers 10 (steered 10 [0, 0, 1] id) fun _ ws => (alm? (steered 10 [0, 0, 1] id) (pf ws 0x18 0 10) 0).isNone) = true := by
  decide +kernel
theorem witness_PacketEvents_complete : (let p : Packet := { pktOf 6 [] [] with st := .ended 0 }
    let q : Packet := { p with crec := 0x60000#64 }
    !engRemote (withPkt p floats) cpCore 0 && p.crec == 0#64
    && match cpRecord (withPkt q floats) 0 q q.crec.toNat (recordBytes floats q.pseq 0 q.downgrade q.ring q.launch q.offset) with
      | (done, _) => done) = true := by decide +kernel
theorem witness_RingAndContextEvents : (let ok (sub : Nat) (s : State) : Bool := steers sub s fun _ _ => true
    let h : BufHandle := { base := 0x60000, length := 64, writer := 0, wvalid := false, wdone := false, readers := 0 }
    ok 1 (steered 1 [3, 0x50000, 0, 0, 0, 1, 0] id)
    && ok 2 (steered 2 [2] id)
    && ok 3 (steered 3 [2, 0x20] fun s => { s with rings := [(2, { ring2 with running := false })] })
    && steers 4 (steered 4 [2, 0x60000] id) (fun p ws => (match cpWrite 0 p false 49 (pf ws 0x10 0 56) ring2.image 0
        (steered 4 [2, 0x60000] id) with
      | (_, none, _) => true
      | _ => false))
    && ok 5 (steered 5 [4, 0x60000, 64] id)
    && ok 6 (steered 6 [4] fun s => { s with ctxs := modKey s.ctxs 1 fun x => { x with handles := [(4, h)] } })
    && ok 7 (steered 7 [1] id)
    && (steered 7 [1] fun s => s.modPkt 0 fun p => { p with st := .acting }).pkts.all (fun p => p.2.kind == 9 && p.2.st == .acting)
    && steers 8 (steered 8 [1] id) (fun _ ws => suspensionDone (steered 8 [1] id) (pf ws 8 0 10))
    && ok 9 (steered 9 [0x0A00000400, 1] id)) = true := by decide +kernel
/-- A grid of the bench's context with 64 indices to assign. -/
def freshGrid : Grid := { benchGrid with next := 0, placed := 0, gangs := 0, resident := 0 }
/-- That grid, and no block. -/
def placing (g : Grid) : State := { floats with blocks := [], grids := [(0, g)] }
/-- The bench's block, saved. -/
def aSaved : Saved :=
  { block := benchBlock, core := 0, slot := 0, scratch := [], tiles := [], ops := [], mats := [], logs := [], pts := 0 }
theorem witness_PlacementEvents_place : (let s := placing freshGrid
    let two : Grid := { freshGrid with kernel := { benchKernel with gsize := 2, scratch := 64, t := 0 }, stop := 128 }
    let u := screenSlots 0 takeFuel s
    (u.grids.get? 0).any (fun g => placeable u g && g.kernel.gsize == 1 && (room? u 0 g.kernel g.prologues.length none).isSome)
    && (u.grids.all fun p => p.1 == 0 || !p.2.before freshGrid)
    && (let g : Grid := { freshGrid with restore := [aSaved], resident := 1 }
      ((screenSlots 0 takeFuel (placing g)).grids.get? 0 == some g) && match nextPlacement (placing g) 0 g with
      | some t => !outranked (placing g) 0 g (newCores (placing g) t)
      | none => false)
    && (match placement (beforeFirst (placing two) two) 0 two with
      | some t => !outranked (placing two) 0 two (newCores (placing two) t)
      | none => false)) = true := by decide +kernel
theorem witness_PlacementEvents_blocks : (let unready := floats.modBlock 0 0 fun b => { b with ready := false, prologue := [0] }
    let fresh := floats.modWarp 0 0 0 fun w => { w with started := false }
    let gone := floats.modWarp 0 0 0 fun w => { w with retired := true }
    ((withOps [(0, anOp .copy)] unready).op? 0 0).any (fun o => !o.complete)
    && ((withOps [(0, { anOp .copy with complete := true })] unready).op? 0 0).any (fun o => o.complete && o.status == 0)
    && (fresh.block? 0 0).any (fun b => b.ready && !b.stopped && !b.frozen && b.gsize == 1)
    && (fresh.warp? 0 0 0).any (fun w => !w.started)
    && (gone.block? 0 0).any (fun b => b.warps.all (·.retired))) = true := by decide +kernel
theorem witness_PlacementEvents_stage : (let s := { withPkt (pktOf 2 [] []) (withAlm floats) with
      grids := [(0, { benchGrid with alm := some 0, complete := true })] }
    (alm? s 1 0).any fun a => ((almGrids s a).find? fun x => !x.2.2.recorded).any fun x => x.1 == 0 && x.2.2.complete
      && !mirrorBusy s 1 0 && (s.pkts.get? a.pkt).any fun p =>
        (cpRecord s a.pkt { p with crec := 0x60000#64 } 0x60000 (stageRecord s a x.2.2)).1) = true := by decide +kernel
theorem witness_PlacementEvents_warps : (let sleeping (g : Grid) : State :=
      { floats.modWarp 0 0 0 fun w => { w with refillBlocked := true } with grids := [(0, g)] };
    let at_ : State := (atPoint 1 floats).modWarp 0 0 0 fun w =>
      { w with refillSince := some 0, splits := modAt w.splits 0 fun p => { p with rwait := true } }
    let pair : State := { twoWarps
        (fun w => { w with splits := modAt w.splits 0 fun p => { p with stall := .memory } })
        (fun w => { w with hot := false, order := 1 }) with cycle := 100 }
    queueExhausted (sleeping benchGrid) benchGrid && !(floats.core 0).assignsNothing
    && queuePending (sleeping freshGrid) freshGrid
    && (let g : Grid := { benchGrid with qpipe := some aKey }
      let s : State := { piped true { aPipe with slots := [], base := 3, head := 3 } id with grids := [(0, g)] }
      !queuePending s g && !queueExhausted s g)
    && ((at_.block? 0 0).any fun b => (at_.warp? 0 0 0).any fun w => w.refillSince.isSome && w.reached b.refillPc)
    && decide ((pair.core 0).lastSwap.getD 0 0 + 8 ≤ pair.cycle.toNat) && (swapOut pair 0 0).isSome && (coldNext pair 0 0).isSome
    && (match swapOut pair 0 0, coldNext pair 0 0 with
      | some (a, m, _), some (a', m', _) => (a, m) != (a', m')
      | _, _ => false)) = true := by decide +kernel
/-- The bench's block with an open instance. -/
def instAt (i : Inst) (s : State) : State := s.modBlock 0 0 fun b => { b with blockInst := some i }
/-- An open instance of a kind at which warp 0 has arrived. -/
def arrivedInst (bar : Option Bool) : Inst := { Inst.opened 0x20040 4096 bar with arrived := [0] }
/-- The block's instance, of a kind, is complete. -/
def due (s : State) (bar : Option Bool) : Bool := (s.block? 0 0).any fun b => (b.inst (instOf 8)).any fun i =>
  !i.overdue && match arriveAll b (instOf 8) i s.cycle.toNat with | (b, i) => instDone b i (b.membersOf (instOf 8)) && i.bar == bar
theorem witness_RendezvousEvents_instances : (due (instAt (arrivedInst none) floats) none && due (instAt (arrivedInst (some false)) floats) (some false)
    && due (instAt (arrivedInst (some true)) floats) (some true)
    && !due (instAt (arrivedInst none) (twoWarps id id)) none
    && (let s := settle (instAt { arrivedInst none with elapsed := 4096 } (twoWarps id id)) 0 0 (instOf 8)
      (s.block? 0 0).any fun b => !b.stopped && (b.inst (instOf 8)).any fun i => i.limit ≤ i.elapsed)
    && (let s := settle (instAt { arrivedInst none with elapsed := 4097 } (twoWarps id id)) 0 0 (instOf 8)
      (s.block? 0 0).any fun b => (b.inst (instOf 8)).any fun i => instDue s 0 b (instOf 8) i)) = true := by decide +kernel
/-- Past the timeout of every rendezvous. -/
def late (s : State) : State := { s with cycle := 0x2000000 }
theorem witness_RendezvousEvents_timeouts : (let held : State := (atPoint 1 (bench (diverged 0x20080))).modWarp 0 0 0 fun w =>
      { w with refillSince := some 0, refillLimit := 4096, splits := modAt w.splits 0 fun p => { p with rwait := true } };
    ((late held).block? 0 0).any (fun b => ((late held).warp? 0 0 0).any fun w => w.refillSince == some 0 && !w.reached b.refillPc
      && (w.splits.any fun q => q.waitsAt b.refillPc) && decide (w.refillLimit ≤ (late held).cycle.toNat))
    && ((late (bench (xw (xwait 1)))).warp? 0 0 0).any (fun w => w.xshuf.any fun x => x.got.isNone
      && decide (x.limit ≤ 0x2000000 - x.since))
    && ((late (bench fun w => { w with rftWait := true, rftLimit := 4096, trapMembers := [0] })).warp? 0 0 0).any fun w =>
      w.rftWait && w.trapMembers == [0] && (w.splits[0]?).isSome && decide (w.rftLimit ≤ 0x2000000 - w.rftSince)) = true := by decide +kernel
theorem witness_RendezvousEvents_joins : (let all : Warp := { benchWarp with splits := modAt benchWarp.splits 0 fun p => { p with jwait := true } }
    let w := diverged 0x20040 benchWarp
    let timed : Warp := { w with splits := modAt w.splits 0 fun p => { p with jwait := true, jdue := 2 } }
    (all.splits.any fun q => q.inGroup 0x20040 0) && (all.splits.all fun q => !q.valid || (q.depth == 0 && q.jwait && q.pc == 0x20040))
    && (timed.splits[0]?).any (fun p => p.valid && p.jwait && decide (2 ≤ p.jdue))
    && timed.splits.any fun q => q.valid && !q.jwait && timed.splits.all fun r => !r.valid || r.depth ≤ q.depth) = true := by decide +kernel
theorem witness_RendezvousEvents_gang : (let s := instAt { arrivedInst (some true) with blockArrived := true } floats
    s.blocks.any (fun p => p.2.grid == 0 && p.2.gang == 0 && p.2.atGang)
    && (s.blocks.all fun p => !(p.2.grid == 0 && p.2.gang == 0 && p.2.awaited) || p.2.atGang)
    && !savedAwaited s 0 0 && decide (1 < [0, 1].length)) = true := by decide +kernel
/-- A request for leave that nothing has granted. -/
def ungranted (cost : Nat) : State := floats.modDie 0 fun d =>
  { d with reqs := [{ core := 0, slot := 0, warp := 0, pc := 0x20040#64, cost := cost, prio := 0, aged := 0, since := 0, granted := false }] }
theorem witness_RendezvousEvents_leave : (let s := (ungranted 1).modDie 0 fun d => { d with inuse := 448 }
    (match leaveOrder ((ungranted 1).die 0).reqs with | q :: _ => mayGrant ((ungranted 1).die 0) 0 q && decide (q.pc.toNat < regainPc) | [] => false)
    && (match leaveOrder (s.die 0).reqs with | q :: _ => !mayGrant (s.die 0) 0 q | [] => false)) = true := by decide +kernel
/-- The bound pipe of pod scope. -/
def podPipe (near : Bool) : Pipe := { aPipe with scope := 2, matched := true, nearSide := near, peer := 1 }
/-- A number that is reserved or granted to the bench's core with an empty list. -/
def unasked (p : Pipe) : State :=
  let s := piped false p id
  { s with cores := s.cores.put 0 { s.core 0 with grants := [] } }
theorem witness_PipeHomeEvents_grants : (let s := unasked aPipe
    let far : State := { piped false aPipe id with kalends := 2000 }
    let coming : State := s.modCore 0 fun x => { x with grants := [(aKey, { nums := [], asked := true, coming := [3], last := 0 })] }
    let freed : State := s.modCore 0 fun x => { x with frees := [(aKey, { seqs := [2], since := 0 })] }
    !((s.core 0).grant aKey).asked && ((s.core 0).grant aKey).coming.isEmpty && boundProducer s 0 aKey && !aPipe.closed
    && decide (((s.core 0).grant aKey).nums.length ≤ aPipe.grantSize / 2) && !(s.core 0).assignsNothing && decide (0 < aPipe.free)
    && ({ aPipe with nextGrant := 4 } : Pipe).free == 0
    && !((coming.core 0).grant aKey).coming.isEmpty
    && decide (2000 ≤ far.passed ((far.core 0).grant aKey).last) && ((far.core 0).grant aKey).nums == [3]
    && ((freed.core 0).frees.get? aKey).isSome) = true := by decide +kernel
theorem witness_PipeHomeEvents_numbers : (let all : Pipe := { aPipe with slots := [(0, Slot.blank .filled), (1, Slot.blank .filled), (2, Slot.blank (.held 0 0))], closed := true }
    let s := piped false { aPipe with slots := [(0, { Slot.blank .retained with spilled := false })] } id
    let held := piped true aPipe id
    ({ aPipe with freeing := [2] } : Pipe).freeing == [2] && decide (2 < aPipe.nextGrant)
    && ({ aPipe with inflight := [1] } : Pipe).inflight == [1] && aPipe.st? 1 == some (.reserved 0 0 0)
    && all.closed && all.eosSeq == none && all.settledBelow && decide (0 < all.free)
    && (s.pipes.get? aKey).any (fun p => p.lift 0 == 0 && p.st? 0 == some .retained && p.eosSeq != some 0) && aPipe.lift 2 == 2
    && !aPipe.spillWait.contains 0
    && (match aPipe.slots.get? 0, ({ aPipe with resident := 0 } : Pipe).rangesOf held 1 0 aPipe.ssize .engWrite with
      | some x, (.ok _, _) => x.st == .filled && !x.spilled && !({ aPipe with resident := 0 } : Pipe).residentNums.contains 0
        && aPipe.eosSeq != some 0
      | _, _ => false)
    && (match ({ aPipe with slots := [(2, { Slot.blank (.held 0 0) with spilled := true })] } : Pipe).rangesOf held 1 2 aPipe.ssize .engRead with
      | (.ok _, _) => true
      | _ => false)) = true := by decide +kernel
theorem witness_PipeHomeEvents_pods : (let p := podPipe false
    let s := piped true p id
    let hdr := sealHeader (BitVec.ofNat 512 (3 * 2 ^ 64 + 64 * 2 ^ 128))
    let young : Pipe := { podPipe true with matched := false }
    let decl : List DWord := [0x40090, 0x100010001, 64, 0, 0, 0x20000, 0, 0]
    s.pipes.get? aKey == some p && p.scope == 2 && p.matched && p.st? 3 == none && bits hdr 64 48 == 3 && !bit hdr 161 && !bit hdr 160
    && (match p.rangesOf (s.modPipe aKey fun p => { p with peerLost := false }) 1 3 64 .engWrite with | (.ok _, _) => true | _ => false)
    && (podPipe true).nearSide && decide ((podPipe true).base + 1 ≤ (podPipe true).nextGrant)
    && (alm? s (pipeAsid aKey) (pipeAlm aKey)).isSome && !young.matched
    && decide (100000000 ≤ ({ s with kalends := 100000000 } : State).passed young.born)
    && p.agrees s aKey decl && !p.agrees s aKey [] && !p.peerLost) = true := by decide +kernel
/-- The bench's core with a miss-status entry for the line at 0x60000. -/
def missing (m : Miss) : State := floats.modCore 0 fun k => { k with mshr := [(0xC00, m)] }
/-- A multicast packet to cores 0 and 1. -/
def aMcast (slice : Option Nat) : Mcast :=
  { dests := [0, 1], slice := slice, fwd := false, off := 0, bytes := [(0, 1), (1, 2), (2, 3), (3, 4)], asid := 1, esz := 4, op := (0, 0), serial := 7, refused := [] }
/-- An access of a lane that waits for another device. -/
def aRemote : RemPend :=
  { core := 0, slot := 0, warp := 0, split := 0, lane := 5, kind := 0, dst := [8], size := 4, signed := false, keep := 0, group := 7, asid := 1
    va := 0x60014, acq := false, ins := 7 }
theorem witness_MemorySystemEvents_cache : (let l : L1Line := { valid := 3, dirty := 1, lrts := 0, data := 0#1024, since := 0 }
    let s := floats.modCore 0 fun k => { k with l1d := [(0xC00, l)] }
    (missOf (missing (.fill 1)) 0 0xC00 Miss.isFill).isSome && (missOf (missing (.back (0#1024) 3 5 1)) 0 0xC00 Miss.isBack).isSome
    && ((s.core 0).l1d.get? 0xC00).any (fun x => x.dirty &&& 1#32 != 0#32) && !missFull s 0
    && (missOf (missing (.write 1 1 (0#1024))) 0 0xC00 Miss.isWrite).isSome
    && (match missOf (missing (.atomic 1 0 4 9)) 0 0xC00 Miss.isAtomic with
      | some (i, .atomic asid op o x) => decide (o + atomicSize op ≤ 128)
        && (atomicNew op (atomicHome (dropMiss (missing (.atomic 1 0 4 9)) 0 i) 0 asid 0xC00 o op x.toNat false).1 x.toNat).isSome
      | _ => false)) = true := by decide +kernel
theorem witness_MemorySystemEvents_time : (let old : State := { floats with remTs := 0xC0000 }
    decide (((late floats).core 0).ptsAt + 4096 ≤ (late floats).cycle.toNat) && decide (floats.cycle.toNat < (floats.core 0).ptsAt + 4096)
    && !old.rebasing && (allStamps old).any (fun t => 0xC0000 ≤ t.toNat) && (allStamps floats).all fun t => t.toNat < 0xC0000) = true := by
  decide +kernel
theorem witness_MemorySystemEvents_multicast : (let s : State := { floats with mcasts := [aMcast (some 3)] }
    let t : State := { floats with mcasts := [aMcast none] }
    let inb : State := t.modBlock 0 0 fun b => { b with kernel := { b.kernel with inbound := true, inregs := 1 } }
    s.mcasts.any (fun m => m.slice == some 3 && !m.fwd) && t.mcasts.zipIdx.any (fun p => mcastReady t.mcasts p.2 0 p.1)
    && (mcastCause t.draw.2 0 (aMcast none)).isSome && (mcastCause inb.draw.2 0 { aMcast none with off := 0 }).isNone) = true := by decide +kernel
theorem witness_MemorySystemEvents_remote : (let s : State := { floats with remPend := [(7, aRemote)], boot := .up }
    let e : State := { floats with remPend := [(7, { aRemote with warp := engineWarp, slot := 0 })] }
    let v : Vigil := { words := [], st := .running, asid := 1, ended := none, op := none, fireTs := 0 }
    let waits : RemIns := { trapAt := { core := 0, slot := 0, warp := 0, split := 0, pc := 0x20040, sc := 0 }, la := 0, faults := []
                            entry := none, runsOn := false }
    let bad : State := { s with remIns := [(7, waits)] }
    let n : State := { floats with nsendAck := [(7, 6)], vigils := [(6, v)] }
    let lost : State := { floats with nsendTo := [(7, (1, 2))] }
    !poisoned s 0x60000 4 && poisoned { s with poison := [0xC00] } 0x60000 4 && decide (hbmEnd < 0xFFFFFFFFFF)
    && (s.remPend.get? 7).any (fun r => r.core != cpCore && r.warp != engineWarp && r.dst == [8] && r.size == 4 && !r.signed && r.lane < 64
      && (s.warp? r.core r.slot r.warp).any fun w => 8 < w.vregs.length)
    && s.boot == .up && State.reset.boot != .up && (bad.remIns.get? 7).isSome
    && (e.remPend.get? 7).any (fun r => r.core != cpCore && r.warp == engineWarp)
    && (n.remPend.get? 7).isNone && n.nsendAck.get? 7 == some 6 && (n.vigils.get? 6).isSome && (n.nsendTo.get? 7).isNone
    && (lost.remPend.get? 7).isNone && (lost.nsendAck.get? 7).isNone && lost.nsendTo.get? 7 == some (1, 2)) = true := by decide +kernel
/-- A record that waits for firmware's answer: cause 0x090 or another, at 0x20040. -/
def recOf (cause : Nat) (who : Who) : FaultRec :=
  { words := [BitVec.ofNat 64 (cause + 1 * 2 ^ 12), 0x2000000000, 0, 0x20040, 0, 0, 0, 0], who := who, rseq := 3, written := true }
/-- A state with that record. -/
def answering (r : FaultRec) (s : State) : State := { s with ctxs := modKey s.ctxs 1 fun x => { x with records := [r] } }
/-- The record is the one an answer finds. -/
def finds (s : State) (p : FaultRec → Bool) (who : Who) : Bool := match unanswered s p with
  | some (asid, r) => asid == 1 && r.who == who
  | none => false
/-- An operand-log entry of the bench's warp: lane 5 of a load of 32-bit words at a base. -/
def logged (base : DWord) : LogEntry :=
  { word := 0x68082003, hints := [], cause := 0x090, base := base, lanes := 0x20, addr := Vec.splat 0, data := [], busy := false
    slot := 0, warp := 0, split := 0, pc := 0x20040, place := [], deferred := [], members := [], lead := 0 }
/-- The bench's core with that entry. -/
def logState (base : DWord) : State :=
  let s := floats.modCore 0 fun k => { k with oplog := [(logKey 0 2, logged base)] }
  { s with mem := Mem.store s.mem 0x12008 8 0x1000000043F }
theorem witness_FaultServiceEvents_log : (
    let out (base : DWord) (H : LaneOut → Bool) : Bool :=
      match (logState base).block? 0 0, (decodeWord (logged base).word).toOption.bind memOpOf with
      | some b, some op => ((logState base).core 0).oplog.has (logKey 0 2)
        && !(logged base).busy
        && (let o := runLanes 0 0 0 b op [] (logState base) (logged base).accs; o.hits.isEmpty && H o)
      | _, _ => false;
    out 0x30000 (fun o => o.trans.isEmpty && o.bad.isEmpty && o.ins.isNone) && out 0x1000000000 (fun o => o.trans.isEmpty && o.ins.isSome)
    && out 0x2000000000 (fun o => !o.trans.isEmpty && o.ins.isNone)
    && memoryCause (logged 0).cause && (logged 0).lanes != 0#64) = true := by decide +kernel
theorem witness_FaultServiceEvents_traps : (
    let trap : FaultRec := recOf 0x090 (.trap 0 0 0 0)
    let no : FaultRec := recOf 0x090 (.noLog 0 0 0 0 0x20)
    let z : TrapReq := { cause := 0x090, delivered := memoryCause 0x090, resnext := true }
    let h : State := floats.modBlock 0 0 fun b => { b with kernel := { b.kernel with trap := 0x02000010#64 } }
    finds (answering trap floats) (awaitsAnswer 0 0 3) trap.who && finds (answering no floats) (awaitsAnswer 0 0 3) no.who
    && (floats.block? 0 0).any (fun b => (floats.warp? 0 0 0).any fun w => !toHandler b w z && w.trapMembers == [] && (w.splits[0]?).isSome)
    && (h.block? 0 0).any (fun b => (h.warp? 0 0 0).any fun w => toHandler b w z) && trap.words.length == 8
    && ((floats.modSplit 0 0 0 0 fun p => { p with faultWait := true }).split? 0 0 0 0).any fun p => p.awaits no.pc) = true := by decide +kernel
theorem witness_FaultServiceEvents_units : (
    let e : FaultRec := recOf 0x090 (.engine 0 0 7)
    let k : FaultRec := recOf 0x090 (.packet 0)
    let p : FaultRec := recOf 0x090 (.pipe aKey 2)
    let copying : State := answering e (withOps [(0, { anOp .copy with suspended := true })] floats)
    let matrix : State := answering e (withOps [(0, { anOp .matrix with suspended := true })] floats)
    finds copying (unitRecord 0 3) e.who && !stillWaits copying 0 0 8 && (copying.op? 0 0).any (fun o => o.serial == 7 && o.suspended)
    && (matrix.op? 0 0).any (fun o => o.serial == 7 && o.suspended)
    && finds (answering (recOf 0x090 (.engine 0 0 8)) copying) (unitRecord 0 3) (.engine 0 0 8) && (copying.op? 0 0).any (fun o => o.kind != .matrix)
    && finds (answering k (sent 6 [])) (unitRecord cpCore 3) k.who && ((sent 6 []).pkts.get? 0).any (fun p => p.kind != 0)
    && finds (answering p (piped true aPipe id)) (unitRecord pipeCore 3) p.who && ((piped true aPipe id).pipes.get? aKey).isSome
    && matrix.ctxs.all (fun x => x.1 == 1 && x.2.records.all fun r => r == e && matrixRecord matrix 0 3 r)
    && (matrix.op? 0 0).isSome && (matrix.ctxs.get? 1).any fun x => x.records == [e]) = true := by decide +kernel
theorem witness_FaultServiceEvents_dirty : (
    let t : TlbEntry := { asid := 1, lg := 36, va := 0, pte := 0x83F, pteAddr := 0x12000, dirtied := true, dirtySince := 0 }
    let s : State := { floats.modCore 0 fun k => { k with dtlb := [t] } with kalends := 1000000 }
    ((s.core 0).dtlb[0]?).any (fun e => e.dirtied && decide (1000000 ≤ s.passed e.dirtySince))
    && (floats.ctx 1).records.all (·.written)) = true := by decide +kernel
/-- A copy of two words from 0x30000 to 0x60000. -/
def copyRec : List DWord := [0x30000, 0x60000, 0x11, 0, 1, 0, 0, 0x10000]
/-- A gather of one word of row 0 into scratch. -/
def gatherRec : List DWord := [0x30000, 0x60000, 16, 0x400000001, 0x2000000, 0, 0, 0]
/-- A transfer of those two words to rank 1 of two devices, in one chunk. -/
def xferRec : List DWord := copyRec ++ [1, 0x120000000001, 0, 0, 0, 0, 0, 0]
/-- A card of one K-step of format 4 from scratch, without an epilogue. -/
def cardRec : List DWord := [0x900050044, 0, 0x1000, 0, 0, 0, 1, 0, 0, 0, 0, 0, 0, 0, 0, 0]
/-- The bench's core with one entry, at the head of every queue. -/
def running (o : OpEntry) : State := (withOps [(0, o)] floats).modCore 0 fun k =>
  { k with copyQ := [0], gathQ := [[0], []], matQ := [0], xferQ := [0] }
/-- An accepted entry of a record. -/
def accepted (kind : OpKind) (ws : List DWord) : OpEntry := { anOp kind with accepted := true, record := ws, openIn := [] }
theorem witness_EngineEvents_accept : (
    let ok (kind : OpKind) (ws : List DWord) (n : Nat) (H : State → OpEntry → List DWord → Bool) : Bool :=
      let s := running { anOp kind with record := ws }
      match s.op? 0 0 with
      | some op => !op.accepted && !op.complete && !op.suspended && (match readRecord s 0 0 op n with
        | (.ok r, u) => (u.op? 0 0).isSome && H u op r
        | _ => false)
      | none => false;
    let first (kind : OpKind) : Bool := ((running (anOp kind)).op? 0 0).any fun op => acceptFirst (running (anOp kind)) 0 0 op
    first .copy && first (.gather 0)
    && ok .copy copyRec 8 (fun u op ws => shapeCause u op.asid ws (op.warp == 0x1F) == none)
    && ok .copy [] 8 (fun u op ws => (shapeCause u op.asid ws (op.warp == 0x1F)).isSome)
    && ok (.gather 0) gatherRec 8 (fun u op ws => gatherCause u op.asid ws == none)
    && ok (.gather 0) [] 8 (fun u op ws => (gatherCause u op.asid ws).isSome)
    && ok .matrix cardRec 16 (fun u _ ws => (u.block? 0 0).any fun b => cardCause b ws == none && (cardOf ws).ekind != 3)
    && ok .matrix [] 16 (fun u _ ws => (u.block? 0 0).any fun b => (cardCause b ws).isSome)
    && nextAccept (running (anOp .matrix)) 0 == some 0) = true := by decide +kernel
theorem witness_EngineEvents_kStep : (
    let s := (running (accepted .matrix cardRec)).modBlock 0 0 fun b => { b with scrSize := 0x2000 }
    let t := running (accepted .matrix (setAt cardRec 0 0x900051044#64))
    let left := running { accepted .matrix (setAt cardRec 13 0x100000000#64) with nestDone := true }
    let behind := { accepted .matrix cardRec with epend := true }
    let at_ (s : State) (H : Nat → OpEntry → Card → Block → MxClass → Bool) : Bool := match matrixRunner s 0, mxClass 4 with
      | some (e, op), some m => (opBlock s 0 op).any fun b => e == 0 && (cardOf op.record).afmt == 4 && H e op (cardOf op.record) b m
      | _, _ => false
    let surplus (op : OpEntry) (z : Card) : Bool := (op.nestDone || !z.scaled) && decide (op.sused + op.surplus < z.srec)
    at_ s (fun e op z b m => !surplus op z && !stepWaits s 0 e op z b && !z.scaled && Mem.wf (s.core 0).tiles
      && (match readStep s 0 e op z m with | (.ok _, _) => true | _ => false))
    && at_ t (fun e op z b m => !surplus op z && !stepWaits t 0 e op z b && z.scaled && decide (z.srec < op.sused + 2 * m.groups))
    && at_ (running behind) (fun e op z b _ => !surplus op z && stepWaits (running behind) 0 e op z b)
    && at_ left (fun _ op z _ _ => surplus op z)) = true := by decide +kernel
theorem witness_EngineEvents_epilogue : (
    let at_ (w0 : DWord) (H : EpDest → Bool) : Bool :=
      let s := running { accepted .matrix (setAt cardRec 0 w0) with epend := true }
      match matrixHead s 0 with
      | some (e, op) => op.epend && !op.epOut && (opBlock s 0 op).isSome && H (epDest s 0 e op.atEpilogue (cardOf op.record)).1
      | none => false;
    at_ 0x900C00044 (fun d => match d with | .ends k => k == 0x140 | _ => false)
    && at_ 0x1000900400444 (fun d => match d with | .to_ _ _ none => true | _ => false)
    && (matrixHead (running { accepted .matrix cardRec with epend := true, epOut := true }) 0).any (fun p => p.2.epOut && p.2.epend)
    && !engRemote (running (accepted .matrix cardRec)) 0 0 && (accepted .matrix cardRec).pq.isNone) = true := by decide +kernel
theorem witness_EngineEvents_engines : (
    let c : OpEntry := { accepted .copy copyRec with next := 1 }
    let g : OpEntry := accepted (.gather 0) gatherRec
    let far : OpEntry := accepted (.gather 0) (setAt gatherRec 0 0x2000000000)
    let cold (o : OpEntry) (H : GroupOut → Bool) : Bool :=
      gatherRuns (running o) 0 0 o && H (gatherGroup 0 0 (gatherOf o.record) o.next (running o) o.gdone).1;
    copyRuns (running c) 0 0 c && c.next != 0 && !(shapeOf c.record).mcast && c.next + 1 == (shapeOf c.record).count
    && (moveElement (running c) 0 0 c (shapeOf c.record) 1).1
    && copyRuns (running { c with next := 2 }) 0 0 { c with next := 2 } && !engRemote (running c) 0 0
    && cold g (fun r => r.ends.isNone && !r.waits && r.fault.isNone)
    && cold far (fun r => r.ends.isNone && !r.waits && r.fault.isSome)
    && cold (accepted (.gather 0) (setAt gatherRec 0 0x30001)) (fun r => r.ends.isSome)
    && !((running (anOp .copy)).op? 0 0).all (·.complete)) = true := by decide +kernel
/-- A vigil of the bench's context: its words, and its state. -/
def vigilOf (ws : List DWord) (st : VState) : Vigil := { words := ws ++ List.replicate (8 - ws.length) 0#64, st := st, asid := 1, ended := none, op := none, fireTs := 0 }
theorem witness_EngineEvents_vigils : (
    let armed : State := { floats with flits := [(5, 1)], vigils := [(6, vigilOf [5, 1] .armed)] }
    let own (l : List Nat) (s : State) : State := { s with ctrOwner := l.map fun k => (k, { asid := 1, ptag := 0, valid := true }) }
    let fires (w0 : DWord) (l : Tab Vigil) : State :=
      own [0, 4] { floats with firing := [6], vigils := l ++ [(6, vigilOf [w0, 0, 0, 4] .firing)] }
    let owns (s : State) (x : Vigil) : Bool := x.counters.all fun q => ownsCounter s x.asid q
    let ended (k : Nat) : Vigil := { vigilOf [] .running with ended := some k };
    armed.flits[0]? == some (5, 1) && (armed.vigils.get? 6).any (fun x => x.st == .armed && x.ctr == 5 && meets 1 (wordAt x.words 1))
    && ([0x0000, 0x1000, 0x2000, 0x3000] : List DWord).zipIdx.all (fun w => ((fires w.1 []).vigils.get? 6).any fun x => owns (fires w.1 []) x && x.field 0 12 4 == w.2)
    && !owns floats (vigilOf [5, 1] .armed) && (let n : Vigil := vigilOf [0x10050000] .running
      n.field 0 28 1 == 1 && ownsCounter (owner id) n.asid (n.field 0 16 12) && !ownsCounter floats n.asid (n.field 0 16 12))
    && (vigilOf [0x1000, 0, 0, 4] .firing |> fun x => !descMalformed floats.rank (x.words.drop 4))
    && ((fires 0x3000 [(4, vigilOf [] .parked)]).vigils.get? 4).any (fun y => y.st == .parked)
    && ((fires 0x3000 []).vigils.get? 4).all (fun y => y.st != .parked)
    && (vigilOf [] .armed).outcome == none && (ended 0).outcome == some 0 && (ended 0x106).outcome == some 0x106) = true := by decide +kernel
/-- A chunk's header: virtual address, and ptag. -/
def chunkHdr (va ptag : Nat) : List Byte := toBytes 8 (va + 3 * 2 ^ 56) ++ toBytes 8 ptag ++ List.replicate 48 0#8
theorem witness_EngineEvents_chunks : (
    let s := running (accepted .xfer xferRec)
    let o : ChunkOut := { core := 0, entry := 0, rank := 1, idx := 0, bytes := 512, serial := 7 }
    let data : List Byte := List.replicate 8 1#8
    let performs (va : Nat) : Bool := (performChunk (chunkOf 1 7 (chunkHdr va 0) data) { floats with chunkSeen := [(1, 7)] }).1;
    (match engOp? s 0 0 with
      | some op => xferRuns op && decide (transmitUsed s + (xferOf op.record).chunk ≤ collHalf) && (match nextChunk s op with
        | some (rank, n) => let z := shapeOf op.record
          let q := xferOf op.record;
          rank == 1 && (match readImagePart s 0 0 op z (n * q.chunk / z.esz) [] (chunkBytes z q n / z.esz) with
            | (some _, u) => (engOp? u 0 0).isSome
            | _ => false)
        | none => false)
      | none => false)
    && performs 0x60000 && !performs 0x2000000000 && (chunkHdr 0 5).length == 64
    && (chunkOf 1 7 (chunkHdr 0 5) data).ctx floats == none && floats.rank == 0 && floats.chunkSeen == []
    && ({ s with chunks := [(9, o)] } : State).chunks.get? 9 == some o
    && (engOp? s 0 0).any fun op => op.serial == o.serial && op.kind == .xfer && !op.complete) = true := by decide +kernel
theorem witness_EngineEvents_descriptors : (
    let s := owner id
    let ws := wordsOf 4 (toBytes 8 (5 * 2 ^ 10 + 2 ^ 22) ++ toBytes 8 1 ++ List.replicate 16 0#8)
    recField ws 0 10 12 == 5 && recField ws 0 22 1 == 1 && recField ws 0 23 1 == 0
    && (s.ctrOwner.get? 5).any (fun o => o.valid && o.ptag.toNat == 0 && (s.ctx o.asid).ptag.toNat == 0)
    && (floats.ctrOwner.get? 5).isNone && s.nsendWait.isEmpty) = true := by decide +kernel
theorem witness_EngineEvents_output : (
    let s := (running { accepted .matrix (setAt cardRec 0 0x4000901450444) with epend := true }).modBlock 0 0 fun b => { b with scrSize := 0x5000 }
    match matrixHead s 0 with
    | some (e, op) => (match opBlock s 0 op, epDest s 0 e op.atEpilogue (cardOf op.record) with
      | some b, (.to_ sp a none, u) =>
        let u := settleTile u 0 (b.tileBase + op.epCur)
        (checkOut u 0 e op sp (outAccesses a (outImage u 0 (b.tileBase + op.epCur) (cardOf op.record) (virtOf op.record).seed))).1
      | _, _ => false)
    | none => false) = true := by decide +kernel
/-- A collective group of ranks 0 and 1, of the bench's ptag. -/
def aGroup : CollGroup := { coll := 9, valid := true, ptag := 0, members := 3 }
/-- A holiday of that group at a step, of an initiator. -/
def aHoliday (stepNo initiator : Nat) (waiting : List Nat) : Holiday :=
  { initiator := initiator, hseq := 4, stepNo := stepNo, pkt := some 0, waiting := waiting, chunk := none, since := 0, asid := 1 }
/-- The bench with the group and a holiday. -/
def onHoliday (h : Holiday) (s : State) : State := { s with groups := [(0, aGroup)], holidays := [(9, h)] }
theorem witness_HolidayEvents : (
    let fresh : State := { floats with groups := [(0, aGroup)] }
    let xfer (acked : List (Nat × Nat)) : State := running { accepted .xfer (setAt xferRec 8 0x0009000000000001#64) with acked := acked, sent := [(1, 0)] }
    let late_ : State := { onHoliday (aHoliday 3 0 [1]) (sent 9 []) with kalends := 100000000 };
    (collGroup fresh 9).isSome && (fresh.holidays.get? 9).isNone && aGroup.ranks == [0, 1] && fresh.rank == 0
    && ([1, 2, 3].all fun n => (memberOf (onHoliday (aHoliday n 1 []) floats) 9 1 4).any fun h => h.stepNo == n)
    && (collOps (onHoliday (aHoliday 1 1 []) (xfer [])) 9).any (fun op => !belowDone (onHoliday (aHoliday 1 1 []) (xfer [])) op 1)
    && (collOps (onHoliday (aHoliday 1 1 []) (xfer [(1, 0)])) 9).all (fun op => belowDone (onHoliday (aHoliday 1 1 []) (xfer [(1, 0)])) op 1)
    && ([(1, [1]), (3, [1]), (2, [0, 1])].all fun q => (onHoliday (aHoliday q.1 0 q.2) floats).holidays.get? 9 == some (aHoliday q.1 0 q.2)
      && q.2.contains 1)
    && ((aHoliday 2 0 [0, 1]).waiting.filter (· != 1)) == [0] && chunkMax none (some 6) == some 6
    && (late_.holidays.get? 9).any (fun h => h.pkt == some 0 && decide (100000000 ≤ late_.passed h.since)) && (late_.pkts.get? 0).isSome
    && usesRank fresh 1 1 && !usesRank floats 1 1 && fresh.ctxs.map (·.1) == [1]) = true := by decide +kernel
/-- A session with keys of no bytes. -/
def aSession : Session := { number := 5, keyIn := [], keyOut := [], dseqIn := 0, dseqOut := 0, last := 0 }
theorem witness_PlatformEvents_session : (
    let up : State := { floats with boot := .up, nonce := some (List.replicate 32 0#8) }
    let old : State := { up with session := some aSession, kalends := 60000000000 };
    State.reset.boot == .off && !State.reset.asleep && up.boot == .up && up.nonce.isSome && !up.asleep && up.nextSession.isNone
    && decide (60000000000 ≤ old.passed aSession.last) && decide (({ old with kalends := 1 } : State).passed aSession.last < 60000000000)
    && ({ floats with boot := .halted } : State).boot == .halted && (checkDatagram aSession []).isNone) = true := by decide +kernel
theorem witness_PlatformEvents_states : (
    let up : State := { floats with boot := .up, tolerance := 0xFFFFFFFF }
    let idle : State := { up with blocks := [] };
    !dieIdle up 0 && dieIdle idle 0 && !packageIdle up && packageIdle idle && decide (5 ≤ idle.tolerance.toNat)
    && !ctxIdle up 1 && ctxIdle idle 1 && (floats.die (coreDie 0)).spares.contains 128
    && (let h := floats.modCore 3 fun c => { c with halted := true }
        (h.core 3).halted && h.blocks.all (fun b => b.1 / 96 != 3) && (h.die (coreDie 3)).spares.contains 128)
    && ({ floats with asleep := true } : State).asleep && ({ floats with retention := true } : State).retention
    && !packageIdle up && decide (300 ≤ idle.tolerance.toNat) && idle.tolerance == 0xFFFFFFFF
    && !up.inPod && up.rank == 0 && decide (100000 ≤ ({ up with kalends := 100000 } : State).passed up.powerAt)
    && decide (floats.passed floats.powerAt < 100000)
    && (up.blocks.get? 0).any (fun b => !b.stopped && (b.warps[0]?).isSome)
    && ((up.modBlock 0 0 fun b => { b with stopped := true }).blocks.get? 0).any (·.stopped)
    && (let d : Ring := ring2
      let bs : List Byte := toBytes 8 0x0000000200020105 ++ toBytes 8 0 ++ List.replicate 48 0#8
      pf (wordsOf 4 bs) 0 32 10 == 2 && pf (wordsOf 4 bs) 8 0 64 == d.nseq.toNat && decide ((d.wptr - d.rptr).toNat + bs.length ≤ d.size)))
    = true := by decide +kernel
/-- The bench's block waits for items of the pipe that its own stage fills. -/
def stuck : State :=
  let s := piped true aPipe fun w => { w with refillBlocked := true }
  { s with
    grids := modKey s.grids 0 fun g => { g with qpipe := some aKey }
    ctxs := modKey s.ctxs 1 fun x => { x with alms := [(0, { anAlmanac with
                                                   cycles := [{ stages := [0], pipes := [0], seen := [], count := 20, raised := false }] })] } }
theorem witness_ErrorDebugAndBalancerEvents : (
    let line : HomeLine := { data := 0, dirty := true, wts := 0, rts := 0, cu := false, poison := false, strm := false }
    let stalled : State := { floats.modWarp 0 0 0 fun w => { w with idle := 30000000 } with cycle := 30000000 }
    let sampled : State := { floats with ctxs := modKey floats.ctxs 1 fun x => { x with dbgctl := 2 }, cycle := 0x1000000 }
    let given : State := { staged floats with kalends := 1000, cores := floats.cores.put 0 { floats.core 0 with handoff := some (0, 1, 500) } };
    (({ floats with l2 := [(0xC00, line)] } : State).l2.get? 0xC00).isSome && coreStalled stalled 0 && !coreStalled floats 0
    && !(floats.core 0).withdrawn && !(floats.die 0).spares.isEmpty
    && ((floats.modDie 0 fun d => { d with spares := [] }).die 0).spares.isEmpty
    && (floats.block? 0 0).any (fun b => !b.stopped) && ((floats.modBlock 0 0 fun b => { b with stopped := true }).block? 0 0).any (·.stopped)
    && decide (((sampled.core 0).sampledAt.getD 0 0) + samplePeriod (sampled.ctx 1) ≤ sampled.cycle.toNat)
    && decide (floats.cycle.toNat < samplePeriod (sampled.ctx 1))
    && (match nextSampled (sampledWarps sampled 0 0) ((sampled.core 0).sampled.getD 0 0) with
      | some (k, w) => (nextSplit (sampled.modCore 0 fun x => { x with sampled := setAt x.sampled 0 k }) 0 (k / 32) (k % 32) w).any fun r => r.1 < 8
      | none => false)
    && (nextSampled (sampledWarps floats 0 0) 0).isNone && ((floats.modCore 0 fun k => { k with pmwrap := [3] }).core 0).pmwrap == [3]
    && decide (50000 ≤ ({ floats with kalends := 50000 } : State).passed 0) && decide (floats.passed floats.sampleAt < 50000)
    && (given.core 0).handoff == some (0, 1, 500) && (given.grids.get? 0).any (fun g => !g.complete) && (given.grids.get? 1).isSome
    && !(coreBlocks given 0).isEmpty && decide ((given.kalends - 500).toNat < 2 ^ 63) && (coreBlocks { given with blocks := [] } 0).isEmpty
    && (alm? stuck 1 0).any (fun a => (dueCycle stuck 1 0 a).isSome)
    && (alm? (withAlm floats) 1 0).any fun a => (dueCycle (withAlm floats) 1 0 a).isNone) = true := by
  decide +kernel
/-- The header of an empty datagram of a session. -/
def datagramHead : List Byte := [0x36, 0x53, 1, 0, 5, 0, 0, 0, 1, 0, 0, 0, 0, 0, 0, 0, 0, 0, 0, 0, 0, 0, 0, 0, 0, 0, 0, 0, 0, 0, 0, 0]
theorem witness_PlatformEvents_datagram : checkDatagram aSession
    (datagramHead ++ toBytes 32 (Config.kmac256 [] datagramHead).toNat) = some (1, []) := by
  generalize ht : toBytes 32 (Config.kmac256 [] datagramHead).toNat = t
  have hl : t.length = 32 := by rw [← ht]; simp [toBytes]
  have hw : wordsOf 4 (datagramHead ++ t) = [0x500015336#64, 1#64, 0#64, 0#64] := by
    have h : ∀ i, i < 4 → (((datagramHead ++ t).drop (8 * i)).take 8) = (datagramHead.drop (8 * i)).take 8 := by
      intro i hi; rcases i with _ | _ | _ | _ | i <;> first | rfl | omega
    rw [show wordsOf 4 (datagramHead ++ t) = wordsOf 4 datagramHead from ?_]
    · decide
    · exact List.map_congr_left fun i hi => by rw [h i (List.mem_range.mp hi)]
  have htk : (datagramHead ++ t).take 32 = datagramHead := by rfl
  have hdr : (datagramHead ++ t).drop 32 = t := by rfl
  have hlen : (datagramHead ++ t).length = 64 := by rw [List.length_append, hl]; rfl
  have hn : pf [0x500015336#64, 1#64, 0#64, 0#64] 0x10 0 14 = 0 := by decide
  simp only [checkDatagram, hw, hn, Nat.add_zero, htk, hdr, hlen]
  have hk : aSession.keyIn = [] := rfl
  rw [hk, ht]
  simp [aSession]
  decide
/-- A power-control datagram before its tag. -/
def powerHead : List Byte := [0x36, 0x53, 4, 0, 5, 0, 0, 0, 1, 0, 0, 0, 0, 0, 0, 0, 32, 0, 0, 0, 0, 0, 0, 0, 0, 0, 0, 0, 0, 0, 0, 0] ++ List.replicate 32 0
theorem witness_PlatformEvents_power : checkDatagram aSession
    (powerHead ++ toBytes 32 (Config.kmac256 [] powerHead).toNat) = some (4, List.replicate 32 0) := by
  generalize ht : toBytes 32 (Config.kmac256 [] powerHead).toNat = t
  have hl : t.length = 32 := by rw [← ht]; simp [toBytes]
  have hw : wordsOf 4 (powerHead ++ t) = [0x500045336#64, 1#64, 32#64, 0#64] := by
    have h : ∀ i, i < 4 → (((powerHead ++ t).drop (8 * i)).take 8) = (powerHead.drop (8 * i)).take 8 := by
      intro i hi; rcases i with _ | _ | _ | _ | i <;> first | rfl | omega
    rw [show wordsOf 4 (powerHead ++ t) = wordsOf 4 powerHead from ?_]
    · decide
    · exact List.map_congr_left fun i hi => by rw [h i (List.mem_range.mp hi)]
  have htk : (powerHead ++ t).take 64 = powerHead := by rfl
  have hdr : (powerHead ++ t).drop 64 = t := by rfl
  have hlen : (powerHead ++ t).length = 96 := by rw [List.length_append, hl]; rfl
  have hb : ((powerHead ++ t).drop 32).take 32 = List.replicate 32 0 := by rfl
  have hn : pf [0x500045336#64, 1#64, 32#64, 0#64] 0x10 0 14 = 32 := by decide
  simp only [checkDatagram, hw, hn, Nat.reduceAdd, htk, hdr, hlen, hb]
  have hk : aSession.keyIn = [] := rfl
  rw [hk, ht]
  simp [aSession]
  decide

/-! ### Values that meet the hypotheses of the statements about arithmetic and encodings -/

/-- A nearest-rounding environment. -/
def anEnv (sat : Bool) : FEnv := FSet.env { mode := 0, ftz := false, sat := sat, sr := false } 0
theorem witness_SpecialFloatResults : ([(Fmt.f64, 0x7FF8000000000000, 0x3FF0000000000000), (.f32, 0x7FC00000, 0x3F800000),
    (.f16, 0x7E00, 0x3C00), (.bf16, 0x7FC0, 0x3F80)] : List (Fmt × Nat × Nat)).all (fun p => p.1.isNan p.2.1
      && (match p.1.decode p.2.2 with | .fin n m _ => !n && m != 0 | _ => false)) = true
    ∧ (anEnv true).sat = true ∧ (anEnv false).sat = false ∧ (anEnv false).ftz = false := by decide +kernel
theorem witness_RoundingResults : ([Fmt.f64, .f32, .f16, .bf16, .e5m2, .e4m3, .e3m2, .e2m3, .e2m1] : List Fmt).all (fun f =>
    [1, 2 ^ f.man, 2 ^ (f.width - 1) + 1].all fun x => decide (x < 2 ^ f.width) && match f.decode x with | .fin _ _ _ => true | _ => false) = true
    ∧ (anEnv false).ftz = false := by decide +kernel
theorem witness_DecodeOfEncodeIsTheInstruction : ([.ld 0 2 2 0 8 0 3, .xshuf 9 1 4 6 5, .exit 1] : List Instr).all (fun i => i.wf
    && (match encodeWord i with | some w => (match decodeWord w with | .ok j => decide (i = j) | _ => false) | none => false)
    && (encode i).isSome) = true := by decide +kernel

end Sys2Proof.Tests
end

/-! Bring-up, the command session, kalends, power states and limits, and the registers that firmware writes (O53). -/

namespace Sys2Proof.Proofs.Platform

open Sys2Proof Sys2Proof.Machine Sys2Proof.Laws

/-! ### Dies -/

@[simp] theorem die_modDie_same (s : State) (d : Nat) (f : Die → Die) : (s.modDie d f).die d = f (s.die d) := by
  simp [State.die, State.modDie, Tab.getD]

theorem die_modDie_other (s : State) {d e : Nat} (f : Die → Die) (h : e ≠ d) : (s.modDie d f).die e = s.die e := by
  simp [State.die, State.modDie, Tab.getD, get?_put_other _ _ h]

@[simp] theorem die_modCore (s : State) (c d : Nat) (f : Core → Core) : (s.modCore c f).die d = s.die d := rfl

/-- Changes of one die after another change the dies alone. -/
theorem foldl_modDie_rest (g : State → Nat → Die → Die) (l : List Nat) (s : State) :
    { l.foldl (fun s d => s.modDie d (g s d)) s with dies := s.dies } = s := by
  induction l generalizing s with
  | nil => rfl
  | cons d r ih => exact congrArg (fun z : State => { z with dies := s.dies }) (ih (s.modDie d (g s d)))

/-- Each of the first `n` dies is changed once, when its change does not depend on the dies. -/
theorem die_foldl_modDie (g : State → Nat → Die → Die) (hg : ∀ t ds, g { t with dies := ds } = g t) (s : State) (n e : Nat) :
    ((List.range n).foldl (fun s d => s.modDie d (g s d)) s).die e = if e < n then g s e (s.die e) else s.die e := by
  induction n with
  | zero => rfl
  | succ n ih =>
    have hn : ∀ t : State, { t with dies := s.dies } = s → g t = g s := fun t h => by rw [← hg t s.dies, h]
    rw [List.range_succ, List.foldl_append, List.foldl_cons, List.foldl_nil, hn _ (foldl_modDie_rest g _ s)]
    by_cases h : e = n
    · subst h
      simp [ih]
    · rw [die_modDie_other _ _ h, ih]
      exact ite_congr (propext (by omega)) (fun _ => rfl) (fun _ => rfl)

/-! ### Bring-up (16 R292) -/

theorem execPowerOn_on {s : State} (h : s.boot ≠ .off ∨ s.asleep = true) (key : List Byte) (images sigs : List (List Byte)) :
    execPowerOn key images sigs s = .next s := by
  rcases h with h | h <;> simp [execPowerOn, h]

theorem execPowerOn_unverified {s : State} {key : List Byte} {images sigs : List (List Byte)} (hb : s.boot = .off)
    (ha : s.asleep = false) (hv : firstImageOk key images sigs = false) :
    execPowerOn key images sigs s = .next (haltBoot { s with measure := List.replicate 8 (List.replicate 64 0#8) }) := by
  simp [execPowerOn, hb, ha, hv]

/-- Boot of one verified image: no later stage is measured. -/
theorem execPowerOn_oneImage {s : State} {key image sig : List Byte} (hb : s.boot = .off) (ha : s.asleep = false)
    (hv : firstImageOk key [image] [sig] = true) :
    execPowerOn key [image] [sig] s
      = .next { s with measure := List.replicate 8 (List.replicate 64 0#8), boot := .up, errcnt := 0 } := by
  simp [execPowerOn, hb, ha, hv, laterImages]

/-! ### The session (16 R293) -/

theorem execAttestationRequest_up {s : State} {nonce : List Byte} (hb : s.boot = .up) (hl : nonce.length = 32) :
    let f := s.measure ++ [nonce, Config.certificate, Config.mlkemKey s.kemKeys]
    execAttestationRequest nonce s
      = .next (({ s with nonce := some nonce, kemKeys := s.kemKeys + 1 }).send (.report (f ++ [Config.mldsaSign f.flatten]))) := by
  simp [execAttestationRequest, hb, hl]

theorem limitRate_eq (r : Int) : limitRate r = max (-100) (min 100 r) := by
  unfold limitRate
  split
  · omega
  · split <;> omega

theorem le_limitRate (r : Int) : -100 ≤ limitRate r := limitRate_eq r ▸ Int.le_max_left _ _

theorem limitRate_le (r : Int) : limitRate r ≤ 100 := by
  rw [limitRate_eq]
  omega

theorem limitRate_within {r : Int} (hlo : -100 ≤ r) (hhi : r ≤ 100) : limitRate r = r := by
  rw [limitRate_eq]
  omega

theorem execSessionEncapsulation_none {s : State} (h : s.nonce = none) (cipher : List Byte) :
    execSessionEncapsulation cipher s = .next s := by
  simp [execSessionEncapsulation, h]

/-- The rings once a session has been established: an unended session keeps its ring 0. -/
def sessionRings (s : State) : Tab Ring :=
  if s.session.isSome && s.rings.has 0 then s.rings else s.rings.put 0 (ring0 s.sessions.toNat)

theorem sessionRings_has (s : State) : ((sessionRings s).get? 0).isSome = true := by
  unfold sessionRings
  split
  · rename_i h
    exact (Bool.and_eq_true_iff.mp h).2
  · simp

theorem sessionRings_other (s : State) {n : Nat} (h : n ≠ 0) : (sessionRings s).get? n = s.rings.get? n := by
  unfold sessionRings
  split
  · rfl
  · exact get?_put_other _ _ h

theorem sessionRings_fresh {s : State} (h : s.session = none) : (sessionRings s).get? 0 = some (ring0 s.sessions.toNat) := by
  simp [sessionRings, h]

theorem execSessionEncapsulation_up {s : State} (hn : s.nonce.isSome = true) (hb : s.boot = .up) (cipher : List Byte) :
    ∃ x : Session, x.number = Config.sessionNumber s.sessions.toNat ∧ x.dseqIn = 0 ∧ x.dseqOut = 0
      ∧ execSessionEncapsulation cipher s = .next { s with
          nextSession := some x, nonce := none, sessions := s.sessions + 1, everSession := true, rate := limitRate s.rate
          rings := sessionRings s } := by
  obtain ⟨nonce, hn⟩ := Option.isSome_iff_exists.mp hn
  unfold execSessionEncapsulation
  rw [hn, hb]
  exact ⟨_, rfl, rfl, rfl, rfl⟩

theorem freshSession_stale {s : State} {x : Session} (h : 60000000000 ≤ s.passed x.last) : freshSession s (some x) = none := by
  simp [freshSession, Option.filter, h]

theorem freshSession_live {s : State} {x : Session} (h : s.passed x.last < 60000000000) :
    freshSession s (some x) = some x := by
  simp [freshSession, Option.filter, h]

/-! ### Retention (16 R298, R299) -/

/-- What the end of retention makes of a die. -/
def wokenDie (s : State) (_ : Nat) (x : Die) : Die := { x with budget := x.stateBudget, wakeAt := s.kalends.toNat + 300000 }

theorem wakePackage_awake {s : State} (h : s.retention = false) : wakePackage s = s := by
  simp [wakePackage, h]

theorem wakePackage_retained {s : State} (h : s.retention = true) :
    wakePackage s = (List.range 6).foldl (fun s d => s.modDie d (wokenDie s d)) { s with retention := false } := by
  unfold wakePackage
  rw [if_pos h]
  rfl

/-- Out of retention the dies and the mark alone change. -/
theorem wakePackage_rest {s : State} (h : s.retention = true) :
    { wakePackage s with dies := s.dies } = { s with retention := false } := by
  rw [wakePackage_retained h]
  exact foldl_modDie_rest wokenDie _ { s with retention := false }

theorem die_wakePackage {s : State} (h : s.retention = true) {d : Nat} (hd : d < 6) :
    (wakePackage s).die d = { s.die d with budget := 448 - (s.die d).cut, wakeAt := s.kalends.toNat + 300000 } := by
  rw [wakePackage_retained h, die_foldl_modDie wokenDie (fun _ _ => rfl), if_pos hd]
  rfl

/-! ### Datagrams (16 R294, R295; 04 R80) -/

theorem acceptDatagram_halted {s : State} (hb : s.boot = .halted) (port : Nat) (bs : List Byte) :
    acceptDatagram s port bs = (none, if port = 0 then s.send .bootStatus else s) := by
  simp [acceptDatagram, hb]

theorem acceptDatagram_next {s : State} {x : Session} {bs : List Byte} {r : Nat × List Byte} (hb : s.boot = .up)
    (hn : s.nextSession = some x) (hc : checkDatagram x bs = some r) :
    acceptDatagram s 0 bs
      = (some r, wakePackage { s with session := some (x.accepted s bs), nextSession := none, tolerance := 0 }) := by
  simp [acceptDatagram, hb, hn, hc]

theorem acceptDatagram_session {s : State} {x : Session} {bs : List Byte} {r : Nat × List Byte} (hb : s.boot = .up)
    (hn : s.nextSession = none) (hs : s.session = some x) (hc : checkDatagram x bs = some r) :
    acceptDatagram s 0 bs = (some r, wakePackage { s with session := some (x.accepted s bs) }) := by
  simp [acceptDatagram, hb, hn, hs, hc]

theorem acceptDatagram_dropped {s : State} {x : Session} {bs : List Byte} (hb : s.boot = .up)
    (hn : s.nextSession = none) (hs : s.session = some x) (hc : checkDatagram x bs = none) :
    acceptDatagram s 0 bs = (none, { s with dropped := s.dropped + 1 }) := by
  simp [acceptDatagram, hb, hn, hs, hc]

theorem execCommandDatagram_packets {s t : State} {port : Nat} {bs body : List Byte}
    (h : acceptDatagram s port bs = (some (1, body), t)) : execCommandDatagram port bs s = .next (receivePayload t body) := by
  rw [execCommandDatagram, h]
  rfl

theorem execCommandDatagram_none {s t : State} {port : Nat} {bs : List Byte} (h : acceptDatagram s port bs = (none, t)) :
    execCommandDatagram port bs s = .next t := by
  rw [execCommandDatagram, h]

theorem execPowerControl_tolerance {s t : State} {port : Nat} {bs body : List Byte}
    (h : acceptDatagram s port bs = (some (4, body), t)) :
    execPowerControl port bs s = .next { t with tolerance := BitVec.ofNat 32 (ofBytes (body.take 4)) } := by
  rw [execPowerControl, h]
  rfl

theorem execPowerControl_none {s t : State} {port : Nat} {bs : List Byte} (h : acceptDatagram s port bs = (none, t)) :
    execPowerControl port bs s = .next t := by
  rw [execPowerControl, h]

/-- What a datagram has met that the device accepts: its number, its order, its size and its tag. -/
theorem checkDatagram_some {x : Session} {bs : List Byte} {r : Nat × List Byte} (h : checkDatagram x bs = some r) :
    x.dseqIn < pf (wordsOf 4 bs) 8 0 64 ∧ pf (wordsOf 4 bs) 0 32 32 = x.number.toNat ∧ bs.length ≤ 9024
      ∧ bs.drop (bs.length - 32) = toBytes 32 (Config.kmac256 x.keyIn (bs.take (bs.length - 32))).toNat := by
  unfold checkDatagram at h
  dsimp only at h
  split at h
  · cases h
  · rename_i hc
    simp only [Bool.or_eq_true, not_or, bne_iff_ne, ne_eq, Classical.not_not, decide_eq_true_eq, Nat.not_le, Nat.not_lt] at hc
    obtain ⟨⟨⟨⟨⟨⟨⟨⟨⟨⟨-, hlen⟩, hn⟩, -⟩, -⟩, -⟩, hnum⟩, -⟩, -⟩, htag⟩, hseq⟩ := hc
    have hend : bs.length - 32 = 32 + pf (wordsOf 4 bs) 0x10 0 14 := by omega
    rw [hend]
    exact ⟨hseq, hnum, by omega, htag⟩

/-- A packet in its turn, for which its ring has room, is written and counted. -/
theorem receivePacket_taken {s : State} {bs : List Byte} {d : Ring} (hd : s.rings.get? (pf (wordsOf 4 bs) 0 32 10) = some d)
    (hn : pf (wordsOf 4 bs) 8 0 64 = d.nseq.toNat) (hr : (d.wptr - d.rptr).toNat + bs.length ≤ d.size) :
    (receivePacket s bs).rings = s.rings.put (pf (wordsOf 4 bs) 0 32 10)
      { d with wptr := d.wptr + BitVec.ofNat 32 bs.length, nseq := d.nseq + 1 } := by
  unfold receivePacket
  dsimp only
  rw [hd]
  simp only [hn, bne_self_eq_false, Bool.false_eq_true, if_false, if_neg (Nat.not_lt.mpr hr)]
  rfl

/-! ### Kalends (16 R297) -/

theorem discipline_eq (s : State) (r : Int) :
    discipline s r = { s with rate := if s.everSession then max (-100) (min 100 r) else r, locked := true } := by
  rw [← limitRate_eq]
  rfl

theorem execPtpMessage_eq (s : State) (r : Int) :
    execPtpMessage r s = .next (if s.boot ≠ .up ∨ (s.inPod = true ∧ s.rank ≠ 0) then s
      else if s.inPod = true then (discipline s r).send (.timing (discipline s r).rate) else discipline s r) := by
  have hp : (discipline s r).inPod = s.inPod := rfl
  simp [execPtpMessage, hp]

theorem execUalinkTimingMessage_eq (s : State) (source : Nat) (r : Int) :
    execUalinkTimingMessage source r s
      = .next (if s.boot = .up ∧ s.inPod = true ∧ source = 0 ∧ s.rank ≠ 0 then discipline s r else s) := by
  simp [execUalinkTimingMessage, and_assoc]

/-! ### Power states (16 R298, R299) -/

theorem gateDie_rest (s : State) (d : Nat) : { gateDie s d with dies := s.dies } = s := by
  unfold gateDie
  split <;> rfl

theorem die_gateDie_same (s : State) (d : Nat) : (gateDie s d).die d
    = if (s.die d).gated then s.die d else { s.die d with gated := true, budget := 448 - (s.die d).cut } := by
  unfold gateDie
  split
  · rfl
  · exact die_modDie_same s d _

theorem die_gateDie_other (s : State) {d j : Nat} (h : j ≠ d) : (gateDie s d).die j = s.die j := by
  unfold gateDie
  split
  · rfl
  · exact die_modDie_other s _ h

theorem ungateDie_rest (s : State) (d : Nat) : { ungateDie s d with dies := s.dies } = s := by
  unfold ungateDie
  split <;> rfl

theorem die_ungateDie_same (s : State) (d : Nat) : (ungateDie s d).die d
    = if (s.die d).gated then { s.die d with gated := false, budget := 448 - (s.die d).cut, wakeAt := s.kalends.toNat + 5000 }
      else s.die d := by
  unfold ungateDie
  split
  · exact die_modDie_same s d _
  · rfl

theorem die_ungateDie_other (s : State) {d j : Nat} (h : j ≠ d) : (ungateDie s d).die j = s.die j := by
  unfold ungateDie
  split
  · exact die_modDie_other s _ h
  · rfl

theorem execPowerStateDecision_die {s : State} {d : Nat} (hb : s.boot = .up) (hd : d < 6) : execPowerStateDecision d s
    = .next (if dieIdle s d = true ∧ 5 ≤ s.tolerance.toNat then gateDie s d else ungateDie s d) := by
  simp [execPowerStateDecision, hb, hd, tolerates]

theorem execPowerStateDecision_package {s : State} {d : Nat} (hb : s.boot = .up) (hd : 6 ≤ d) : execPowerStateDecision d s
    = .next (if packageIdle s = true ∧ s.tolerance = 0xFFFFFFFF#32 then enterOff s
        else if packageIdle s = true ∧ 300 ≤ s.tolerance.toNat then { s with retention := true } else wakePackage s) := by
  simp [execPowerStateDecision, hb, Nat.not_lt.mpr hd, tolerates]

/-- The last that the off state sends is its signal to the board controller. -/
theorem outbox_enterOff (s : State) : (enterOff s).outbox.getLast? = some (.board 0) := by
  simp [enterOff, powerOff, State.send]

/-! ### Limits (16 R300) -/

theorem budgetAfter_exceeds (b : Nat) (below : Bool) :
    budgetAfter b true below = if b ≤ 64 then b else max 64 (b - 32) := by
  simp only [budgetAfter, if_true]
  split
  · rfl
  · split <;> omega

theorem budgetAfter_below (b : Nat) : budgetAfter b false true = if 448 ≤ b then b else min 448 (b + 32) := by
  simp only [budgetAfter, Bool.false_eq_true, if_false, if_true]
  split
  · rfl
  · split <;> omega

theorem cutAfter_exceeds (n : Nat) (below : Bool) : cutAfter n true below = min 384 (n + 32) := by
  simp only [cutAfter, if_true]
  split <;> omega

/-- What a power sample makes of a die. -/
def sampledDie (watts limit : Nat) (celsius : List Nat) (d : Nat) (x : Die) : Die :=
  let exceeds := decide (min limit 4800 < watts) || decide (95 < celsius.getD d 0)
  let below := decide (watts < min limit 4800) && decide (celsius.getD d 0 < 95)
  { x with budget := budgetAfter x.budget exceeds below, cut := cutAfter x.cut exceeds below }

theorem execPowerSample_early {s : State} (h : s.boot ≠ .up ∨ s.passed s.powerAt < 100000) (watts limit : Nat)
    (celsius : List Nat) : execPowerSample watts limit celsius s = .next s := by
  rcases h with h | h <;> simp [execPowerSample, h]

theorem execPowerSample_due {s : State} (hb : s.boot = .up) (ht : 100000 ≤ s.passed s.powerAt) (watts limit : Nat)
    (celsius : List Nat) :
    execPowerSample watts limit celsius s = .next ((List.range 6).foldl
      (fun s d => s.modDie d (sampledDie watts limit celsius d)) { s with powerAt := s.kalends.toNat }) := by
  have htop : (if limit < 4800 then limit else 4800) = min limit 4800 := by split <;> omega
  have hc : ¬(s.boot != .up || decide (s.passed s.powerAt < 100000)) = true := by simp [hb, ht]
  unfold execPowerSample
  rw [if_neg hc, htop]
  rfl

/-- A die after a power sample: only the limits on it change, by where the sample lies. -/
theorem sampledDie_law (watts limit : Nat) (celsius : List Nat) (d : Nat) (x : Die) :
    let y := sampledDie watts limit celsius d x
    let hot := min limit 4800 < watts ∨ 95 < celsius.getD d 0
    { y with budget := x.budget, cut := x.cut } = x
      ∧ (hot → y.budget = (if x.budget ≤ 64 then x.budget else max 64 (x.budget - 32)) ∧ y.cut = min 384 (x.cut + 32))
      ∧ (watts < min limit 4800 → celsius.getD d 0 < 95 →
          y.budget = (if 448 ≤ x.budget then x.budget else min 448 (x.budget + 32)) ∧ y.cut = x.cut - 32)
      ∧ (¬hot → ¬(watts < min limit 4800 ∧ celsius.getD d 0 < 95) → y.budget = x.budget ∧ y.cut = x.cut) := by
  simp only [sampledDie, ← Bool.decide_or, ← Bool.decide_and]
  refine ⟨trivial, fun hot => ?_, fun hw hc => ?_, fun hot cool => ?_⟩
  · rw [decide_eq_true hot]
    exact ⟨budgetAfter_exceeds _ _, cutAfter_exceeds _ _⟩
  · rw [decide_eq_false (by omega : ¬(min limit 4800 < watts ∨ 95 < celsius.getD d 0)), decide_eq_true ⟨hw, hc⟩]
    exact ⟨budgetAfter_below _, rfl⟩
  · rw [decide_eq_false hot, decide_eq_false cool]
    exact ⟨rfl, rfl⟩

/-! ### Registers of dies, cores and contexts (00 R7, R8; 10 R194) -/

theorem exec_registerWrite {s t : State} {reg index : Nat} {v : DWord} (h : writeRegister s reg index v = t) :
    exec (.registerWrite reg index v) s = .next t :=
  congrArg Host.Outcome.next h

theorem writeRegister_lvctl {d : Nat} (hd : d < 6) (s : State) (v : DWord) :
    writeRegister s 0 d v = s.modDie d fun x => { x with budget := bits v 0 10, ramp := bits v 16 10 } :=
  if_pos hd

theorem writeRegister_pmcnt {c k : Nat} (hc : c < 768) (hk : k < 8) (s : State) (v : DWord) :
    writeRegister s 1 (8 * c + k) v = s.modCore c fun x => { x with pmcnt := x.pmcnt.set k (BitVec.ofNat 48 v.toNat) } := by
  have hq : (8 * c + k) / 8 = c := by omega
  have hr : (8 * c + k) % 8 = k := by omega
  simp only [writeRegister, hq, hr, if_pos hc, setAt]

theorem writeRegister_pmctl {c k : Nat} (hc : c < 768) (hk : k < 8) (s : State) (v : DWord) :
    writeRegister s 2 (8 * c + k) v = s.modCore c fun x => { x with pmctl := x.pmctl.set k (v &&& 0x1FFFFF#64) } := by
  have hq : (8 * c + k) / 8 = c := by omega
  have hr : (8 * c + k) % 8 = k := by omega
  simp only [writeRegister, hq, hr, if_pos hc, setAt]

theorem writeRegister_record {asid k : Nat} (ha : asid < 1024) (hk : k < 8) (s : State) (v : DWord) :
    writeRegister s 3 (8 * asid + k) v = writeRecord s asid k v := by
  have hq : (8 * asid + k) / 8 = asid := by omega
  have hr : (8 * asid + k) % 8 = k := by omega
  simp only [writeRegister, hq, hr, if_pos ha]

theorem writeRecord_busy {s : State} {asid : Nat} (h : ctxIdle s asid = false) (k : Nat) (v : DWord) :
    writeRecord s asid k v = s := by
  simp [writeRecord, h]

theorem writeRecord_asid {s : State} {asid : Nat} (h : ctxIdle s asid = true) (v : DWord) :
    writeRecord s asid 0 v = s.modCtx asid fun x => { x with recAsid := v.setWidth 10 } := by
  simp [writeRecord, h]

theorem writeRecord_root {s : State} {asid : Nat} (h : ctxIdle s asid = true) (v : DWord) :
    writeRecord s asid 1 v = s.modCtx asid fun x => { x with root := v &&& 0xFFFFFFFFFE000#64 } := by
  simp [writeRecord, h]

theorem writeResidency_busy {s : State} {asid : Nat} (h : ctxIdle s asid = false) (v : DWord) :
    writeResidency s asid v = s := by
  simp [writeResidency, h]

theorem ctx_writeResidency {s : State} {asid : Nat} {v : DWord} (ha : asid < 1024) (h : ctxIdle s asid = true)
    (hv : bit v 0 = true) :
    (writeResidency s asid v).ctx asid = { Ctx.init with firmware := bit v 1, ptag := BitVec.ofNat 16 (bits v 16 16) } := by
  simp [writeResidency, h, hv, Nat.not_le.mpr ha, State.ctx, Tab.getD]

theorem writeRegister_faultQueue {asid : Nat} (ha : asid < 1024) (s : State) (v : DWord) :
    writeRegister s 8 asid v
      = s.modCtx asid fun x => { x with fqBase := v &&& 0xFFFFFFFFFF000#64, fqLsize := bits v 52 5 } :=
  if_pos ha

theorem writeRegister_dbgctl {asid : Nat} (ha : asid < 1024) (s : State) (v : DWord) :
    writeRegister s 9 asid v = s.modCtx asid fun x => { x with dbgctl := v &&& 0x7FF#64 } :=
  if_pos ha

/-! ### Words of a stopped warp (15 R283) -/

theorem lane_set (x : Vec) (i : Nat) (a : Word) {l : Nat} (hl : l < 64) :
    (x.set i a).lane l = if l = i then a else x.lane l :=
  lane_of _ hl

/-- The lanes of a vector register after a word of it has been replaced: an even lane its low half, an odd one its high half. -/
theorem lane_pokeVec (x : Vec) (o : Nat) (v : DWord) {l : Nat} (hl : l < 64) : (pokeVec x o v).lane l
    = if o = l / 2 then (if l % 2 = 0 then v.setWidth 32 else (v >>> 32).setWidth 32) else x.lane l := by
  unfold pokeVec
  rw [lane_set _ _ _ hl, lane_set _ _ _ hl]
  by_cases ho : o = l / 2
  · rcases Nat.mod_two_eq_zero_or_one l with h | h
    · rw [if_neg (by omega), if_pos (by omega), if_pos ho, if_pos h]
    · rw [if_pos (by omega), if_pos ho, if_neg (by omega)]
  · rw [if_neg (by omega), if_neg (by omega), if_neg ho]

theorem poke_scalar {o : Nat} (h : 64 ≤ o) (h' : o < 128) (asid : Nat) (ops : Tab OpEntry) (v : DWord) (w : Warp) :
    w.poke asid ops o v = { w with sregs := w.sregs.set (o - 64) v } := by
  unfold Warp.poke
  dsimp only
  rw [if_neg (by omega), if_neg (by omega), if_neg (by omega), if_neg (by omega), if_neg (by omega), if_neg (by omega),
    if_neg (by omega), if_neg (by omega), if_neg (by omega), if_pos h']
  rfl

theorem poke_vector {o : Nat} (h : 0xB40 ≤ o) (asid : Nat) (ops : Tab OpEntry) (v : DWord) (w : Warp) :
    w.poke asid ops o v = { w with vregs := modAt w.vregs ((o - 0xB40) / 32) fun x => pokeVec x (o % 32) v } := by
  unfold Warp.poke
  dsimp only
  iterate 19 rw [if_neg (by omega)]

/-- The lanes of a warp's vector registers after a word of them has been replaced. -/
theorem v_poke_vector {o : Nat} (h : 0xB40 ≤ o) (asid : Nat) (ops : Tab OpEntry) (v : DWord) (w : Warp) {n l : Nat}
    (hn : n < w.vregs.length) (hl : l < 64) : (w.poke asid ops o v).v n l
    = if o = 0xB40 + 32 * n + l / 2 then (if l % 2 = 0 then v.setWidth 32 else (v >>> 32).setWidth 32) else w.v n l := by
  rw [poke_vector h, v_eq w hn]
  simp only [Warp.v, List.getD, getElem?_modAt, List.getElem?_eq_getElem hn, Option.map_some, Option.getD_some]
  by_cases hr : (o - 0xB40) / 32 = n
  · rw [if_pos hr, lane_pokeVec _ _ _ hl]
    exact ite_congr (propext (by omega)) (fun _ => rfl) (fun _ => rfl)
  · rw [if_neg hr, if_neg (by omega)]

/-- A write to a warp of a block that is not stopped, or is not resident, changes nothing; else one word of the warp. -/
theorem writeRegister_warpWord {s : State} {key m o : Nat} {b : Block} (hb : s.blocks.get? key = some b) (hm : m < 32)
    (ho : o < 2 ^ 14) (v : DWord) : writeRegister s 17 ((key * 32 + m) * 2 ^ 14 + o) v
    = if b.stopped = true then s.modWarp (key / 96) (key % 96) m (Warp.poke b.asid (s.core (key / 96)).ops o v) else s := by
  have hk : ((key * 32 + m) * 2 ^ 14 + o) / 2 ^ 19 = key := by omega
  have hw : ((key * 32 + m) * 2 ^ 14 + o) / 2 ^ 14 % 32 = m := by omega
  have hi : ((key * 32 + m) * 2 ^ 14 + o) % 2 ^ 14 = o := by omega
  simp only [writeRegister, hk, hw, hi, writeStopped, hb]
  cases b.stopped <;> rfl

theorem blockKey_parts (key : Nat) : State.blockKey (key / 96) (key % 96) = key := by
  unfold State.blockKey
  omega

theorem get?_blocks_modWarp_other (s : State) {key j : Nat} (m : Nat) (f : Warp → Warp) (h : j ≠ key) :
    (s.modWarp (key / 96) (key % 96) m f).blocks.get? j = s.blocks.get? j := by
  simp [State.modWarp, State.modBlock, blockKey_parts, get?_modKey, h]

theorem warp?_of_get? {s : State} {key m : Nat} {b : Block} {w : Warp} (hb : s.blocks.get? key = some b)
    (hw : b.warps[m]? = some w) : s.warp? (key / 96) (key % 96) m = some w := by
  simp [State.warp?, State.block?, blockKey_parts, hb, hw]

/-! ### The remap of a position (01 R14; 19 R366) -/

/-- A halted position without blocks takes a spare, and gives its own core for it. -/
theorem writeRegister_remap {s : State} {c : Nat} {v : DWord} (hc : c < 768) (hh : (s.core c).halted = true)
    (hb : ∀ b ∈ s.blocks, b.1 / 96 ≠ c) (hs : bits v 0 8 ∈ (s.die (coreDie c)).spares) :
    writeRegister s 13 c v = (s.modDie (coreDie c) fun x =>
      { x with spares := x.spares.filter (· != bits v 0 8) ++ [(s.core c).phys] }).modCore c fun x =>
        { x.fresh with phys := bits v 0 8, withdrawn := false } := by
  have hn : ¬(768 ≤ c ∨ (!(s.core c).halted) = true ∨ (s.blocks.any fun b => b.1 / 96 == c) = true
      ∨ (!(s.die (coreDie c)).spares.contains (bits v 0 8)) = true) := by
    simp only [not_or, Nat.not_le, hh, Bool.not_true, Bool.false_eq_true, not_false_eq_true, List.any_eq_true, beq_iff_eq,
      not_exists, not_and, List.contains_iff_mem.mpr hs, and_true, true_and]
    exact ⟨hc, hb⟩
  exact if_neg hn

/-! ### The statement -/

/-- Settles O53: clause by clause, from what each event comes to and from what its parts read as afterwards. -/
theorem platformEvents : Obligations.PlatformEvents := by
  unfold Obligations.PlatformEvents
  refine ⟨?powerOn, ?isOn, ?attestation, ?encapsulation, ?idle, ?wake, ?halted, ?datagram, ?firstDatagram, ?checked, ?packet,
    ?kalends, ?powerState, ?sampleEarly, ?sample, ?trip, ?moduleWake, ?lvctl, ?counters, ?contexts, ?owners, ?warpWord, ?remap⟩
  case powerOn =>
    intro s key images sigs hb ha
    refine ⟨fun hv => ⟨_, execPowerOn_unverified hb ha hv, rfl, rfl⟩, fun hv hi hs => ?_⟩
    obtain ⟨image, rfl⟩ := List.length_eq_one_iff.mp hi
    obtain ⟨sig, rfl⟩ := List.length_eq_one_iff.mp hs
    exact ⟨_, execPowerOn_oneImage hb ha hv, rfl, rfl, rfl, rfl⟩
  case isOn => exact fun s key images sigs h => execPowerOn_on h key images sigs
  case attestation => exact fun s nonce hb hl => ⟨_, execAttestationRequest_up hb hl, rfl, rfl, rfl, rfl⟩
  case encapsulation =>
    refine fun s cipher => ⟨fun hn => execSessionEncapsulation_none hn cipher, fun hn hb => ?_⟩
    obtain ⟨x, hnum, hin, hout, hx⟩ := execSessionEncapsulation_up hn hb cipher
    refine ⟨_, x, hx, rfl, hnum, hin, hout, rfl, rfl, rfl, le_limitRate _, limitRate_le _, limitRate_within, sessionRings_has s,
      fun n => sessionRings_other s, fun d hs hd => ?_⟩
    obtain rfl := Option.some.inj ((sessionRings_fresh hs).symm.trans hd)
    exact ⟨rfl, rfl, rfl, rfl⟩
  case idle => exact fun s => ⟨rfl, rfl, fun x => ⟨freshSession_stale, freshSession_live⟩⟩
  case wake =>
    refine fun s => ⟨wakePackage_awake, fun h => ⟨?_, ?_, fun d => die_wakePackage h⟩⟩
    · exact congrArg (fun z : State => { z with retention := s.retention }) (wakePackage_rest h)
    · exact (congrArg State.retention (wakePackage_rest h) :)
  case halted => exact fun s bs port hb => execCommandDatagram_none (acceptDatagram_halted hb port bs)
  case datagram =>
    exact fun s bs body x hb hn hs => ⟨fun hc => execCommandDatagram_packets (acceptDatagram_session hb hn hs hc),
      fun hc => execPowerControl_tolerance (acceptDatagram_session hb hn hs hc),
      fun hc => ⟨execCommandDatagram_none (acceptDatagram_dropped hb hn hs hc),
        execPowerControl_none (acceptDatagram_dropped hb hn hs hc)⟩⟩
  case firstDatagram => exact fun s bs body x hb hn hc => execCommandDatagram_packets (acceptDatagram_next hb hn hc)
  case checked => exact fun x bs r => checkDatagram_some
  case packet =>
    intro s bs d hd hn hr
    rw [receivePacket_taken hd hn hr, get?_put_same]
  case kalends =>
    intro s r rate t
    have ht : t = discipline s r := (discipline_eq s r).symm
    have hr : rate = (discipline s r).rate := congrArg State.rate ht
    rw [ht, hr]
    exact ⟨execPtpMessage_eq s r, fun source => execUalinkTimingMessage_eq s source r⟩
  case powerState =>
    intro s d hb
    refine ⟨fun hd hi ht => ⟨gateDie s d, ?_, gateDie_rest s d, die_gateDie_same s d, fun j => die_gateDie_other s⟩,
      fun hd hi => ⟨ungateDie s d, ?_, ungateDie_rest s d, die_ungateDie_same s d, fun j => die_ungateDie_other s⟩,
      fun hd hp => ?_, fun hd hp ht => ⟨enterOff s, ?_, rfl, rfl, rfl, rfl, rfl, outbox_enterOff s⟩⟩
    · exact (execPowerStateDecision_die hb hd).trans (by rw [if_pos ⟨hi, ht⟩])
    · exact (execPowerStateDecision_die hb hd).trans (by rw [if_neg (by rcases hi with hi | hi <;> simp [hi])])
    · exact (execPowerStateDecision_package hb hd).trans (by rw [if_neg (by rcases hp with hp | hp <;> simp [hp])])
    · exact (execPowerStateDecision_package hb hd).trans (by rw [if_pos ⟨hp, ht⟩])
  case sampleEarly => exact fun s watts limit celsius h => execPowerSample_early h watts limit celsius
  case sample =>
    intro s watts limit celsius hb ht
    have hrest := foldl_modDie_rest (fun _ => sampledDie watts limit celsius) (List.range 6) { s with powerAt := s.kalends.toNat }
    refine ⟨_, execPowerSample_due hb ht watts limit celsius,
      congrArg (fun z : State => { z with powerAt := s.powerAt }) hrest, congrArg State.powerAt hrest, fun d hd => ?_⟩
    rw [die_foldl_modDie (fun _ => sampledDie watts limit celsius) (fun _ _ => rfl), if_pos hd]
    exact sampledDie_law watts limit celsius d (s.die d)
  case trip =>
    exact fun s n => ⟨fun h => congrArg _ (if_neg (Nat.not_le.mpr h)),
      fun h => ⟨powerOff s, congrArg _ (if_pos h), rfl, rfl, rfl, rfl, rfl, rfl⟩⟩
  case moduleWake => exact fun s => ⟨fun h => congrArg _ (if_pos h), fun h => congrArg _ (if_neg (by simp [h]))⟩
  case lvctl =>
    exact fun s d v hd => ⟨_, exec_registerWrite (writeRegister_lvctl hd s v), rfl, die_modDie_same s d _,
      fun j => die_modDie_other s _⟩
  case counters =>
    exact fun s c k v hc hk => ⟨⟨_, exec_registerWrite (writeRegister_pmcnt hc hk s v), rfl, core_modCore_same s c _⟩,
      _, exec_registerWrite (writeRegister_pmctl hc hk s v), rfl, core_modCore_same s c _⟩
  case contexts =>
    intro s asid v ha
    have record {t : State} {k : Nat} (hk : k < 8) (h : writeRecord s asid k v = t) :
        exec (.registerWrite 3 (8 * asid + k) v) s = .next t :=
      exec_registerWrite ((writeRegister_record ha hk s v).trans h)
    exact ⟨fun h => ⟨_, record (by decide) (writeRecord_root h v), rfl, ctx_modCtx_same s asid _⟩,
      fun h => ⟨_, record (by decide) (writeRecord_asid h v), rfl, ctx_modCtx_same s asid _⟩,
      fun h => ⟨record (by decide) (writeRecord_busy h 1 v), exec_registerWrite (writeResidency_busy h v)⟩,
      fun h hv => ⟨_, rfl, ctx_writeResidency ha h hv⟩,
      ⟨_, exec_registerWrite (writeRegister_faultQueue ha s v), rfl, ctx_modCtx_same s asid _⟩,
      _, exec_registerWrite (writeRegister_dbgctl ha s v), rfl, ctx_modCtx_same s asid _⟩
  case owners => exact fun s k v => ⟨fun h => congrArg _ (if_pos h), fun h => congrArg _ (if_pos h), rfl, rfl⟩
  case warpWord =>
    intro s key m o v b w hb hw hm ho
    have hx := writeRegister_warpWord hb hm ho v
    refine ⟨fun h => exec_registerWrite (hx.trans (if_neg (by simp [h]))),
      fun h => ⟨_, w.poke b.asid (s.core (key / 96)).ops o v, exec_registerWrite (hx.trans (if_pos h)), rfl, fun j => get?_blocks_modWarp_other s m _, ?_,
      fun hlo hhi => poke_scalar hlo hhi _ _ v w, fun h => ⟨?_, fun n l hn hl => v_poke_vector h _ _ v w hn hl⟩⟩⟩
    · rw [warp?_modWarp_same, warp?_of_get? hb hw]
      rfl
    · rw [poke_vector h]
  case remap =>
    intro s c v hc hh hb hs
    refine ⟨_, exec_registerWrite (writeRegister_remap hc hh hb hs), rfl, ?_, ?_, ?_, ?_⟩
    · rw [core_modCore_same]
    · rw [core_modCore_same]
    · rw [core_modCore_same]
      rfl
    · rw [die_modCore, die_modDie_same]
      simp

end Sys2Proof.Proofs.Platform

/-! What the front end and the command processor do with packets and with the subcommands on rings, handles and contexts
(O44, O45). -/

namespace Sys2Proof.Proofs.Packets

open Sys2Proof Sys2Proof.Machine Sys2Proof.Laws

/-! ### Tables -/

@[simp] theorem get?_del_same {α : Type} (t : Tab α) (k : Nat) : (t.del k).get? k = none := by
  unfold Tab.del
  induction t with
  | nil => rfl
  | cons p r ih =>
    obtain ⟨j, a⟩ := p
    by_cases h : j = k
    · simpa [h] using ih
    · simpa [h, Tab.get?] using ih

theorem get?_del_other {α : Type} (t : Tab α) {j k : Nat} (h : j ≠ k) : (t.del k).get? j = t.get? j := by
  unfold Tab.del
  induction t with
  | nil => rfl
  | cons p r ih =>
    obtain ⟨i, a⟩ := p
    by_cases hk : i = k
    · simpa [hk, Tab.get?, Ne.symm h] using ih
    · simp only [List.filter_cons, bne_iff_ne, ne_eq, hk, not_false_eq_true, if_true, Tab.get?]
      rw [ih]

theorem mem_of_get? {α : Type} {t : Tab α} {k : Nat} {a : α} (h : t.get? k = some a) : (k, a) ∈ t := by
  induction t with
  | nil => cases h
  | cons p r ih =>
    obtain ⟨j, b⟩ := p
    by_cases hj : j = k
    · simp only [Tab.get?, if_pos hj, Option.some.injEq] at h
      exact List.mem_cons.mpr (.inl (Prod.ext hj.symm h.symm))
    · simp only [Tab.get?, if_neg hj] at h
      exact List.mem_cons_of_mem _ (ih h)

/-- Entries changed one after another, none of them at this key. -/
theorem get?_foldl_modKey_other {α β : Type} (f : β → Nat) (g : α → β → α) {l : List β} {k : Nat} (h : k ∉ l.map f)
    (t : Tab α) : (l.foldl (fun t e => modKey t (f e) fun a => g a e) t).get? k = t.get? k := by
  induction l generalizing t with
  | nil => rfl
  | cons e r ih =>
    obtain ⟨he, hr⟩ := not_or.mp (mt List.mem_cons.mpr h)
    rw [List.foldl_cons, ih hr, get?_modKey, if_neg he]

/-- Entries at different keys changed one after another: each is changed once. -/
theorem get?_foldl_modKey {α β : Type} (f : β → Nat) (g : α → β → α) {l : List β} (hn : (l.map f).Nodup) {e : β}
    (he : e ∈ l) (t : Tab α) :
    (l.foldl (fun t e => modKey t (f e) fun a => g a e) t).get? (f e) = (t.get? (f e)).map fun a => g a e := by
  induction l generalizing t with
  | nil => cases he
  | cons e' r ih =>
    obtain ⟨hhead, htail⟩ := List.nodup_cons.mp hn
    rw [List.foldl_cons]
    rcases List.mem_cons.mp he with rfl | her
    · rw [get?_foldl_modKey_other f g hhead, get?_modKey, if_pos rfl]
    · have hne : f e ≠ f e' := fun h => hhead (h ▸ List.mem_map_of_mem her)
      rw [ih htail her, get?_modKey, if_neg hne]

section
variable {s u : State} {k : Nat} {p : Packet} {ws : List DWord}

/-! ### Packets that act (04 R83, R84, R88) -/

theorem get?_modPkt_same (h : s.pkts.get? k = some p) (f : Packet → Packet) :
    (s.modPkt k f).pkts.get? k = some (f p) := by
  simp [State.modPkt, get?_modKey, h]

theorem get?_modPkt_other (s : State) {j : Nat} (f : Packet → Packet) (h : j ≠ k) :
    (s.modPkt k f).pkts.get? j = s.pkts.get? j := by
  simp [State.modPkt, get?_modKey, h]

theorem actOn_acting {kind : Nat} (h : acting k kind p ws s)
    (f : Packet → List DWord → State) : actOn s k kind f = f p ws := by
  obtain ⟨hp, hk, hst, hw, rfl⟩ := h
  simp [actOn, hp, hk, hst, hw]

theorem control_controls {sub : Nat} (h : controls k sub p ws s)
    (f : Packet → List DWord → State) : Machine.control s k sub f = f p ws := by
  obtain ⟨ha, hsub, hchecks⟩ := h
  unfold Machine.control
  rw [actOn_acting ha, if_neg (not_not_intro hsub)]
  cases hr : s.rings.get? p.ring with
  | none => rfl
  | some d => simp only [hchecks d hr, Option.map_none]

theorem rings_endPkt (s : State) (k status : Nat) : (endPkt s k status).rings = s.rings := rfl

theorem ctx_endPkt (s : State) (k status a : Nat) : (endPkt s k status).ctx a = s.ctx a := rfl

/-- The end of a packet's action, whatever else of the state has changed before. -/
theorem endsWith_endPkt (h : u.pkts = s.pkts) (k status : Nat) : endsWith k status s (endPkt u k status) :=
  ⟨fun _ hp => get?_modPkt_same (h ▸ hp) _, fun _ hj => (get?_modPkt_other u _ hj).trans (congrArg (Tab.get? · _) h)⟩

/-! ### Fetching (04 R81, R87) -/

/-- The front end takes a whole, unpoisoned packet that no check refuses. -/
theorem fetchPacket_taken {n len : Nat} {d : Ring} (hl : pLen (wordsOf 4 (ringRead s d d.rptr.toNat 32)) = len)
    (hpos : 0 < len) (hmax : len ≤ 8192) (hgood : ∀ i, i < len / 32 → poisoned s (d.at_ (d.rptr.toNat + 32 * i)) 32 = false)
    (hbad : packetBad s n d (wordsOf (len / 8) (ringRead s d d.rptr.toNat len)) = none) :
    fetchPacket s n d = { s.modCtx d.asid fun x => { x with nextLaunch := x.nextLaunch + 1 } with
      rings := s.rings.put n { d with rptr := d.rptr + BitVec.ofNat 32 len }
      lastRing := s.lastRing.set d.prio n
      pkts := s.pkts.put s.nextPkt
        (takenPacket s n d (wordsOf (len / 8) (ringRead s d d.rptr.toNat len)) (ringRead s d d.rptr.toNat len))
      nextPkt := s.nextPkt + 1 } := by
  have hrange : ¬(len = 0 ∨ 8192 < len) := by omega
  have hp : ((List.range (len / 32)).any fun i => poisoned s (d.at_ (d.rptr.toNat + 32 * i)) 32) = false := by
    simpa [List.any_eq_false] using hgood
  unfold fetchPacket
  simp only [hl, if_neg hrange, hp, Bool.false_eq_true, if_false, hbad]
  rfl

theorem execPacketFetch_next {n : Nat} {d : Ring} (h : nextRing s = some (n, d)) :
    execPacketFetch s = .next (fetchPacket s n d) := by
  rw [execPacketFetch, h]

/-! ### Starting (04 R88) -/

/-- No packet fetched before has a property. -/
theorem earlier_eq_false {f : Packet → Bool}
    (h : ∀ j q, (j, q) ∈ s.pkts → j < k → q.kind ≠ 0 → f q = false) : earlier s k f = false := by
  unfold earlier
  rw [List.any_eq_false]
  rintro ⟨j, q⟩ hq hc
  simp only [Packet.counts, Bool.and_eq_true, decide_eq_true_eq, bne_iff_ne] at hc
  obtain ⟨⟨hj, hk⟩, hf⟩ := hc
  rw [h j q hq hj hk] at hf
  cases hf

theorem execPacketStart_free (hp : s.pkts.get? k = some p) (hst : p.st = .fetched)
    (hb : p.barrier = true → earlier s k (fun q => q.ring == p.ring) = false)
    (hf : ∀ e ∈ p.handles, entryFree (s.ctx p.asid) e = true) :
    execPacketStart k s
      = .next (onHandles (s.modPkt k fun p => { p with st := .started, since := s.kalends.toNat, ts := startTs s p }) p
          fun h e => h.start e p.launch) := by
  have hfree : p.handles.all (entryFree (s.ctx p.asid)) = true := List.all_eq_true.mpr hf
  have hbar : (p.barrier && earlier s k fun q => q.ring == p.ring) = false := by
    cases hc : p.barrier with
    | false => rfl
    | true => exact hb hc
  simp [execPacketStart, hp, hst, hbar, hfree]

@[simp] theorem pkts_onHandles (s : State) (p : Packet) (f : BufHandle → DWord → BufHandle) : (onHandles s p f).pkts = s.pkts :=
  rfl

/-- An entry's handle after each entry of a list has acted on its own. -/
theorem handle_onHandles (hn : (p.handles.map entryIndex).Nodup) {e : DWord} (he : e ∈ p.handles)
    (f : BufHandle → DWord → BufHandle) : ((onHandles s p f).ctx p.asid).handles.get? (entryIndex e)
      = ((s.ctx p.asid).handles.get? (entryIndex e)).map fun h => f h e := by
  unfold onHandles
  rw [ctx_modCtx_same]
  exact get?_foldl_modKey entryIndex f hn he _

/-! ### Launches (02 R452; 03 R48, R49; 17 R318) -/

theorem mem_of_mem_shareOrder {cs : List Nat} {c : Nat} (h : c ∈ shareOrder s cs) : c ∈ cs := by
  simp only [shareOrder, List.mem_flatMap, List.mem_map, List.mem_filter] at h
  obtain ⟨-, -, -, ⟨⟨c', hc', rfl⟩, -⟩, rfl⟩ := h
  exact hc'

/-- A share holds cores in service of the dies of its mask. -/
theorem mem_takeShare {dies : BitVec 6} {n c : Nat} {held : List Nat} (h : c ∈ takeShare s dies n held) :
    c < 768 ∧ bit dies (c / 128) = true ∧ (s.core c).halted = false := by
  obtain ⟨hc, -⟩ := List.mem_filter.mp (mem_of_mem_shareOrder (List.mem_of_mem_take h))
  simp only [permittedCores, List.mem_filter, List.mem_range, Bool.and_eq_true, Bool.not_eq_true'] at hc
  obtain ⟨hlt, ⟨hdie, hhalt⟩, -⟩ := hc
  exact ⟨hlt, hdie, hhalt⟩

theorem length_takeShare (s : State) (dies : BitVec 6) (n : Nat) (held : List Nat) : (takeShare s dies n held).length ≤ n :=
  List.length_take_le _ _

/-- The grid that a LAUNCH_GRID packet runs, once its kernel has been read. -/
def launchedGrid (u : State) (k : Nat) (p : Packet) (ws : List DWord) (kern : Kernel) : Grid :=
  { newGrid u p.asid k p kern with
    params := BitVec.ofNat 64 (pf ws 8 0 56), next := pf ws 0x10 0 64, stop := pf ws 0x10 0 64 + pf ws 0x18 0 64
    share := takeShare u (BitVec.ofNat 6 (pf ws 0x20 10 6)) (pf ws 0x20 0 10) [], dies := BitVec.ofNat 6 (pf ws 0x20 10 6)
    prio := pf ws 0x20 16 3, span := pf ws 0x20 19 1 == 1
    prologues := (List.range (pf ws 0x20 20 3)).map fun i => (List.range 8).map fun j => wordAt ws (8 + 8 * i + j) }

theorem execLaunchGrid_ok {kern : Kernel} (h : acting k 1 p ws s)
    (hr : readKernel s k p (pf ws 0 0 56) = (.ok kern, u)) : execLaunchGrid k s = .next (settleGrids
      { actPkt u k with grids := u.grids.put u.nextGrid (launchedGrid u k p ws kern), nextGrid := u.nextGrid + 1 }) := by
  rw [execLaunchGrid, actOn_acting h, hr]
  rfl

theorem execLaunchGrid_broken {o : Nat} (h : acting k 1 p ws s)
    (hr : readKernel s k p (pf ws 0 0 56) = (.broken o, u)) : execLaunchGrid k s = .next (refuseLaunch u k 0x1E4 o) := by
  rw [execLaunchGrid, actOn_acting h, hr]

/-- The record and its kernels have been read whole: what is left are the checks and the start. -/
theorem execLaunchAlmanac_read {v x : State} {hs record : List DWord} {bs rest : List Byte}
    {ks : List (Option Kernel)} (h : acting k 2 p ws s) (ha : pf ws 0 0 56 % 64 = 0)
    (hb : cpBytes s k p (pf ws 0 0 56) 128 = (.ok bs, u)) (hhs : wordsOf 16 bs = hs) (hc : firstBad (almChecks hs) = none)
    (hr : cpBytes u k p (pf ws 0 0 56 + 128) (64 * (pf hs 0 16 6 + pf hs 0 24 8)) = (.ok rest, v))
    (hrec : hs ++ wordsOf (8 * (pf hs 0 16 6 + pf hs 0 24 8)) rest = record)
    (hk : readKernels v k p ((List.range (pf hs 0 16 6)).map (almEntry record)) [] = (.ok ks, x)) :
    execLaunchAlmanac k s = .next (launchAlm x k p record ks) := by
  rw [execLaunchAlmanac, actOn_acting h]
  dsimp only
  rw [if_neg (not_not_intro ha), hb]
  dsimp only
  rw [hhs, hc]
  dsimp only
  rw [hr]
  dsimp only
  rw [hrec, hk]

/-! ### Memory packets (04 R89, R453) -/

/-- WRITE_MEMORY whose bytes are all in memory. -/
theorem execWriteMemory_written {n : Nat} {bs : List Byte}
    {rs : List (Nat × Nat)} (h : acting k 3 p ws s) (hbs : (p.body.drop 16).take (pf ws 8 0 13) = bs)
    (hrs : entryRanges s p (fun e => entryMode e != 1) = rs)
    (hw : cpWrite k p true (bs.length + 1) (pf ws 0 0 56 + p.moved) (bs.drop p.moved) 0 ((l2Lines s rs).foldl cleanLine s)
      = (n, none, u)) :
    execWriteMemory k s = .next (endPkt
      ((l2Lines (u.modPkt k fun p => { p with moved := p.moved + n }) rs).foldl invalidateLine
        (u.modPkt k fun p => { p with moved := p.moved + n })) k 0) := by
  rw [execWriteMemory, actOn_acting h]
  dsimp only
  rw [hbs, hrs, hw]

/-- READ_MEMORY whose replies have all been sent. -/
theorem execReadMemory_sent (h : acting k 4 p ws s)
    (hr : readReplies k p (pf ws 0 0 56) (pf ws 8 0 25) 2049 p.moved (writeBack s (entryRanges s p fun e => entryMode e != 2))
      = (none, u)) : execReadMemory k s = .next (endPkt u k 0) := by
  rw [execReadMemory, actOn_acting h]
  dsimp only
  rw [hr]

/-! ### Fence and signal (04 R86) -/

/-- The packets that a fence of mode 0 or 1 waits for: of its ring, or of its context. -/
def fenced (p : Packet) (mode : Nat) (q : Packet) : Bool := if mode = 0 then q.ring == p.ring else q.asid == p.asid

/-- A fence of mode 0 or 1 completes once no packet that it waits for is left. -/
theorem execFencePacket_order (h : acting k 5 p ws s)
    (hm : pf ws 0 0 2 ≤ 1) : execFencePacket k s
      = .next (if earlier s k (fenced p (pf ws 0 0 2)) then s else endPkt s k 0) := by
  rw [execFencePacket, actOn_acting h]
  have hmode : pf ws 0 0 2 = 0 ∨ pf ws 0 0 2 = 1 := by omega
  rcases hmode with hz | hz <;> rw [hz] <;> rfl

/-- A fence of mode 2 completes once the value in memory has reached its threshold. -/
theorem execFencePacket_reached {bs : List Byte} (h : acting k 5 p ws s)
    (hm : 2 ≤ pf ws 0 0 2) (ha : pf ws 8 0 64 % 8 = 0) (hr : cpBytes s k p (pf ws 8 0 64) 8 = (.ok bs, u))
    (hv : pf ws 16 0 64 ≤ ofBytes bs) : execFencePacket k s = .next (endPkt u k 0) := by
  obtain ⟨m, hm⟩ := Nat.exists_eq_add_of_le' hm
  rw [execFencePacket, actOn_acting h]
  dsimp only
  rw [hm, if_neg (not_not_intro ha), hr]
  exact congrArg _ (if_pos hv)

theorem execFenceTimeout_due (hp : s.pkts.get? k = some p) (hk : p.kind = 5)
    (hst : p.st = .started) (hm : pf (wordsOf (p.body.length / 8) p.body) 0 0 2 = 2)
    (hus : pf (wordsOf (p.body.length / 8) p.body) 24 0 32 ≠ 0)
    (hdue : 1000 * pf (wordsOf (p.body.length / 8) p.body) 24 0 32 ≤ s.passed p.since) :
    execFenceTimeout k s = .next (fenceStop s k p 0x1E8) := by
  simp [execFenceTimeout, hp, hk, hst, hm, hus, hdue]

theorem execSignal_counter (h : acting k 6 p ws s)
    (hm : pf ws 0 0 1 = 1) (ho : ownsCounter s p.asid (pf ws 0 16 12) = true) :
    execSignal k s = .next (endPkt (ctrRelease s (pf ws 0 16 12) (wordAt ws 2) (maxPts s)) k 0) := by
  rw [execSignal, actOn_acting h]
  dsimp only
  rw [if_pos hm, if_pos ho]

theorem execSignal_memory {n : Nat} (h : acting k 6 p ws s)
    (hm : pf ws 0 0 1 = 0) (ha : pf ws 8 0 64 % 8 = 0)
    (hw : cpWrite k p false 9 (pf ws 8 0 64) (toBytes 8 (wordAt ws 2).toNat) 0 s = (n, none, u)) :
    execSignal k s = .next (endPkt u k 0) := by
  rw [execSignal, actOn_acting h]
  dsimp only
  rw [hm, if_neg (by decide), if_neg (not_not_intro ha), hw]

/-! ### Drain (03 R74) -/

/-- What DRAIN does to a stage: a queue of indices that is still open has none left. -/
def drainStage (s : State) (g : Nat) : State :=
  match s.grids.get? g with
  | some x => if x.complete || x.qpipe.isSome then s else dropRange s g
  | none => s

theorem execDrain_running {a : Almanac} (h : acting k 7 p ws s)
    (ha : alm? s p.asid (pf ws 0 0 4) = some a) : execDrain k s = .next (settleGrids (actPkt
      (modAlm (a.stages.foldl drainStage s) p.asid (pf ws 0 0 4) fun a =>
        { a with draining := true, drainers := a.drainers ++ [k] }) k)) := by
  rw [execDrain, actOn_acting h]
  dsimp only
  rw [ha]
  rfl

/-! ### Completion (04 R78, R88) -/

theorem sendDatagram_rest (s : State) (kind : Nat) (bs : List Byte) :
    { sendDatagram s kind bs with session := s.session, outbox := s.outbox } = s := by
  unfold sendDatagram
  split <;> rfl

/-- A packet has ended, and its record, if it has one, is written: the packet goes. -/
theorem execPacketComplete_ended {v : State} {status : Nat} (hp : s.pkts.get? k = some p)
    (hst : p.st = .ended status) (hw : p.waiting = false) (hr : engRemote s cpCore k = false)
    (hv : writeBack s (entryRanges s p fun e => bit e 18) = v)
    (hu : (if p.crec = 0#64 then (true, v)
      else cpRecord v k p p.crec.toNat (recordBytes v p.pseq status p.downgrade p.ring p.launch p.offset)) = (true, u)) :
    ∃ t, execPacketComplete k s = .next t ∧ t.pkts.get? k = none ∧ t.mem = u.mem ∧ t.blocks = u.blocks := by
  unfold execPacketComplete completePkt
  simp only [hp, hst, hw, hr, Bool.or_self, Bool.false_eq_true, if_false, hv, hu, Bool.not_true]
  refine ⟨_, rfl, get?_del_same _ k, ?mem, ?blocks⟩
  case mem =>
    split
    · exact (congrArg State.mem (sendDatagram_rest _ _ _) :)
    · rfl
  case blocks =>
    split
    · exact (congrArg State.blocks (sendDatagram_rest _ _ _) :)
    · rfl

end

/-! ### The statement on packets -/

/-- Settles O44: clause by clause, from what an acting packet's event comes to. -/
theorem packetEvents : Obligations.PacketEvents := by
  unfold Obligations.PacketEvents
  refine ⟨?fetch, ?start, ?grid, ?broken, ?almanac, ?write, ?read, ?order, ?reached, ?timeout, ?counter, ?memory, ?drain, ?resize,
    ?cancel, ?complete⟩
  case fetch =>
    intro s n d hn len ws hprio hpos hmax hgood hbad
    refine ⟨_, takenPacket s n d ws (ringRead s d d.rptr.toNat len), (execPacketFetch_next hn).trans
      (congrArg _ (fetchPacket_taken rfl hpos hmax hgood hbad)), rfl, get?_put_same _ _ _, rfl, rfl, get?_put_same _ _ _, rfl, rfl,
      rfl, rfl, rfl, rfl, rfl, ?_⟩
    exact congrArg Ctx.nextLaunch (ctx_modCtx_same s d.asid fun x => { x with nextLaunch := x.nextLaunch + 1 })
  case start =>
    intro s k p hp hst hbar hfree hnodup
    have hb (hc : p.barrier = true) : earlier s k (fun q => q.ring == p.ring) = false :=
      earlier_eq_false fun j q hq hj hk => beq_false_of_ne (hbar hc j q hq hj hk)
    refine ⟨_, execPacketStart_free hp hst hb hfree, ?_, rfl, fun e he h hh => ?_⟩
    · rw [pkts_onHandles, get?_modPkt_same hp]
    · exact (handle_onHandles hnodup he _).trans (congrArg (Option.map _) hh)
  case grid =>
    intro s u k p ws kern h hr
    exact ⟨launchedGrid u k p ws kern, execLaunchGrid_ok h hr, rfl, rfl, rfl, rfl, rfl, rfl, rfl, rfl, rfl,
      length_takeShare _ _ _ _, fun c hc => mem_takeShare hc⟩
  case broken => exact fun s u k o p ws h hr => execLaunchGrid_broken h hr
  case almanac =>
    exact fun s u v x k p ws bs rest ks h ha hb hc hr hk => execLaunchAlmanac_read h ha hb rfl hc hr rfl hk
  case write => exact fun s k p ws n u h hw => execWriteMemory_written h rfl rfl hw
  case read => exact fun s u k p ws h hr => execReadMemory_sent h hr
  case order =>
    refine fun s k p ws h hm => ⟨fun hno => ⟨endPkt s k 0, ?_, endsWith_endPkt rfl k 0, rfl⟩, fun hyes => ?_⟩
    · exact (execFencePacket_order h hm).trans (congrArg _ (if_neg (Bool.eq_false_iff.mp hno)))
    · exact (execFencePacket_order h hm).trans (congrArg _ (if_pos hyes))
  case reached => exact fun s u k p ws bs h hm ha hr hv => execFencePacket_reached h hm ha hr hv
  case timeout =>
    rintro s k p ws hp hk hst rfl hm hus hdue
    exact execFenceTimeout_due hp hk hst hm hus hdue
  case counter => exact fun s k p ws h hm ho => execSignal_counter h hm ho
  case memory => exact fun s u k n p ws h hm ha hw => execSignal_memory h hm ha hw
  case drain => exact fun s k p ws a h ha => execDrain_running h ha
  case resize =>
    intro s k d r p ws a h ha hd hr named z hz
    have hne : z.1.isEmpty = false := List.isEmpty_eq_false_iff.mpr hz
    refine congrArg _ ((actOn_acting h _).trans ?_)
    dsimp only
    rw [ha]
    dsimp only
    rw [hd, hr]
    exact if_neg (Bool.eq_false_iff.mp hne)
  case cancel => exact fun s k p ws h hm => congrArg _ ((control_controls h _).trans (if_pos hm))
  case complete =>
    intro s u k status p hp hst hw hr w bs hu
    refine execPacketComplete_ended hp hst hw hr rfl ?_
    by_cases hc : p.crec = 0#64
    · rw [if_pos hc] at hu ⊢
      rw [hu]
    · rw [if_neg hc] at hu ⊢
      exact hu

/-! ### Subcommands on rings, handles and contexts (04 R79, R84, Table 4.5; 13 R258) -/

@[simp] theorem length_toBytes (n x : Nat) : (toBytes n x).length = n := by
  simp [toBytes]

theorem toBytes_succ (n x : Nat) : toBytes (n + 1) x = BitVec.ofNat 8 x :: toBytes n (x / 2 ^ 8) := by
  unfold toBytes
  rw [List.range_succ_eq_map, List.map_cons, List.map_map, Nat.mul_zero, Nat.pow_zero, Nat.div_one]
  refine congrArg (List.cons _) (List.map_congr_left fun i _ => ?_)
  rw [Function.comp_apply, Nat.div_div_eq_div_mul, ← Nat.pow_add, Nat.mul_succ, Nat.add_comm]

/-- Little-endian bytes hold the number that they were made of, as far as they reach. -/
theorem ofBytes_toBytes (n x : Nat) : ofBytes (toBytes n x) = x % 2 ^ (8 * n) := by
  induction n generalizing x with
  | zero => simp [toBytes, ofBytes, Nat.mod_one]
  | succ n ih =>
    rw [toBytes_succ, ofBytes, ih, BitVec.toNat_ofNat, Nat.mul_succ, Nat.add_comm (8 * n), Nat.pow_add, Nat.mod_mul]

theorem length_image (d : Ring) : d.image.length = 48 := by
  simp [Ring.image]

/-- The first word of a ring's descriptor has its base in bits [51:0]. -/
theorem image_base (d : Ring) : ofBytes (d.image.take 8) % 2 ^ 52 = d.base.toNat % 2 ^ 52 := by
  have htake : d.image.take 8 = toBytes 8 (d.base.toNat % 2 ^ 52 + d.lsize * 2 ^ 52 + d.prio * 2 ^ 56
      + (if d.running then 1 else 2) * 2 ^ 60) := by
    simp [Ring.image, List.append_assoc, List.take_left']
  rw [htake, ofBytes_toBytes]
  omega

/-- A step of a holiday is told to the members, and nothing but the outbox changes. -/
theorem tellMembers_rest (s : State) (coll stepNo : Nat) (chunk : Option Nat) :
    { tellMembers s coll stepNo chunk with outbox := s.outbox } = s := by
  unfold tellMembers
  split
  · exact List.foldlRecOn _ _ (motive := fun u : State => { u with outbox := s.outbox } = s) rfl fun _ hu _ _ => hu
  · rfl

theorem holidays_tellMembers (s : State) (coll stepNo : Nat) (chunk : Option Nat) :
    (tellMembers s coll stepNo chunk).holidays = s.holidays :=
  (congrArg State.holidays (tellMembers_rest s coll stepNo chunk) :)

/-- Holidays that end one after another, each with RESUME to its members. -/
def endAll (s : State) (l : List Nat) : State := l.foldl (fun s c => endHoliday (tellMembers s c 5 none) c) s

theorem endAll_rest (s : State) (l : List Nat) : { endAll s l with holidays := s.holidays, outbox := s.outbox } = s := by
  unfold endAll
  refine List.foldlRecOn _ _ (motive := fun u : State => { u with holidays := s.holidays, outbox := s.outbox } = s) rfl
    fun u hu c _ => ?_
  exact (congrArg (fun z : State => { z with holidays := s.holidays, outbox := s.outbox }) (tellMembers_rest u c 5 none)).trans hu

/-- What holidays are left: none of those that have ended. -/
theorem get?_endAll {s : State} {l : List Nat} {c : Nat} {h : Holiday} (hc : (endAll s l).holidays.get? c = some h) :
    c ∉ l ∧ s.holidays.get? c = some h := by
  induction l generalizing s with
  | nil => exact ⟨List.not_mem_nil, hc⟩
  | cons k r ih =>
    obtain ⟨hr, hk⟩ := ih (s := endHoliday (tellMembers s k 5 none) k) hc
    unfold endHoliday at hk
    rw [holidays_tellMembers] at hk
    have hne : c ≠ k := by
      rintro rfl
      rw [get?_del_same] at hk
      cases hk
    rw [get?_del_other _ hne] at hk
    exact ⟨List.not_mem_cons_of_ne_of_not_mem hne hr, hk⟩

/-- The holidays that this device began for a context. -/
def ownHolidays (s : State) (asid : Nat) : List Nat :=
  (s.holidays.filter fun h => h.2.asid == asid && h.2.initiator == s.rank).map (·.1)

theorem mem_ownHolidays {s : State} {asid c : Nat} {h : Holiday} (hc : s.holidays.get? c = some h) (ha : h.asid = asid)
    (hi : h.initiator = s.rank) : c ∈ ownHolidays s asid :=
  List.mem_map.mpr ⟨(c, h), List.mem_filter.mpr ⟨mem_of_get? hc, by simp [ha, hi]⟩, rfl⟩

/-- The ring that a CREATE_RING packet describes. -/
def createdRing (ws : List DWord) : Ring :=
  { base := BitVec.ofNat 64 (pf ws 0x10 0 52), lsize := pf ws 0x10 52 4, prio := pf ws 0x10 56 3, running := true, wptr := 0
    rptr := 0, erec := BitVec.ofNat 64 (pf ws 0x20 0 56), nseq := 0, asid := pf ws 0x30 0 10, drops := 0 }

/-- The handle that a REGISTER_HANDLE packet describes. -/
def registeredHandle (ws : List DWord) : BufHandle :=
  { base := BitVec.ofNat 64 (pf ws 0x10 0 56), length := pf ws 0x18 0 48, writer := 0, wvalid := false, wdone := false, readers := 0 }

section
variable {s u : State} {k : Nat} {p : Packet} {ws : List DWord}

theorem execResumeContext_done (h : controls k 8 p ws s)
    (hd : suspensionDone s (pf ws 8 0 10) = true) :
    execResumeContext k s = .next (endPkt ((endAll s (ownHolidays s (pf ws 8 0 10))).modCtx (pf ws 8 0 10)
      fun x => { x with suspended := false }) k 0) := by
  rw [execResumeContext, control_controls h]
  dsimp only
  rw [hd]
  rfl

theorem execSuspendContext_starts (h : controls k 7 p ws s) :
    execSuspendContext k s = .next (suspendStart s k (pf ws 8 0 10)) := by
  obtain ⟨hp, -, hst, -, -⟩ := h.1
  simp [execSuspendContext, hp, hst, control_controls h]

theorem execSuspendContext_goesOn (hp : s.pkts.get? k = some p)
    (hk : p.kind = 9) (hst : p.st = .acting) (hws : ws = wordsOf (p.body.length / 8) p.body) (hsub : pf ws 0 0 8 = 7) :
    execSuspendContext k s = .next (suspendGoOn s k (pf ws 8 0 10)) := by
  subst hws
  simp [execSuspendContext, hp, hk, hst, hsub]

theorem execCreateRing_controls (h : controls k 1 p ws s) :
    execCreateRing k s = .next (endPkt { s with rings := s.rings.put (pf ws 8 0 10) (createdRing ws) } k 0) :=
  congrArg Host.Outcome.next (control_controls h _)

theorem execDestroyRing_controls (h : controls k 2 p ws s) :
    execDestroyRing k s = .next (endPkt { s with rings := s.rings.del (pf ws 8 0 10) } k 0) :=
  congrArg Host.Outcome.next (control_controls h _)

theorem execRestartRing_controls (h : controls k 3 p ws s) :
    execRestartRing k s = .next (endPkt { s with rings := modKey s.rings (pf ws 8 0 10) fun d =>
      { d with rptr := BitVec.ofNat 32 (pf ws 0x10 0 32), running := true } } k 0) :=
  congrArg Host.Outcome.next (control_controls h _)

theorem execQueryRing_written {n : Nat} {d : Ring} (h : controls k 4 p ws s)
    (hd : s.rings.get? (pf ws 8 0 10) = some d) (hw : cpWrite k p false 49 (pf ws 0x10 0 56) d.image 0 s = (n, none, u)) :
    execQueryRing k s = .next (endPkt u k 0) := by
  rw [execQueryRing, control_controls h, hd]
  dsimp only
  rw [hw]

theorem execRegisterHandle_controls (h : controls k 5 p ws s) : execRegisterHandle k s = .next (endPkt
    (s.modCtx p.asid fun x => { x with handles := x.handles.put (pf ws 8 0 16) (registeredHandle ws) }) k 0) :=
  congrArg Host.Outcome.next (control_controls h _)

theorem execUnregisterHandle_controls (h : controls k 6 p ws s) : execUnregisterHandle k s = .next (endPkt
    (s.modCtx p.asid fun x => { x with handles := x.handles.del (pf ws 8 0 16) }) k 0) :=
  congrArg Host.Outcome.next (control_controls h _)

theorem execSetRendezvousTimeout_controls (h : controls k 9 p ws s) :
    execSetRendezvousTimeout k s = .next (endPkt (s.modCtx (pf ws 0x10 0 10) fun x =>
      { x with
        timeout := if pf ws 8 0 32 = 0 then 2 ^ 24 else pf ws 8 0 32
        lease := if pf ws 8 32 8 = 0 then 10 else pf ws 8 32 8 }) k 0) :=
  congrArg Host.Outcome.next (control_controls h _)

end

/-! ### The statement on subcommands -/

/-- Settles O45: clause by clause, from what a subcommand that acts comes to. -/
theorem ringAndContextEvents : Obligations.RingAndContextEvents := by
  unfold Obligations.RingAndContextEvents
  refine ⟨?create, ?destroy, ?restart, ?query, ?register, ?unregister, ?suspend, ?goOn, ?resume, ?timeout⟩
  case create =>
    exact fun s k p ws h => ⟨_, createdRing ws, execCreateRing_controls h, endsWith_endPkt rfl k 0, rfl, get?_put_same _ _ _,
      fun n hn => get?_put_other _ _ hn, rfl, rfl, rfl, rfl, rfl, rfl, rfl, rfl⟩
  case destroy =>
    exact fun s k p ws h => ⟨_, execDestroyRing_controls h, endsWith_endPkt rfl k 0, rfl, get?_del_same _ _,
      fun n hn => get?_del_other _ hn⟩
  case restart =>
    refine fun s k p ws h => ⟨_, execRestartRing_controls h, endsWith_endPkt rfl k 0, rfl, fun n => ?_⟩
    rw [rings_endPkt, get?_modKey]
    by_cases hn : n = pf ws 8 0 10 <;> simp [hn]
  case query =>
    exact fun s u k n p ws d h hd hw => ⟨execQueryRing_written h hd hw, length_image d, image_base d⟩
  case register =>
    refine fun s k p ws h => ⟨_, registeredHandle ws, execRegisterHandle_controls h, endsWith_endPkt rfl k 0, rfl, ?_, rfl, rfl,
      rfl, rfl, fun n hn => ?_⟩
    · rw [ctx_endPkt, ctx_modCtx_same, get?_put_same]
    · rw [ctx_endPkt, ctx_modCtx_same, get?_put_other _ _ hn]
  case unregister =>
    refine fun s k p ws h => ⟨_, execUnregisterHandle_controls h, endsWith_endPkt rfl k 0, rfl, ?_, fun n hn => ?_⟩
    · rw [ctx_endPkt, ctx_modCtx_same, get?_del_same]
    · rw [ctx_endPkt, ctx_modCtx_same, get?_del_other _ hn]
  case suspend => exact fun s k p ws h => execSuspendContext_starts h
  case goOn => exact fun s k p ws hp hk hst hws hsub => execSuspendContext_goesOn hp hk hst hws hsub
  case resume =>
    intro s k p ws h hd
    have hrest := endAll_rest s (ownHolidays s (pf ws 8 0 10))
    refine ⟨_, execResumeContext_done h hd, endsWith_endPkt (congrArg State.pkts hrest :) k 0, ?_, (congrArg State.blocks hrest :),
      (congrArg State.mem hrest :), ?_⟩
    · rw [ctx_endPkt, ctx_modCtx_same]
    · rintro c x hx ⟨ha, hi⟩
      obtain ⟨hnot, hs⟩ := get?_endAll hx
      exact hnot (mem_ownHolidays hs ha hi)
  case timeout =>
    refine fun s k p ws h => ⟨_, execSetRendezvousTimeout_controls h, endsWith_endPkt rfl k 0, rfl, ?_, ?_, fun a ha => ?_⟩
    · rw [ctx_endPkt, ctx_modCtx_same]
    · rw [ctx_endPkt, ctx_modCtx_same]
    · rw [ctx_endPkt, ctx_modCtx_other _ _ ha]

end Sys2Proof.Proofs.Packets

/-! How a step reaches the meaning of the word at a split's pc, and of an event (O55). -/

namespace Sys2Proof.Proofs.Turns

open Sys2Proof Sys2Proof.Machine Sys2Proof.Laws

/-! ### The passing of time leaves the agenda as it is (log 2) -/

theorem agenda_countCycles (s : State) (n : Nat) : (countCycles s n).agenda = s.agenda := by
  unfold countCycles
  refine List.foldlRecOn _ _ (motive := fun u : State => u.agenda = s.agenda) rfl fun u hu p _ => ?_
  dsimp only
  split <;> split <;> exact hu

theorem agenda_passTime (s : State) (cycles ns : Nat) : (passTime s cycles ns).agenda = s.agenda :=
  agenda_countCycles s cycles

theorem agenda_fillHot (s : State) (c q fuel : Nat) : (fillHot s c q fuel).agenda = s.agenda := by
  induction fuel generalizing s with
  | zero => rfl
  | succ fuel ih =>
    unfold fillHot
    split
    · rfl
    · split
      · rfl
      · exact ih _

theorem agenda_fillAll (s : State) : (fillAll s).agenda = s.agenda := by
  unfold fillAll
  refine List.foldlRecOn _ _ (motive := fun u : State => u.agenda = s.agenda) rfl fun u hu c _ => ?_
  exact List.foldlRecOn _ _ (motive := fun v : State => v.agenda = s.agenda) hu
    fun v hv q _ => (agenda_fillHot v c q 8).trans hv

theorem agenda_passCycles (s : State) (cycles ns : Nat) : (passCycles s cycles ns).agenda = s.agenda :=
  (agenda_fillAll _).trans (agenda_passTime s cycles ns)

/-! ### The agenda says whose turn it is (log 2) -/

theorem step_issue {s : State} {p : Port} {r : List Turn} (h : s.agenda = .issue p :: r) :
    step s = issueTurn { s with agenda := r, port := p } := by
  rw [step, h]

theorem step_event {s : State} {i : Instr} {r : List Turn} (h : s.agenda = .event i :: r) :
    step s = stepEvent i { s with agenda := r } := by
  rw [step, h]

theorem step_time {s : State} {c n : Nat} {r : List Turn} (h : s.agenda = .time c n :: r) :
    step s = .next (passCycles { s with agenda := r } c n) := by
  rw [step, h]

theorem step_default {s : State} (h : s.agenda = []) : step s = defaultTurn s := by
  rw [step, h]

/-- With nothing else asked, asking for a split's turn is its turn. -/
theorem step_ask {s : State} (h : s.agenda = []) (p : Port) :
    step { s with agenda := [.issue p] } = issueTurn { s with port := p } := by
  rw [step_issue rfl, ← h]

theorem stepEvent_eq (i : Instr) (s : State) :
    stepEvent i s = if encodeWord i = none ∧ arrives i s = true then exec i (awaken i s) else .next s := by
  unfold stepEvent
  cases encodeWord i with
  | none => simp
  | some w => rfl

/-! ### A turn (04 R91, R93; 06 R120, R130) -/

theorem stepIssue_word {s t : State} {w : Word} {i : Instr} (h : fetchTurn s = .word w t) (hd : decodeWord w = .ok i) :
    stepIssue s = exec i t := by
  rw [stepIssue, h]
  dsimp only
  rw [hd]

theorem stepIssue_odd {s t : State} {w : Word} {e : DecodeErr} (h : fetchTurn s = .word w t) (hd : decodeWord w = .error e) :
    stepIssue s = .next (oddWord w t) := by
  rw [stepIssue, h]
  dsimp only
  rw [hd]

theorem stepIssue_stays {s t : State} (h : fetchTurn s = .stays t) : stepIssue s = .next t := by
  rw [stepIssue, h]

section
variable {a t : State} (ht : stepIssue a = .next t)
include ht

/-- A turn that comes to a wait, or whose split may not issue, ends there. -/
theorem issueTurn_ends (h : waited a t a.port = true ∨ canIssue a a.port = false) : issueTurn a = .next t := by
  have hc : (waited a t a.port || !canIssue a a.port) = true := by simpa using h
  simp only [issueTurn, ht, hc, if_true]

theorem issueTurn_later (hw : waited a t a.port = false) (hc : canIssue a a.port = true)
    (hs : scheduled a a.port = false) : issueTurn a = .next a := by
  simp [issueTurn, ht, hw, hc, hs]

theorem issueTurn_alone {w : Warp} (hw : waited a t a.port = false) (hc : canIssue a a.port = true)
    (hq : a.warp? a.port.core a.port.slot a.port.warp = some w) (hs : scheduled a a.port = true)
    (h2 : secondSplit a a.port = none) : issueTurn a = .next (issuedMark t a.port w.quarter) := by
  simp [issueTurn, ht, hw, hc, hs, hq, h2]

theorem issueTurn_pair {w : Warp} {q : Port} (hw : waited a t a.port = false) (hc : canIssue a a.port = true)
    (hq : a.warp? a.port.core a.port.slot a.port.warp = some w) (hs : scheduled a a.port = true)
    (h2 : secondSplit a a.port = some q) :
    issueTurn a = .next (issuedMark (issuePair a a.port q) a.port w.quarter) := by
  simp [issueTurn, ht, hw, hc, hs, hq, h2]

end

theorem defaultTurn_ready {s : State} {p : Port}
    (h : ((runnable s).find? fun p => readyAt s p && scheduled s p) = some p) : defaultTurn s = issueTurn { s with port := p } := by
  rw [defaultTurn, h]

/-- No quarter chooses a split: a cycle passes, and the next runnable split has its turn. -/
theorem defaultTurn_next {s : State} {p : Port} (h : ((runnable s).find? fun p => readyAt s p && scheduled s p) = none)
    (hn : nextPort (passCycles s 1 1) = some p) : defaultTurn s = issueTurn { passCycles s 1 1 with port := p } := by
  rw [defaultTurn, h]
  dsimp only
  rw [hn]

theorem defaultTurn_idle {s : State} (h : ((runnable s).find? fun p => readyAt s p && scheduled s p) = none)
    (hn : nextPort (passCycles s 1 1) = none) : defaultTurn s = .next (passCycles s 1 1) := by
  rw [defaultTurn, h]
  dsimp only
  rw [hn]

/-! ### The fetch (10 R206) -/

/-- Four bytes with the lowest address first are a word. -/
theorem ofNat_ofBytes_leWord (b0 b1 b2 b3 : Byte) : BitVec.ofNat 32 (ofBytes [b0, b1, b2, b3]) = leWord b0 b1 b2 b3 := by
  apply BitVec.eq_of_toNat_eq
  simp only [ofBytes, leWord, BitVec.toNat_ofNat, BitVec.toNat_append]
  rw [← Nat.shiftLeft_add_eq_or_of_lt b0.isLt, ← Nat.shiftLeft_add_eq_or_of_lt b1.isLt, ← Nat.shiftLeft_add_eq_or_of_lt b2.isLt]
  omega

theorem fetchHbm_poisoned {t : State} {c pa : Nat} (hl : ((t.core c).l1i.find? fun p => p.1 == lineOf pa) = none)
    (hp : poisoned t pa 4 = true) : fetchHbm t c pa = (.error 0x095, t) := by
  simp [fetchHbm, hl, hp]

section
variable {t : State} {pa : Nat} {b0 b1 b2 b3 : Byte} (hb : peekHbm t pa 4 = [b0, b1, b2, b3]) {c : Nat}
include hb

/-- A line that L1I does not hold comes from home. -/
theorem fetchHbm_missing (hl : ((t.core c).l1i.find? fun p => p.1 == lineOf pa) = none) (hp : poisoned t pa 4 = false) :
    fetchHbm t c pa = (.ok (leWord b0 b1 b2 b3), fillL1i t c (lineOf pa)) := by
  simp [fetchHbm, hl, hp, hb, ofNat_ofBytes_leWord]

/-- A line that L1I holds as home has it needs no access. -/
theorem fetchHbm_held {p : Nat × Line} (hl : ((t.core c).l1i.find? fun p => p.1 == lineOf pa) = some p)
    (hp : poisoned t pa 4 = false) (hw : lineNum p.2 (pa % 128) 4 = (leWord b0 b1 b2 b3).toNat) :
    fetchHbm t c pa = (.ok (leWord b0 b1 b2 b3), t) := by
  simp [fetchHbm, hl, hp, hb, hw, ofNat_ofBytes_leWord]

end

theorem fetchWord_hbm {s t : State} {c asid va pa : Nat} {l1 : Bool}
    (h : translate s c asid va .fetch = (.ok { at_ := .hbm pa, cached := l1 }, t)) : fetchWord s c asid va = fetchHbm t c pa := by
  rw [fetchWord, h]

theorem fetchWord_error {s t : State} {c asid va cause : Nat} (h : translate s c asid va .fetch = (.error cause, t)) :
    fetchWord s c asid va = (.error cause, t) := by
  rw [fetchWord, h]

section
variable {s : State} {b : Block} {w : Warp} {q : Split} (h : portReady s b w q) {t : State}
include h

theorem split?_portReady : s.split? s.port.core s.port.slot s.port.warp s.port.split = some q := by
  obtain ⟨-, -, hw, hq, -⟩ := h
  simp [State.split?, hw, hq]

/-- The turn of a split that may issue, and waits for no result, is the word that its fetch gives. -/
theorem fetchTurn_word {v : Word} (hf : fetchWord s s.port.core b.asid q.pc.toNat = (.ok v, t)) : fetchTurn s = .word v t := by
  have hsplit := split?_portReady h
  obtain ⟨hc, hb, -, -, hl⟩ := h
  simp [fetchTurn, hc, hb, hsplit, hl, hf]

theorem fetchTurn_fault {cause : Nat} (hf : fetchWord s s.port.core b.asid q.pc.toNat = (.error cause, t)) :
    fetchTurn s = .stays (noLogFault t s.port cause 3 q.pc.toNat 0#64 q.em q.pc) := by
  have hsplit := split?_portReady h
  obtain ⟨hc, hb, -, -, hl⟩ := h
  simp [fetchTurn, hc, hb, hsplit, hl, hf]

end

/-! ### The statement -/

/-- Settles O55: clause by clause, from what a turn, an event and a fetch come to. -/
theorem stepRunsTheDecodedWord : Obligations.StepRunsTheDecodedWord := by
  unfold Obligations.StepRunsTheDecodedWord
  refine ⟨?word, ?stays, ?turn, ?default, ?time, ?event, ?fetch, ?fault⟩
  case word => exact fun s w t h => ⟨fun i hd => stepIssue_word h hd, fun e hd => stepIssue_odd h hd⟩
  case stays => exact fun s t h => stepIssue_stays h
  case turn =>
    intro s p r t ha a ht
    rw [step_issue ha]
    exact ⟨issueTurn_ends ht, fun hw hc => ⟨issueTurn_later ht hw hc, fun w hq hs => ⟨issueTurn_alone ht hw hc hq hs,
      fun q => issueTurn_pair ht hw hc hq hs⟩⟩⟩
  case default =>
    intro s ha
    have hlater : (passCycles s 1 1).agenda = [] := (agenda_passCycles s 1 1).trans ha
    rw [step_default ha]
    refine ⟨fun p hp => (defaultTurn_ready hp).trans (step_ask ha p).symm, fun hp => ⟨fun p hn => ?_, fun hn => ?_⟩⟩
    · rw [defaultTurn_next hp hn, step_ask hlater]
    · exact defaultTurn_idle hp hn
  case time => exact fun s c n r ha => step_time ha
  case event => exact fun s i r ha => (step_event ha).trans (stepEvent_eq i _)
  case fetch =>
    intro s b w q c pa t b0 b1 b2 b3 h htr hb held
    have hword := fetchWord_hbm htr
    exact ⟨fun hl hp => fetchTurn_word h (hword.trans (fetchHbm_missing hb hl hp)),
      fun hl hp => fetchTurn_fault h (hword.trans (fetchHbm_poisoned hl hp)),
      fun p hl hp hw => fetchTurn_word h (hword.trans (fetchHbm_held hb hl hp hw))⟩
  case fault => exact fun s b w q cause t h htr => fetchTurn_fault h (fetchWord_error htr)

end Sys2Proof.Proofs.Turns

/-! Rounding: a value between two multiples goes to one of them by its mode, and a pattern's own value stays (O12). -/

namespace Sys2Proof.Proofs.Rounding

open Sys2Proof Sys2Proof.Machine

/-! ### Rounding to a coarser unit (07 R138, R139) -/

/-- The multiple below a magnitude in units of `2^k`, or the next one. -/
theorem roundAt_coarser (mode : RMode) (neg : Bool) (m k : Nat) (e : Int) (hk : 0 < k) :
    roundAt mode neg m e (e + k) false
      = (if roundUp mode neg (m / 2 ^ k) (m % 2 ^ k) k false then m / 2 ^ k + 1 else m / 2 ^ k, decide (m % 2 ^ k ≠ 0)) := by
  have hq : ¬ e + (k : Int) ≤ e := by omega
  have hs : (e + (k : Int) - e).toNat = k := by omega
  simp only [roundAt, if_neg hq, hs, Bool.or_false]
  rw [decide_not]
  rfl

theorem roundUp_rne {neg : Bool} {t r k : Nat} (hk : 0 < k) :
    roundUp .rne neg t r k false = decide (2 ^ k < 2 * r ∨ 2 * r = 2 ^ k ∧ t % 2 = 1) := by
  have hp : 2 ^ k = 2 * 2 ^ (k - 1) := by rw [← Nat.pow_succ']; congr 1; omega
  simp only [roundUp, if_neg (Nat.ne_of_gt hk), hp]
  grind

/-- The nearer multiple, of two equally near the even one. -/
theorem nearest_even {m n t r u : Nat} (hm : m = t * n + r) (hr : r < n)
    (hu : u = if n < 2 * r ∨ 2 * r = n ∧ t % 2 = 1 then t + 1 else t) :
    2 * m ≤ (2 * u + 1) * n ∧ 2 * u * n ≤ 2 * m + n
      ∧ ((2 * m = (2 * u + 1) * n ∨ 2 * u * n = 2 * m + n) → u % 2 = 0) := by
  have h1 : (2 * u + 1) * n = 2 * (u * n) + n := by rw [Nat.add_mul, Nat.one_mul, Nat.mul_assoc]
  have h2 : 2 * u * n = 2 * (u * n) := Nat.mul_assoc 2 u n
  have h3 : (t + 1) * n = t * n + n := Nat.succ_mul t n
  rw [h1, h2]
  subst hu
  split
  · rw [h3]; omega
  · omega

/-- The multiple below. -/
theorem multiple_below {m n t r : Nat} (hm : m = t * n + r) (hr : r < n) : t * n ≤ m ∧ m < (t + 1) * n := by
  rw [Nat.add_mul]; omega

/-- The multiple above, which is the magnitude itself when nothing is discarded. -/
theorem multiple_above {m n t r : Nat} (hm : m = t * n + r) (hr : r < n) :
    m ≤ (if r ≠ 0 then t + 1 else t) * n ∧ (if r ≠ 0 then t + 1 else t) * n < m + n := by
  split
  · rw [Nat.add_mul]; omega
  · omega

/-! ### The value of a pattern -/

theorem roundAt_same (mode : RMode) (neg : Bool) (m : Nat) (e : Int) (more : Bool) : roundAt mode neg m e e more = (m, more) := by
  simp [roundAt]

/-- A pattern below `2^width` is its sign and its magnitude code. -/
theorem signBit_add_code {f : Fmt} {x : Nat} (h : x < 2 ^ f.width) :
    f.signBit (x / 2 ^ (f.exp + f.man) % 2 == 1) + x % 2 ^ (f.exp + f.man) = x := by
  have hw : 2 ^ f.width = 2 ^ (f.exp + f.man) * 2 := by rw [← Nat.pow_succ]; congr 1; simp [Fmt.width]; omega
  have hq : x / 2 ^ (f.exp + f.man) < 2 := Nat.div_lt_of_lt_mul (hw ▸ h)
  have hx := Nat.div_add_mod x (2 ^ (f.exp + f.man))
  rcases Nat.le_one_iff_eq_zero_or_eq_one.mp (Nat.le_of_lt_succ hq) with h0 | h1
  · simpa [Fmt.signBit, h0] using hx
  · simpa [Fmt.signBit, h1] using hx

/-- A code is its exponent and mantissa fields. -/
theorem code_fields (f : Fmt) (x : Nat) :
    let code := x % 2 ^ (f.exp + f.man)
    code = code / 2 ^ f.man * 2 ^ f.man + code % 2 ^ f.man ∧ code % 2 ^ f.man < 2 ^ f.man ∧ code / 2 ^ f.man < 2 ^ f.exp := by
  refine ⟨(Nat.div_add_mod' _ _).symm, Nat.mod_lt _ (Nat.two_pow_pos _), Nat.div_lt_of_lt_mul ?_⟩
  rw [← Nat.pow_add, Nat.add_comm f.man]
  exact Nat.mod_lt _ (Nat.two_pow_pos _)

/-- What a finite pattern decodes to: its sign, and the value of a code that is no larger than the largest finite one. -/
theorem decode_fin {f : Fmt} {x m : Nat} {neg : Bool} {e : Int} (h : f.decode x = .fin neg m e) :
    (x / 2 ^ (f.exp + f.man) % 2 == 1) = neg ∧ f.magnitude (x % 2 ^ (f.exp + f.man)) = (m, e)
      ∧ x % 2 ^ (f.exp + f.man) ≤ f.maxCode := by
  obtain ⟨hcode, hmant, hexp⟩ := code_fields f x
  have hlt : x % 2 ^ (f.exp + f.man) < 2 ^ (f.exp + f.man) := Nat.mod_lt _ (Nat.two_pow_pos _)
  unfold Fmt.decode at h
  unfold Fmt.maxCode
  generalize x % 2 ^ (f.exp + f.man) = code at *
  cases hn : f.nan with
  | ieee =>
    simp only [hn] at h
    split at h
    · split at h <;> cases h
    next hne =>
      injection h with hs hm he
      refine ⟨hs, Prod.ext hm he, ?_⟩
      have hle : code / 2 ^ f.man ≤ 2 ^ f.exp - 2 := by omega
      have := Nat.mul_le_mul_right (2 ^ f.man) hle
      dsimp only
      omega
  | top =>
    simp only [hn] at h
    split at h
    · cases h
    next hne =>
      injection h with hs hm he
      exact ⟨hs, Prod.ext hm he, by dsimp only; omega⟩
  | none =>
    simp only [hn] at h
    injection h with hs hm he
    exact ⟨hs, Prod.ext hm he, by dsimp only; omega⟩

/-- A magnitude whose unit is the format's unit at that magnitude is kept as its own code. -/
theorem roundFin_exact {f : Fmt} {env : FEnv} {neg : Bool} {m code : Nat} {e : Int} (hm : m ≠ 0)
    (hunit : (if e + (bitLen m : Int) - 1 < f.emin then f.emin else e + (bitLen m : Int) - 1) - (f.man : Int) = e)
    (htop : m < 2 ^ (f.man + 1))
    (hcode : (if m < 2 ^ f.man then (m : Int) else (e + f.man + f.bias) * 2 ^ f.man + ((m : Int) - 2 ^ f.man)) = code)
    (hmax : code ≤ f.maxCode) (hflush : ¬ (env.ftz ∧ f.flush ∧ m < 2 ^ f.man)) :
    f.roundFin env neg m e false = (f.signBit neg + code, {}) := by
  have hfl : (env.ftz && f.flush && decide (m < 2 ^ f.man) && m != 0) = false := by
    rw [Bool.eq_false_iff]
    simp only [ne_eq, Bool.and_eq_true, decide_eq_true_eq]
    exact fun ⟨⟨⟨hftz, hf⟩, hlow⟩, _⟩ => hflush ⟨hftz, hf, hlow⟩
  have hover : ¬ (code : Int) > (f.maxCode : Int) := by omega
  simp only [Fmt.roundFin, if_neg hm, hunit, roundAt_same, if_neg (Nat.ne_of_lt htop), hcode, if_neg hover, hfl,
    Bool.false_eq_true, if_false, Bool.false_and, Int.toNat_natCast]

theorem bitLen_normal {n d : Nat} (hd : d < 2 ^ n) : bitLen (2 ^ n + d) = n + 1 := by
  have hpos := Nat.two_pow_pos n
  have hlog : (2 ^ n + d).log2 = n := (Nat.log2_eq_iff (by omega)).mpr ⟨by omega, by rw [Nat.pow_succ]; omega⟩
  rw [bitLen, if_neg (by omega), hlog]

theorem bitLen_le {m n : Nat} (h : m < 2 ^ n) : bitLen m ≤ n := by
  unfold bitLen
  split
  · omega
  next h0 => exact (Nat.log2_lt h0).mpr h

/-- Rounding the value of a finite pattern into its own format gives the pattern back. -/
theorem roundFin_decode {f : Fmt} {env : FEnv} {x m : Nat} {neg : Bool} {e : Int} (hx : x < 2 ^ f.width)
    (h : f.decode x = .fin neg m e) (hflush : ¬ (env.ftz ∧ f.flush ∧ m < 2 ^ f.man)) :
    f.roundFin env neg m e false = (x, {}) := by
  obtain ⟨hneg, hmag, hmax⟩ := decode_fin h
  obtain ⟨hcode, hmant, -⟩ := code_fields f x
  have hsum := signBit_add_code hx
  rw [hneg] at hsum
  rw [← hsum]
  unfold Fmt.magnitude at hmag
  dsimp only at hmag
  generalize x % 2 ^ (f.exp + f.man) = code at *
  generalize code / 2 ^ f.man = E, code % 2 ^ f.man = d at *
  have htop : 2 ^ (f.man + 1) = 2 * 2 ^ f.man := Nat.pow_succ'
  by_cases hE : E = 0
  · -- a zero or a subnormal value: the mantissa alone
    rw [if_pos hE, Prod.mk.injEq] at hmag
    obtain ⟨rfl, rfl⟩ := hmag
    rw [hE, Nat.zero_mul, Nat.zero_add] at hcode
    subst hcode
    by_cases h0 : code = 0
    · simp [Fmt.roundFin, h0]
    · have := bitLen_le hmant
      exact roundFin_exact h0 (by rw [if_pos (by omega)]) (by omega) (if_pos hmant) hmax hflush
  · -- a normal value: the mantissa under a leading one
    rw [if_neg hE, Prod.mk.injEq] at hmag
    obtain ⟨rfl, rfl⟩ := hmag
    have hpos := Nat.two_pow_pos f.man
    refine roundFin_exact (by omega) ?_ (by omega) ?_ hmax hflush
    · rw [bitLen_normal hmant, if_neg (by unfold Fmt.emin; omega)]
      omega
    · have hfield : (E : Int) - f.bias - f.man + f.man + f.bias = E := by omega
      rw [if_neg (by omega), hcode, hfield]
      push_cast
      omega

/-- Settles O12: the multiple that each mode chooses is the one below or above, and a pattern's own value needs no rounding. -/
theorem roundingResults : Obligations.RoundingResults := by
  unfold Obligations.RoundingResults
  refine ⟨fun neg m k e hk => ?_, fun f _ env x neg m e => roundFin_decode⟩
  simp only [roundAt_coarser _ _ _ _ _ hk, implies_true, true_and]
  have hm : m = m / 2 ^ k * 2 ^ k + m % 2 ^ k := (Nat.div_add_mod' _ _).symm
  have hr : m % 2 ^ k < 2 ^ k := Nat.mod_lt _ (Nat.two_pow_pos _)
  have below := multiple_below hm hr
  have above := multiple_above hm hr
  refine ⟨nearest_even hm hr ?_, below, ?rd, ?ru, fun b => ?sr⟩
  · simp only [roundUp_rne hk, decide_eq_true_eq]
  case rd =>
    cases neg
    · exact below
    · simpa [roundUp] using above
  case ru =>
    cases neg
    · simpa [roundUp] using above
    · exact below
  case sr =>
    simp only [roundUp, decide_eq_true_eq]
    split <;> rfl

end Sys2Proof.Proofs.Rounding

/-! NaNs, infinities, zeros and overflow in the arithmetic of the four IEEE formats (O13). -/

namespace Sys2Proof.Proofs.Specials

open Sys2Proof Sys2Proof.Machine

/-! ### Special patterns -/

theorem isNan_iff {f : Fmt} {x : Nat} : f.isNan x = true ↔ f.decode x = .nan (f.isSnan x) := by
  unfold Fmt.isNan Fmt.isSnan
  cases f.decode x <;> simp

theorem input_nan {f : Fmt} {x : Nat} (h : f.isNan x = true) (ftz : Bool) : f.input ftz x = (.nan (f.isSnan x), {}) := by
  simp [Fmt.input, isNan_iff.mp h]

/-- An operand that is no NaN is none after the input flush either, and raises no invalid flag. -/
theorem input_not_nan {f : Fmt} {x : Nat} (h : ¬ f.isNan x = true) (ftz : Bool) :
    (∀ s, (f.input ftz x).1 ≠ .nan s) ∧ (f.input ftz x).2.nv = false := by
  unfold Fmt.isNan at h
  unfold Fmt.input
  cases hd : f.decode x with
  | nan s => simp [hd] at h
  | inf n => simp
  | fin n m e => dsimp only; split <;> simp

theorem isSnan_of_not_isNan {f : Fmt} {x : Nat} (h : ¬ f.isNan x = true) : f.isSnan x = false := by
  unfold Fmt.isNan at h
  unfold Fmt.isSnan
  cases hd : f.decode x <;> simp_all

section
variable {f : Fmt} (hf : f ∈ [Fmt.f64, .f32, .f16, .bf16])
include hf

theorem decode_infCode (p : Bool) : f.decode (f.infCode p) = .inf p := by
  simp only [List.mem_cons, List.not_mem_nil, or_false] at hf
  rcases hf with rfl | rfl | rfl | rfl <;> cases p <;> decide

theorem decode_signBit (p : Bool) : f.decode (f.signBit p) = .fin p 0 (f.emin - f.man) := by
  simp only [List.mem_cons, List.not_mem_nil, or_false] at hf
  rcases hf with rfl | rfl | rfl | rfl <;> cases p <;> decide

theorem nan_ieee : f.nan = .ieee := by
  simp only [List.mem_cons, List.not_mem_nil, or_false] at hf
  rcases hf with rfl | rfl | rfl | rfl <;> rfl

theorem input_infCode (ftz p : Bool) : f.input ftz (f.infCode p) = (.inf p, {}) := by
  simp [Fmt.input, decode_infCode hf]

theorem input_signBit (ftz p : Bool) : f.input ftz (f.signBit p) = (.fin p 0 (f.emin - f.man), {}) := by
  simp [Fmt.input, decode_signBit hf]

end

/-! ### NaNs in -/

/-- An operation on values answers the canonical NaN to NaNs, and signals for signalling ones (07 R134). -/
def nanThrough (f : Fmt) (op : FVal → FVal → Nat × Flags) : Prop :=
  (∀ s t, op (.nan s) (.nan t) = f.nanOf (s || t))
  ∧ (∀ s v, (∀ t, v ≠ .nan t) → op (.nan s) v = f.nanOf s)
  ∧ ∀ t v, (∀ s, v ≠ .nan s) → op v (.nan t) = f.nanOf t

/-- It is enough to know the answers with an infinity and with a finite value beside the NaN. -/
theorem nanThrough_of {f : Fmt} {op : FVal → FVal → Nat × Flags} (both : ∀ s t, op (.nan s) (.nan t) = f.nanOf (s || t))
    (left : ∀ s n, op (.nan s) (.inf n) = f.nanOf s ∧ ∀ m e, op (.nan s) (.fin n m e) = f.nanOf s)
    (right : ∀ t n, op (.inf n) (.nan t) = f.nanOf t ∧ ∀ m e, op (.fin n m e) (.nan t) = f.nanOf t) : nanThrough f op := by
  refine ⟨both, fun s v hv => ?_, fun t v hv => ?_⟩
  · cases v with
    | nan t => exact absurd rfl (hv t)
    | inf n => exact (left s n).1
    | fin n m e => exact (left s n).2 m e
  · cases v with
    | nan s => exact absurd rfl (hv s)
    | inf n => exact (right t n).1
    | fin n m e => exact (right t n).2 m e

theorem nanThrough_addV (f : Fmt) (env : FEnv) : nanThrough f (f.addV env) :=
  nanThrough_of (fun _ _ => rfl) (fun _ _ => ⟨rfl, fun _ _ => rfl⟩) fun _ _ => ⟨rfl, fun _ _ => rfl⟩

theorem nanThrough_subV (f : Fmt) (env : FEnv) : nanThrough f fun x y => f.addV env x y.neg :=
  nanThrough_of (fun _ _ => rfl) (fun _ _ => ⟨rfl, fun _ _ => rfl⟩) fun _ _ => ⟨rfl, fun _ _ => rfl⟩

theorem nanThrough_mulV (f : Fmt) (env : FEnv) : nanThrough f (f.mulV env) :=
  nanThrough_of (fun _ _ => rfl) (fun _ _ => ⟨rfl, fun _ _ => rfl⟩) fun _ _ => ⟨rfl, fun _ _ => rfl⟩

theorem nanThrough_divV (f : Fmt) (env : FEnv) : nanThrough f (f.divV env) :=
  nanThrough_of (fun _ _ => rfl) (fun _ _ => ⟨rfl, fun _ _ => rfl⟩) fun _ _ => ⟨rfl, fun _ _ => rfl⟩

/-- An operation on patterns of which one is a NaN. -/
theorem bin_nan {f : Fmt} {env : FEnv} {op : FVal → FVal → Nat × Flags} (hop : nanThrough f op) {a b : Nat}
    (h : f.isNan a = true ∨ f.isNan b = true) :
    (f.bin env op a b).1 = f.cnan ∧ (f.bin env op a b).2.nv = (f.isSnan a || f.isSnan b) := by
  obtain ⟨both, left, right⟩ := hop
  by_cases ha : f.isNan a = true
  · by_cases hb : f.isNan b = true
    · simp [Fmt.bin, input_nan ha, input_nan hb, both, Fmt.nanOf, Flags.or]
    · obtain ⟨hv, hnv⟩ := input_not_nan hb env.ftz
      simp [Fmt.bin, input_nan ha, left _ _ hv, hnv, isSnan_of_not_isNan hb, Fmt.nanOf, Flags.or]
  · have hb := h.resolve_left ha
    obtain ⟨hv, hnv⟩ := input_not_nan ha env.ftz
    simp [Fmt.bin, input_nan hb, right _ _ hv, hnv, isSnan_of_not_isNan ha, Fmt.nanOf, Flags.or]

/-! ### Invalid operations and division by zero -/

/-- An operation on two patterns that are read as they are. -/
theorem bin_of_inputs {f : Fmt} {env : FEnv} {a b : Nat} {x y : FVal} (ha : f.input env.ftz a = (x, {}))
    (hb : f.input env.ftz b = (y, {})) (op : FVal → FVal → Nat × Flags) : f.bin env op a b = op x y := by
  simp [Fmt.bin, ha, hb, Flags.or]

/-- Settles O13: each clause reads its operands' values, on which the operation's own case answers. -/
theorem specialFloatResults : Obligations.SpecialFloatResults := by
  unfold Obligations.SpecialFloatResults
  intro f hf env a b c p q
  have inf := input_infCode hf env.ftz
  have zero := input_signBit hf env.ftz
  refine ⟨fun h op hop => ?nan, ?add, ?sub, ?mul, ?divInf, ?divZero, ?fma, fun m e ha hm hftz => ?byZero, fun hs => ?sat,
    fun hs => ?overflow⟩
  case nan =>
    simp only [List.mem_cons, List.not_mem_nil, or_false] at hop
    rcases hop with rfl | rfl | rfl | rfl
    · exact bin_nan (nanThrough_addV f env) h
    · exact bin_nan (nanThrough_subV f env) h
    · exact bin_nan (nanThrough_mulV f env) h
    · exact bin_nan (nanThrough_divV f env) h
  case add => simp [faddElem, bin_of_inputs (inf p) (inf !p), Fmt.addV]
  case sub => simp [fsubElem, bin_of_inputs (inf p) (inf p), Fmt.addV, FVal.neg]
  case mul => simp [fmulElem, bin_of_inputs (zero p) (inf q), Fmt.mulV]
  case divInf => simp [fdivElem, bin_of_inputs (inf p) (inf q), Fmt.divV]
  case divZero => simp [fdivElem, bin_of_inputs (zero p) (zero q), Fmt.divV]
  case fma => simp [ffmaElem, bin_of_inputs (zero p) (inf q), Fmt.fmaV, Flags.invalid, Flags.or]
  case byZero =>
    have hin : f.input env.ftz a = (.fin p m e, {}) := by simp [Fmt.input, ha, hftz]
    simp [fdivElem, bin_of_inputs hin (zero q), Fmt.divV, hm]
  case sat => simp [Fmt.overflow, hs]
  case overflow =>
    simp only [Fmt.overflow, hs, nan_ieee hf, Bool.false_eq_true, if_false]
    cases env.mode <;> cases p <;> rfl

end Sys2Proof.Proofs.Specials

/-! FCVT under its own settings (O11). -/

namespace Sys2Proof.Proofs.Conversion

open Sys2Proof Sys2Proof.Machine Sys2Proof.Laws

/-- Settles O11: FCVT is a floating-point element-wise instruction of one rounding, whose settings are its own fields and the
lead's flush bit. -/
theorem conversionResults : Obligations.ConversionResults := by
  unfold Obligations.ConversionResults
  intro c n m g e d a x y
  refine float_result (fun s => rfl) rfl (fun z sv s hn => ?settings) (fun fs r w w' hv hx l => ?lanes)
  case settings =>
    have hfpm : Ix.fpm { z with saved := sv }
        (advance (laneMeta c 3 [vop a (cvtWidth x)] (vop d (cvtWidth y))) z s) = z.fpm s := fpm_advance s hn
    simp only [hfpm]
  case lanes => simp only [readOp_congr hv hx]

end Sys2Proof.Proofs.Conversion

/-! An arithmetic trap: what has been written when it is taken, and what it names (O14). -/

namespace Sys2Proof.Proofs.ArithTraps

open Sys2Proof Sys2Proof.Machine Sys2Proof.Laws

/-! ### The lowest bit -/

/-- The search from bit `i` on finds the lowest bit set, when one of the `n` bits is. -/
theorem lowBit_lowest {v i n : Nat} (h : ∃ j, i ≤ j ∧ j < i + n ∧ v.testBit j = true) :
    ∃ k, lowBit v i n = some k ∧ k < i + n ∧ v.testBit k = true ∧ ∀ j, i ≤ j → j < k → v.testBit j = false := by
  induction n generalizing i with
  | zero => obtain ⟨j, h1, h2, -⟩ := h; omega
  | succ n ih =>
    cases hi : v.testBit i with
    | true => exact ⟨i, by rw [lowBit, if_pos hi], by omega, hi, fun j h1 h2 => by omega⟩
    | false =>
      obtain ⟨j, h1, h2, h3⟩ := h
      have hne : i ≠ j := fun e => by rw [e, h3] at hi; cases hi
      obtain ⟨k, hk, hlt, hset, hlow⟩ := ih (i := i + 1) ⟨j, by omega, by omega, h3⟩
      refine ⟨k, by rw [lowBit, if_neg (by simp [hi])]; exact hk, by omega, hset, fun j' h1' h2' => ?_⟩
      rcases Nat.eq_or_lt_of_le h1' with rfl | hlt'
      · exact hi
      · exact hlow j' hlt' h2'

/-! ### The lanes that raise an enabled flag -/

/-- The raised flags that are enabled are those of the lanes that raise one. -/
theorem bit_flagBits_raisers (l : LaneFlags) (en : BitVec 8) (k : Nat) :
    bit (flagBits (raisers l en) &&& en) k = l.any fun p => bit (p.2.toBits &&& en) k := by
  have hand : ∀ v : BitVec 8, bit (v &&& en) k = (bit v k && bit en k) := fun v => by simp [bit]
  rw [hand, bit_flagBits, raisers, List.any_filter, Bool.eq_iff_iff]
  simp only [Bool.and_eq_true, List.any_eq_true, hand]
  constructor
  · rintro ⟨⟨p, hp, -, hset⟩, hen⟩
    exact ⟨p, hp, hset, hen⟩
  · rintro ⟨p, hp, hset, hen⟩
    refine ⟨⟨p, hp, ?_, hset⟩, hen⟩
    have hbit : bit (p.2.toBits &&& en) k = true := by rw [hand, hset, hen]; rfl
    rw [bne_iff_ne]
    intro hz
    rw [hz] at hbit
    simp [bit] at hbit

/-- The enabled flags (R143) are the five lowest. -/
theorem bit_enables_lt {x : Ix} {a : State} {v : BitVec 8} {k : Nat} (h : bit (v &&& enables x a) k = true) : k < 5 := by
  simp only [bit, enables, BitVec.getLsbD_and, Bool.and_eq_true] at h
  obtain ⟨-, -, h⟩ := h
  refine Nat.lt_of_not_le fun hk => ?_
  have : (0x1F#8).toNat < 2 ^ k := Nat.lt_of_lt_of_le (by decide : (0x1F#8).toNat < 2 ^ 5) (Nat.pow_le_pow_right (by omega) (by omega))
  rw [BitVec.getLsbD, Nat.testBit_lt_two_pow this] at h
  cases h

theorem exists_bit {v : BitVec 8} (h : (v != 0#8) = true) : ∃ k, bit v k = true := by
  refine Classical.byContradiction fun hn => bne_iff_ne.mp h (BitVec.eq_of_getLsbD_eq fun k _ => ?_)
  have hk : v.getLsbD k = false := Bool.eq_false_iff.mpr fun hset => hn ⟨k, hset⟩
  rw [hk, BitVec.getLsbD_zero]

theorem getD_absent {α : Type} {t : Tab α} {k : Nat} (h : k ∉ t.map (·.1)) (d : α) : t.getD k d = d := by
  unfold Tab.getD
  cases hk : t.get? k with
  | none => rfl
  | some v => exact absurd (List.mem_map_of_mem (Proofs.Packets.mem_of_get? hk)) h

/-- A table of the entries of a list that are not empty, of which an empty one would hold the initial value. -/
theorem getD_filter_map {α β : Type} {f : β → α} {d : α} {empty : β → Bool} (hd : ∀ b, empty b = true → f b = d)
    {l : List (Nat × β)} (hn : (l.map (·.1)).Nodup) {p : Nat × β} (hp : p ∈ l) :
    Tab.getD ((l.filter fun q => !empty q.2).map fun q => (q.1, f q.2)) p.1 d = f p.2 := by
  induction l with
  | nil => cases hp
  | cons q r ih =>
    obtain ⟨hq, hr⟩ := List.nodup_cons.mp hn
    rcases List.mem_cons.mp hp with rfl | hp
    · cases he : empty p.2 with
      | false => simp [he, Tab.getD, Tab.get?]
      | true =>
        rw [List.filter_cons_of_neg (by simp [he]), hd _ he]
        refine getD_absent (fun hk => hq ?_) d
        rw [List.map_map] at hk
        exact (List.filter_sublist.map _).subset hk
    · have hne : q.1 ≠ p.1 := fun e => hq (List.mem_map.mpr ⟨p, hp, e.symm⟩)
      rw [← ih hr hp]
      cases he : empty q.2 <;> simp [he, Tab.getD, Tab.get?, hne]

/-- The lanes that raise an enabled flag, as a mask. -/
theorem raisers_mask (w : Warp) (em : Mask) (fl : Nat → Flags) (en : BitVec 8) {l : Nat} (hl : l < 64) :
    (lanesMask ((raisers ((w.lanesOn em).map fun l => (l, fl l)) en).map (·.1))).getLsbD l
      = ((w.lanesOn em).contains l && (fl l).toBits &&& en != 0#8) := by
  have hlanes : (raisers ((w.lanesOn em).map fun l => (l, fl l)) en).map (·.1)
      = (maskLanes (em &&& ~~~w.helper)).filter fun l => (fl l).toBits &&& en != 0#8 := by
    rw [raisers, List.filter_map, List.map_map]
    exact List.map_id _
  have hon : (w.lanesOn em).contains l = inMask (em &&& ~~~w.helper) l := by
    rw [Bool.eq_iff_iff]
    simp [Warp.lanesOn, maskLanes, lanes, hl, inMask]
  rw [hlanes, lanesMask_bit _ hl, hon]

/-! ### Accruing flags of which one is enabled -/

/-- The members one of whose active lanes other than helper lanes raises an enabled flag. -/
def raising (x : Ix) (a : State) (fl : Warp → Nat → Flags) : List (Nat × Warp) :=
  (x.warps a).filter fun p => (p.2.lanesOn (x.em p.2)).any fun l => (fl p.2 l).toBits &&& enables x a != 0#8

/-- A member's flags, lane by lane. -/
def flagsOf (x : Ix) (fl : Warp → Nat → Flags) (w : Warp) : LaneFlags := (w.lanesOn (x.em w)).map fun l => (l, fl w l)

/-- The trap of the members that raise an enabled flag, of which `w` is the first. -/
def arithTrap (x : Ix) (a : State) (fl : Warp → Nat → Flags) (w : Warp) : TrapReq :=
  { cause := 0x1C0 + (lowBit (flagBits (raisers (flagsOf x fl w) (enables x a)) &&& enables x a).toNat 0 5).getD 0
    lanes := (raising x a fl).map fun p => (p.1, lanesMask ((raisers (flagsOf x fl p.2) (enables x a)).map (·.1)))
    resnext := true }

theorem raisers_isEmpty (x : Ix) (fl : Warp → Nat → Flags) (w : Warp) (en : BitVec 8) :
    (!(raisers (flagsOf x fl w) en).isEmpty) = (w.lanesOn (x.em w)).any fun l => (fl w l).toBits &&& en != 0#8 := by
  rw [raisers, flagsOf, List.filter_map, Bool.eq_iff_iff]
  simp

/-- The members' fpflags with their lanes' flags accrued. -/
def accrued (x : Ix) (before : List (Nat × LaneFlags)) (t : State) : State :=
  before.foldl (fun t p => t.modWarp x.core x.slot p.1 fun w => { w with fpflags := w.fpflags ||| flagBits p.2 }) t

/-- The members that raise an enabled flag, with the flags of their lanes that do. -/
theorem raisers_laneFlags (x : Ix) (a : State) (fl : Warp → Nat → Flags) :
    (((x.laneFlags a fl).map fun p => (p.1, raisers p.2 (enables x a))).filter fun p => !p.2.isEmpty)
      = (raising x a fl).map fun p => (p.1, raisers (flagsOf x fl p.2) (enables x a)) := by
  rw [Ix.laneFlags, List.map_map, List.filter_map, raising]
  congr 1
  exact List.filter_congr fun q _ => raisers_isEmpty x fl q.2 _

/-- Accruing flags of which one is enabled: the members' fpflags take them, and the trap follows. -/
theorem accrue_trap {x : Ix} {a t : State} {fl : Warp → Nat → Flags} (hfpm : x.fpm t = x.fpm a) {p : Nat × Warp}
    {r : List (Nat × Warp)} (h : raising x a fl = p :: r) :
    accrue x (x.laneFlags a fl) t = .trap (arithTrap x a fl p.2) (accrued x (x.laneFlags a fl) t) := by
  have hbad := raisers_laneFlags x a fl
  rw [h, List.map_cons] at hbad
  have hlanes : (raising x a fl).map (fun p => (p.1, lanesMask ((raisers (flagsOf x fl p.2) (enables x a)).map (·.1))))
      = ((p.1, raisers (flagsOf x fl p.2) (enables x a)) :: r.map fun p => (p.1, raisers (flagsOf x fl p.2) (enables x a))).map
          fun q => (q.1, lanesMask (q.2.map (·.1))) := by
    rw [h, List.map_cons, List.map_cons, List.map_map]
    rfl
  unfold enables at hbad
  unfold accrue arithTrap accrued
  rw [hlanes]
  simp only [hfpm, hbad]
  rfl

/-- The cause is the lowest enabled flag that the first member's lanes raise (06 R126; log 19). -/
theorem arithTrap_cause {x : Ix} {a : State} {fl : Warp → Nat → Flags} {p : Nat × Warp} {r : List (Nat × Warp)}
    (h : raising x a fl = p :: r) :
    ∃ k, k < 5 ∧ (arithTrap x a fl p.2).cause = 0x1C0 + k
      ∧ ((p.2.lanesOn (x.em p.2)).any fun l => bit ((fl p.2 l).toBits &&& enables x a) k) = true
      ∧ ∀ j, j < k → ∀ l ∈ p.2.lanesOn (x.em p.2), bit ((fl p.2 l).toBits &&& enables x a) j = false := by
  have hbits : ∀ k, (flagBits (raisers (flagsOf x fl p.2) (enables x a)) &&& enables x a).toNat.testBit k
      = (p.2.lanesOn (x.em p.2)).any fun l => bit ((fl p.2 l).toBits &&& enables x a) k := by
    intro k
    have := bit_flagBits_raisers (flagsOf x fl p.2) (enables x a) k
    rwa [flagsOf, List.any_map] at this
  have hp : p ∈ raising x a fl := h ▸ List.mem_cons_self
  obtain ⟨l, hl, hne⟩ := List.any_eq_true.mp (List.mem_filter.mp hp).2
  obtain ⟨j, hj⟩ := exists_bit hne
  have hset := (hbits j).trans (List.any_eq_true.mpr ⟨l, hl, hj⟩)
  obtain ⟨k, hk, hlt, hraised, hlow⟩ := lowBit_lowest (i := 0) (n := 5) ⟨j, by omega, by simpa using bit_enables_lt hj, hset⟩
  refine ⟨k, by omega, congrArg (fun o : Option Nat => 0x1C0 + o.getD 0) hk, (hbits k) ▸ hraised, fun i hi l hl => ?_⟩
  have := hlow i (Nat.zero_le i) hi
  rw [hbits] at this
  simpa using List.any_eq_false.mp this l hl

/-- The lanes are those that raise an enabled flag, in every member. -/
theorem arithTrap_lanes {x : Ix} {a : State} (hn : x.members.Nodup) (fl : Warp → Nat → Flags) (w : Warp) {u : Nat × Warp}
    (hu : u ∈ x.warps a) {l : Nat} (hl : l < 64) :
    ((arithTrap x a fl w).lanesOf u.1).getLsbD l
      = ((u.2.lanesOn (x.em u.2)).contains l && (fl u.2 l).toBits &&& enables x a != 0#8) := by
  have hmask : (arithTrap x a fl w).lanesOf u.1 = lanesMask ((raisers (flagsOf x fl u.2) (enables x a)).map (·.1)) := by
    have hempty : ∀ w : Warp, (!(w.lanesOn (x.em w)).any fun l => (fl w l).toBits &&& enables x a != 0#8) = true →
        lanesMask ((raisers (flagsOf x fl w) (enables x a)).map (·.1)) = 0#64 := by
      intro w hw
      rw [← raisers_isEmpty, Bool.not_not, List.isEmpty_iff] at hw
      rw [hw]
      rfl
    have htab := getD_filter_map hempty (warps_nodup a hn) hu
    simp only [Bool.not_not] at htab
    exact htab
  rw [hmask]
  exact raisers_mask u.2 (x.em u.2) (fl u.2) _ hl

/-! ### Results written before the flags -/

/-- The members' results written, and their seeds advanced under stochastic rounding. -/
def resultsWritten (x : Ix) (dst : VOp) (draws : Nat) (sr : Bool) (g : Warp → Nat → Nat × Flags) (s : State) : State :=
  if sr then (x.each (x.putLanes s dst fun _ w l => (g w l).1) fun _ w => w.advanceSeed (x.em w) draws)
  else x.putLanes s dst fun _ w l => (g w l).1

theorem fpm_putOp (w : Warp) (o : VOp) (out : Nat → Option Nat) : (w.putOp o out).fpm = w.fpm :=
  (congrArg Warp.fpm (putOp_rest w o out) :)

section
variable {m : Meta} {x : Ix} (a : State) (hn : x.members.Nodup) (dst : VOp) (draws : Nat) (sr : Bool)
  (g : Warp → Nat → Nat × Flags)
include hn

theorem fpm_resultsWritten : x.fpm (resultsWritten x dst draws sr g (advance m x a)) = x.fpm a := by
  have hput : x.fpm (x.putLanes (advance m x a) dst fun _ w l => (g w l).1) = x.fpm a :=
    (fpm_each _ hn _ fun _ w => fpm_putOp w dst _).trans (fpm_advance a hn)
  unfold resultsWritten
  split
  · exact (fpm_each _ hn (fun _ w => w.advanceSeed (x.em w) draws) fun _ _ => rfl).trans hput
  · exact hput

variable (hg : ∀ c w l, g (passWord m x c w) l = g w l)
include hg

theorem onMembers_putLanes : onMembers x a (x.putLanes (advance m x a) dst fun _ w l => (g w l).1) fun _ w w' =>
    { unissued w w' with vregs := w.vregs } = w ∧ lanesWritten x dst (fun l j => word32 (g w l).1 j) w w' := by
  refine onMembers_each a hn (fun _ w => w.putOp dst fun l => if inMask (x.em w) l then some (g w l).1 else none)
    (fun _ w => putOp_splits w dst _) fun k w _ => ⟨?rest, lanesWritten_put _ w (fun w l => (g w l).1) fun l => by rw [hg]⟩
  case rest =>
    have hput := congrArg (fun z : Warp => { unissued w z with vregs := w.vregs })
      (putOp_rest (passWord m x (counted m x a).cycle.toNat w) dst fun l =>
        if inMask (x.em (passWord m x (counted m x a).cycle.toNat w)) l
        then some (g (passWord m x (counted m x a).cycle.toNat w) l).1 else none)
    exact Eq.trans hput (congrArg (fun z : Warp => { z with vregs := w.vregs }) (passWord_law m x _ w).2)

theorem onMembers_resultsWritten : onMembers x a (resultsWritten x dst draws sr g (advance m x a)) fun _ w w' =>
    { unissued w w' with vregs := w.vregs, rseed := w.rseed } = w
    ∧ lanesWritten x dst (fun l j => word32 (g w l).1 j) w w' := by
  have hput := onMembers_putLanes a hn dst g hg
  have keep : ∀ (w w' : Warp) (v : Vec), { unissued w w' with vregs := w.vregs } = w →
      { unissued w { w' with rseed := v } with vregs := w.vregs, rseed := w.rseed } = w :=
    fun w w' v h => congrArg (fun z : Warp => { z with rseed := w.rseed }) h
  unfold resultsWritten
  split
  · refine onMembers_of hput (beyondMembers_each _ _ hn) fun k hk w w' _ hw' ⟨hrest, hlanes⟩ =>
      ⟨w'.advanceSeed (x.em w') draws, ?_, rfl, keep w w' _ hrest, hlanes⟩
    rw [warp?_each _ _ hn, if_pos hk, hw']
    rfl
  · exact onMembers_of hput (beyondMembers_refl _ _) fun k _ w w' _ hw' ⟨hrest, hlanes⟩ =>
      ⟨w', hw', rfl, keep w w' w'.rseed hrest, hlanes⟩

/-- The members once their results are written and their flags have accrued. -/
theorem onMembers_accrued :
    onMembers x a (accrued x (x.laneFlags a fun w l => (g w l).2) (resultsWritten x dst draws sr g (advance m x a)))
      fun _ w w' => { unissued w w' with vregs := w.vregs, fpflags := w.fpflags, rseed := w.rseed } = w
        ∧ lanesWritten x dst (fun l j => word32 (g w l).1 j) w w' ∧ flagsAccrued x (fun w l => (g w l).2) w w' := by
  refine onMembers_accrue hn (fun w l => (g w l).2) (onMembers_resultsWritten a hn dst draws sr g hg) ?_
  rintro k w w' ⟨hrest, hlanes⟩
  refine ⟨congrArg (fun z : Warp => { z with fpflags := w.fpflags }) hrest, hlanes, fun j _ => ?_⟩
  have hflags : w'.fpflags = w.fpflags := (congrArg Warp.fpflags hrest :)
  dsimp only
  rw [hflags, flags_or w.fpflags (fun w l => (g w l).2) j]

end

/-! ### The instruction -/

/-- An effect that traps past the word. -/
theorem perform_trap {m : Meta} {eff : Ix → State → Res} {x : Ix} {a t : State} {q : TrapReq}
    (h : eff { x with saved := savedSplits x a } (advance m x a) = .trap q t) (hq : q.resnext = true) :
    perform m eff x a = takeTrap (traceMark x t) x.at_ q := by
  unfold perform
  dsimp only
  rw [h]
  simp [hq, Ix.at_]

theorem srDraw_passWord (m : Meta) (x : Ix) (c : Nat) (w : Warp) (l : Nat) : srDraw (passWord m x c w) l = srDraw w l := by
  obtain ⟨-, -, -, -, -, hseed, -, -⟩ := passWord_fields m x c w
  funext i
  rw [srDraw, hseed, srDraw]

/-- What a floating-point element-wise instruction does where no operand faults. -/
theorem lanewiseF_advance {m : Meta} {x : Ix} {a : State} {dst : VOp} {srcs : List VOp} {draws : Nat}
    {f : FSet → (Nat → Nat) → Warp → Nat → Nat × Flags} (hn : x.members.Nodup) (sv : List (Nat × Split))
    (hop : operandsFine (srcs ++ [dst]) x a)
    (hf : ∀ e c w l, f e (srDraw (passWord m x c w) l) (passWord m x c w) l = f e (srDraw w l) w l) :
    lanewiseF dst srcs draws f { x with saved := sv } (advance m x a)
      = accrue x (x.laneFlags a fun w l => (f (x.fset a) (srDraw w l) w l).2)
          (resultsWritten x dst draws (x.fset a).sr (fun w l => f (x.fset a) (srDraw w l) w l) (advance m x a)) := by
  have hfaults : Ix.operandFaults { x with saved := sv } (advance m x a) (srcs ++ [dst]) = [] :=
    (operandFaults_advance a hn _).trans hop
  have hfset : Ix.fset { x with saved := sv } (advance m x a) = x.fset a := fset_advance x sv a hn
  unfold lanewiseF withOperands
  dsimp only
  rw [hfaults, hfset, ← laneFlags_advance a hn _ fun c w l => congrArg Prod.snd (hf (x.fset a) c w l)]
  rfl

/-- A member that has passed the word computes what it did before. -/
theorem floatElems_passWord (m : Meta) (x : Ix) (c : Nat) (fmt : Fmt) (n : Nat) (va vb vd : VOp)
    (f : FEnv → Nat → Nat → Nat → Nat × Flags) (e : FSet) (w : Warp) (l : Nat) :
    floatElems fmt n va vb vd f e (srDraw (passWord m x c w) l) (passWord m x c w) l
      = floatElems fmt n va vb vd f e (srDraw w l) w l := by
  obtain ⟨hv, hx, -⟩ := passWord_fields m x c w
  simp only [floatElems, srDraw_passWord, readOp_congr hv hx]

/-- A floating-point element-wise instruction of which a lane raises an enabled flag: results and flags, then the trap. -/
theorem issue_lanewiseF_traps {i : Instr} {m : Meta} {dst : VOp} {srcs : List VOp} {draws : Nat}
    {f : FSet → (Nat → Nat) → Warp → Nat → Nat × Flags} (hm : m.stamp = false) {s y : State} {x : Ix}
    (h : issuesAs i m noExtra noUniform s = some (x, y)) (hop : operandsFine (srcs ++ [dst]) x y)
    (hf : ∀ e c w l, f e (srDraw (passWord m x c w) l) (passWord m x c w) l = f e (srDraw w l) w l) {p : Nat × Warp}
    {r : List (Nat × Warp)} (hp : raising x y (fun w l => (f (x.fset y) (srDraw w l) w l).2) = p :: r) :
    issue i m noExtra noUniform (lanewiseF dst srcs draws f) s
      = takeTrap (traceMark x (accrued x (x.laneFlags y fun w l => (f (x.fset y) (srDraw w l) w l).2)
          (resultsWritten x dst draws (x.fset y).sr (fun w l => f (x.fset y) (srDraw w l) w l) (advance m x y)))) x.at_
          (arithTrap x y (fun w l => (f (x.fset y) (srDraw w l) w l).2) p.2) := by
  have hn := members_nodup h
  rw [issue_issuesAs h, withStamp_none hm]
  exact perform_trap ((lanewiseF_advance hn _ hop hf).trans (accrue_trap (fpm_resultsWritten y hn _ _ _ _) hp)) rfl

/-- A floating-point arithmetic instruction of two sources of which a lane raises an enabled flag. -/
theorem arith_trap {i : Instr} {c : BitVec 2} {n : Nat} {d a b : BitVec 6} {fmt : Fmt} {dist : Nat} {rounds : Bool}
    {f : FEnv → Nat → Nat → Nat → Nat × Flags}
    (hi : ∀ s, exec i s = .next (floatArith i c n d a b fmt dist true false rounds f s)) :
    ArithTrap i c n d a b fmt dist f := by
  intro s x y h hop fl members p r hp
  have hn := members_nodup h
  have hpass := fun m c e => floatElems_passWord m x c fmt n (vop a n) (vop b n) (vop d n) f e
  have hraise : raising x y (fun w l => (floatElems fmt n (vop a n) (vop b n) (vop d n) f (x.fset y) (srDraw w l) w l).2)
      = p :: r := hp
  have hissue := issue_lanewiseF_traps (srcs := [vop a n, vop b n]) (draws := if rounds then 32 * n / fmt.width else 0) rfl h
    hop (fun e c => hpass _ c e) hraise
  exact ⟨_, _, (hi s).trans (congrArg Host.Outcome.next hissue),
    onMembers_accrued y hn (vop d n) _ _ _ (fun c => hpass _ c (x.fset y)), rfl, arithTrap_cause hraise,
    fun u hu l hl => arithTrap_lanes hn _ p.2 hu hl⟩

/-- Settles O14: each instruction is the element-wise one of its format, with one rounding of each element. -/
theorem arithmeticTrapsAfterResults : Obligations.ArithmeticTrapsAfterResults := by
  unfold Obligations.ArithmeticTrapsAfterResults
  exact fun c w d a b => ⟨arith_trap fun s => rfl, arith_trap fun s => rfl, arith_trap fun s => rfl, arith_trap fun s => rfl⟩

end Sys2Proof.Proofs.ArithTraps
